-- ==== Sys2Proof/Word.lean ====
section
/-! DEFINITION. The word types of the machine and the sparse map that holds registers, tables and
memory: a list of keys and values with strictly rising keys and no entry equal to what an unlisted
key reads as. -/

namespace Sys2Proof

/-- A 64-bit register or memory word (03: R60). -/
abbrev Word := BitVec 64
/-- The smallest addressable unit (00: R5, R6). -/
abbrev Byte := BitVec 8
/-- A set of lanes of one wave, bit n for lane n (00: R2). -/
abbrev LaneMask := BitVec 32

/-- A sparse map from natural numbers: keys strictly rise, and no listed value is the default. -/
abbrev SMap (α : Type) := List (Nat × α)

/-- The value at a key, `d` where the key is not listed. -/
def SMap.get {α : Type} (d : α) : SMap α → Nat → α
  | [], _ => d
  | (k, v) :: rest, i => if i = k then v else if i < k then d else SMap.get d rest i

/-- Writes a value at a key, keeping the canonical form: the default value removes the entry. -/
def SMap.set {α : Type} [DecidableEq α] (d : α) : SMap α → Nat → α → SMap α
  | [], i, v => if v = d then [] else [(i, v)]
  | (k, w) :: rest, i, v =>
    if i = k then (if v = d then rest else (k, v) :: rest)
    else if i < k then (if v = d then (k, w) :: rest else (i, v) :: (k, w) :: rest)
    else (k, w) :: SMap.set d rest i v

/-- Every key of the map is above `lo` and they rise strictly, and no value is the default. -/
def SMap.wfAbove {α : Type} [DecidableEq α] (d : α) : Option Nat → SMap α → Bool
  | _, [] => true
  | lo, (k, v) :: rest =>
    (match lo with | none => true | some l => decide (l < k)) && decide (v ≠ d)
      && SMap.wfAbove d (some k) rest

/-- The canonical form. -/
def SMap.wf {α : Type} [DecidableEq α] (d : α) (m : SMap α) : Bool := SMap.wfAbove d none m

end Sys2Proof
end

