-- ==== Sys2Proof/Syntax.lean ====
section
/-! DEFINITION. The syntax of the A9: operand fields, the fields common to every instruction word, the
typed modifiers, and the one inductive of instructions: the 168 instructions of the opcode map
(02: R43) and the 104 steps the device takes on its own or at an outside request, one constructor
for each row of the opcode table. -/

namespace Sys2Proof

/-- The special operands (01: R30). -/
inductive Special where
  | lane | wave | blkx | blky | blkz | core | cyc | active
deriving DecidableEq, Repr

/-- One operand field (01: R26). -/
inductive Operand where
  /-- class 00: thread register v0 to v1023 -/
  | v (n : BitVec 10)
  /-- class 01: wave-uniform register w0 to w255 -/
  | w (n : BitVec 8)
  /-- class 10, subclass 00: predicate p0 to p7 -/
  | p (n : BitVec 3)
  /-- class 10, subclass 01: special operand -/
  | special (sp : Special)
  /-- class 10, subclass 10: small integer -/
  | small (k : BitVec 8)
  /-- class 10, subclass 11: FP constant -/
  | fpc (i : BitVec 6)
  /-- class 11: zero, or none -/
  | none
deriving DecidableEq, Repr

/-- The fields every word has beside op, mod and payload (01: R16), and the R form's fill field
(01: R25), which is zero in the other forms. -/
structure Hdr where
  guardNeg : Bool
  guard : BitVec 3
  stall : BitVec 4
  wait : BitVec 12
  setFlag : Option (Fin 12)
  yield : Bool
  safe : Bool
  lastA : Bool
  lastB : Bool
  lastX : Bool
  fill : BitVec 3
deriving DecidableEq, Repr

/-- The format tags (03: R73); the same names stand for the CVT format codes, `i4` for .S4. -/
inductive Tag where
  | raw | s64 | u64 | s32 | u32 | s16 | u16 | s8 | u8 | i4 | f64 | f32 | f16 | bf16 | k | kexp
deriving DecidableEq, Repr

/-- The integer types (02: R45). -/
inductive IntTy where
  | s64 | u64 | s32 | u32 | s16 | u16 | s8 | u8 | s4 | u4
deriving DecidableEq, Repr

/-- The floating-point types (02: R46, R47). -/
inductive FTy where
  | f64 | f32 | bf16 | f16
deriving DecidableEq, Repr

/-- The rounding modes (02: R47). -/
inductive Rnd where
  | rne | rtz | rup | rdn | rna
deriving DecidableEq, Repr

/-- The conditions (02: R46). -/
inductive Cond where
  | eq | ne | lt | le | gt | ge | num | nan
deriving DecidableEq, Repr

/-- mod of groups 0x0 and 0x1 (02: R45). -/
structure IntMod where
  ty : IntTy
  sat : Bool
deriving DecidableEq, Repr

/-- mod of ISETP and ISETPI (02: R46). -/
structure ICondMod where
  cond : Cond
  ty : IntTy
deriving DecidableEq, Repr

/-- mod of FSETP (02: R46). -/
structure FCondMod where
  cond : Cond
  ty : FTy
deriving DecidableEq, Repr

/-- mod of groups 0x5 and 0x6 (02: R47). -/
structure FpMod where
  rm : Rnd
  ty : FTy
deriving DecidableEq, Repr

/-- mod and imm27[7:0] of CVT (02: R48). -/
structure CvtMod where
  rm : Rnd
  sat : Bool
  src : Tag
  dst : Tag
deriving DecidableEq, Repr

/-- The two block formats (03: R68). -/
inductive KFmt where
  | k8 | k4
deriving DecidableEq, Repr

/-- mod of PACKK: the format and D - 2 (02: R48). -/
structure PackMod where
  fmt : KFmt
  dist : BitVec 3
deriving DecidableEq, Repr

/-- mod of UNPKK (02: R48). -/
structure UnpackMod where
  fmt : KFmt
  ty : FTy
deriving DecidableEq, Repr

/-- The modes of SHFL (02: R49). -/
inductive ShMode where
  | idx | up | down | xor | rot
deriving DecidableEq, Repr

/-- The sub-element widths of SHFL (02: R49). -/
inductive ShWidth where
  | b64 | b32 | b16 | b8 | b4
deriving DecidableEq, Repr

/-- mod of SHFL and SHFLI (02: R49). -/
structure ShMod where
  mode : ShMode
  width : ShWidth
deriving DecidableEq, Repr

/-- mod of VOTE (02: R49). -/
inductive VoteMod where
  | all | any | uni | ballot
deriving DecidableEq, Repr

/-- The operations of RED, SCAN, SCANX and GRED (02: R49). -/
inductive RedOp where
  | add | min | max | and | or | xor
deriving DecidableEq, Repr

/-- The types of RED, SCAN, SCANX and GRED (02: R49). -/
inductive RedTy where
  | s64 | u64 | s32 | u32 | f64 | f32 | bf16 | f16
deriving DecidableEq, Repr

/-- mod of RED, SCAN, SCANX and GRED (02: R49). -/
structure RedMod where
  op : RedOp
  ty : RedTy
deriving DecidableEq, Repr

/-- Access sizes (02: R50). -/
inductive MemSize where
  | b8 | b16 | b32 | b64
deriving DecidableEq, Repr

/-- mod of the loads (02: R50). -/
structure LoadMod where
  rd : BitVec 3
  sext : Bool
  size : MemSize
deriving DecidableEq, Repr

/-- mod of the stores and PREF (02: R50). -/
structure StoreMod where
  rd : BitVec 3
  size : MemSize
deriving DecidableEq, Repr

/-- Scopes (02: R51). -/
inductive Scope where
  | thr | wave | blk | clu | die | dev | sys | dur
deriving DecidableEq, Repr

/-- Orderings (02: R51). -/
inductive Ordr where
  | relaxed | acq | rel | acqrel
deriving DecidableEq, Repr

/-- mod of the atomics (02: R51). -/
structure AtomMod where
  scope : Scope
  ord : Ordr
  wide : Bool
deriving DecidableEq, Repr

/-- mod of FENCE (02: R51). -/
structure FenceMod where
  scope : Scope
  ord : Ordr
deriving DecidableEq, Repr

/-- mod of MFILL, MMA and MMACK (02: R52). -/
inductive TileFmt where
  | bf16 | k8 | k4
deriving DecidableEq, Repr

/-- mod of GROW (02: R53). -/
inductive GrowMod where
  | wait | trap
deriving DecidableEq, Repr

/-- mod of MOVL (02: R53). -/
inductive MovlMod where
  | sext | zext | hi
deriving DecidableEq, Repr

/-- mod of TRET (17: R291). -/
inductive TretMod where
  | plain | exit | kill
deriving DecidableEq, Repr

/-- mod of LJOIN (17: R291). -/
inductive JoinMod where
  | wait | test
deriving DecidableEq, Repr


/-- What the check bits show (08: R172): nothing, an error of one bit, an uncorrectable error, and one that stands in a
granule and its mirror. -/
inductive FillEcc where
  | clean | corrected | bad | badBoth
deriving DecidableEq, Repr

/-- What FAULT_RETRY finds (16: R280; 08: R172): the retry of a failed operation succeeds or fails again, or check bits of the
pool show an error. -/
inductive RetryFind where
  | transient | lasting | corrected | bad | badBoth
deriving DecidableEq, Repr

/-- A request of a service ring: its slot words 0 to 7 in order (20: R334). -/
abbrev SvcReq := List Word

/-- What management command 0x01 gives a new tenant (20: R336). -/
structure TenantReq where
  asids : List Nat
  qmax : Nat
  partitions : List Nat
  ctlCart : Nat
deriving DecidableEq, Repr


/-- One constructor for each row of the opcode table. -/
inductive Instr where
  -- group 0x0
  | iadd (h : Hdr) (m : IntMod) (d : Operand) (a : Operand) (b : Operand)
  | isub (h : Hdr) (m : IntMod) (d : Operand) (a : Operand) (b : Operand)
  | imul (h : Hdr) (m : IntMod) (d : Operand) (a : Operand) (b : Operand)
  | imulh (h : Hdr) (m : IntMod) (d : Operand) (a : Operand) (b : Operand)
  | imad (h : Hdr) (m : IntMod) (d : Operand) (a : Operand) (b : Operand) (x : Operand)
  | imin (h : Hdr) (m : IntMod) (d : Operand) (a : Operand) (b : Operand)
  | imax (h : Hdr) (m : IntMod) (d : Operand) (a : Operand) (b : Operand)
  | iabs (h : Hdr) (m : IntMod) (d : Operand) (a : Operand)
  | ineg (h : Hdr) (m : IntMod) (d : Operand) (a : Operand)
  | idiv (h : Hdr) (m : IntMod) (d : Operand) (a : Operand) (b : Operand)
  | irem (h : Hdr) (m : IntMod) (d : Operand) (a : Operand) (b : Operand)
  | isad (h : Hdr) (m : IntMod) (d : Operand) (a : Operand) (b : Operand) (x : Operand)
  | iaddi (h : Hdr) (m : IntMod) (d : Operand) (a : Operand) (imm : BitVec 27)
  | imuli (h : Hdr) (m : IntMod) (d : Operand) (a : Operand) (imm : BitVec 27)
  | lea (h : Hdr) (m : IntMod) (d : Operand) (a : Operand) (b : Operand) (imm : BitVec 15)
  | idot4 (h : Hdr) (m : IntMod) (d : Operand) (a : Operand) (b : Operand) (x : Operand)
  -- group 0x1
  | and (h : Hdr) (d : Operand) (a : Operand) (b : Operand)
  | or (h : Hdr) (d : Operand) (a : Operand) (b : Operand)
  | xor (h : Hdr) (d : Operand) (a : Operand) (b : Operand)
  | not (h : Hdr) (d : Operand) (a : Operand)
  | andn (h : Hdr) (d : Operand) (a : Operand) (b : Operand)
  | shl (h : Hdr) (m : IntMod) (d : Operand) (a : Operand) (b : Operand)
  | shr (h : Hdr) (m : IntMod) (d : Operand) (a : Operand) (b : Operand)
  | sar (h : Hdr) (m : IntMod) (d : Operand) (a : Operand) (b : Operand)
  | rol (h : Hdr) (m : IntMod) (d : Operand) (a : Operand) (b : Operand)
  | shli (h : Hdr) (m : IntMod) (d : Operand) (a : Operand) (imm : BitVec 27)
  | shri (h : Hdr) (m : IntMod) (d : Operand) (a : Operand) (imm : BitVec 27)
  | sari (h : Hdr) (m : IntMod) (d : Operand) (a : Operand) (imm : BitVec 27)
  | popc (h : Hdr) (m : IntMod) (d : Operand) (a : Operand)
  | clz (h : Hdr) (m : IntMod) (d : Operand) (a : Operand)
  | ctz (h : Hdr) (m : IntMod) (d : Operand) (a : Operand)
  | brev (h : Hdr) (m : IntMod) (d : Operand) (a : Operand)
  | bfx (h : Hdr) (m : IntMod) (d : Operand) (a : Operand) (b : Operand)
  | bfi (h : Hdr) (m : IntMod) (d : Operand) (a : Operand) (b : Operand) (x : Operand)
  | andi (h : Hdr) (d : Operand) (a : Operand) (imm : BitVec 27)
  | ori (h : Hdr) (d : Operand) (a : Operand) (imm : BitVec 27)
  | xori (h : Hdr) (d : Operand) (a : Operand) (imm : BitVec 27)
  -- group 0x2
  | isetp (h : Hdr) (m : ICondMod) (d : Operand) (a : Operand) (b : Operand) (x : Operand)
  | fsetp (h : Hdr) (m : FCondMod) (d : Operand) (a : Operand) (b : Operand) (x : Operand)
  | isetpi (h : Hdr) (m : ICondMod) (d : Operand) (a : Operand) (imm : BitVec 27)
  | pand (h : Hdr) (d : Operand) (a : Operand) (b : Operand)
  | por (h : Hdr) (d : Operand) (a : Operand) (b : Operand)
  | pxor (h : Hdr) (d : Operand) (a : Operand) (b : Operand)
  | pnot (h : Hdr) (d : Operand) (a : Operand)
  | sel (h : Hdr) (d : Operand) (a : Operand) (b : Operand) (x : Operand)
  | pmask (h : Hdr) (d : Operand) (a : Operand)
  | psetm (h : Hdr) (d : Operand) (a : Operand)
  -- group 0x3
  | bra (h : Hdr) (imm : BitVec 32)
  | brx (h : Hdr) (a : Operand)
  | call (h : Hdr) (d : Operand) (imm : BitVec 32)
  | callx (h : Hdr) (d : Operand) (a : Operand)
  | callb (h : Hdr) (d : Operand) (a : Operand) (b : Operand) (imm : BitVec 15)
  | ret (h : Hdr) (a : Operand)
  | exit (h : Hdr)
  | wsync (h : Hdr) (a : Operand)
  | nop (h : Hdr)
  -- group 0x4
  | mov (h : Hdr) (d : Operand) (a : Operand)
  | movw (h : Hdr) (d : Operand) (a : Operand) (b : Operand)
  | movi (h : Hdr) (d : Operand) (imm : BitVec 27)
  | movl (h : Hdr) (m : MovlMod) (d : Operand) (imm : BitVec 32)
  | grow (h : Hdr) (m : GrowMod) (d : Operand) (a : Operand)
  | shrink (h : Hdr) (d : Operand) (a : Operand)
  | capmk (h : Hdr) (d : Operand) (a : Operand) (b : Operand)
  | capnrw (h : Hdr) (d : Operand) (a : Operand) (b : Operand) (x : Operand)
  | capchk (h : Hdr) (m : BitVec 3) (d : Operand) (a : Operand) (b : Operand) (x : Operand)
  | caprd (h : Hdr) (d : Operand) (a : Operand) (b : Operand)
  -- group 0x5
  | fadd (h : Hdr) (m : FpMod) (d : Operand) (a : Operand) (b : Operand)
  | fmul (h : Hdr) (m : FpMod) (d : Operand) (a : Operand) (b : Operand)
  | ffma (h : Hdr) (m : FpMod) (d : Operand) (a : Operand) (b : Operand) (x : Operand)
  | fmin (h : Hdr) (m : FpMod) (d : Operand) (a : Operand) (b : Operand)
  | fmax (h : Hdr) (m : FpMod) (d : Operand) (a : Operand) (b : Operand)
  | fabs (h : Hdr) (m : FpMod) (d : Operand) (a : Operand)
  | fneg (h : Hdr) (m : FpMod) (d : Operand) (a : Operand)
  | frcp (h : Hdr) (m : FpMod) (d : Operand) (a : Operand)
  | fsqrt (h : Hdr) (m : FpMod) (d : Operand) (a : Operand)
  | frsq (h : Hdr) (m : FpMod) (d : Operand) (a : Operand)
  | fexp2 (h : Hdr) (m : FpMod) (d : Operand) (a : Operand)
  | flog2 (h : Hdr) (m : FpMod) (d : Operand) (a : Operand)
  | fsin (h : Hdr) (m : FpMod) (d : Operand) (a : Operand)
  | fcos (h : Hdr) (m : FpMod) (d : Operand) (a : Operand)
  | fdiv (h : Hdr) (m : FpMod) (d : Operand) (a : Operand) (b : Operand)
  | fclass (h : Hdr) (m : FpMod) (d : Operand) (a : Operand)
  | ckcmp (h : Hdr) (d : Operand) (a : Operand) (b : Operand)
  | ckfix (h : Hdr) (d : Operand) (a : Operand) (b : Operand) (x : Operand)
  -- group 0x6
  | faddH (h : Hdr) (m : FpMod) (d : Operand) (a : Operand) (b : Operand)
  | fmulH (h : Hdr) (m : FpMod) (d : Operand) (a : Operand) (b : Operand)
  | ffmaH (h : Hdr) (m : FpMod) (d : Operand) (a : Operand) (b : Operand) (x : Operand)
  | fminH (h : Hdr) (m : FpMod) (d : Operand) (a : Operand) (b : Operand)
  | fmaxH (h : Hdr) (m : FpMod) (d : Operand) (a : Operand) (b : Operand)
  | fabsH (h : Hdr) (m : FpMod) (d : Operand) (a : Operand)
  | fnegH (h : Hdr) (m : FpMod) (d : Operand) (a : Operand)
  | frcpH (h : Hdr) (m : FpMod) (d : Operand) (a : Operand)
  | fexp2H (h : Hdr) (m : FpMod) (d : Operand) (a : Operand)
  | fdot2 (h : Hdr) (m : FpMod) (d : Operand) (a : Operand) (b : Operand) (x : Operand)
  -- group 0x7
  | cvt (h : Hdr) (m : CvtMod) (d : Operand) (a : Operand)
  | packk (h : Hdr) (m : PackMod) (d : Operand) (a : Operand)
  | unpkk (h : Hdr) (m : UnpackMod) (d : Operand) (a : Operand) (b : Operand)
  | ftag (h : Hdr) (d : Operand) (a : Operand) (imm : Tag)
  | ftagrd (h : Hdr) (d : Operand) (a : Operand)
  -- group 0x8
  | shfl (h : Hdr) (m : ShMod) (d : Operand) (a : Operand) (b : Operand)
  | shfli (h : Hdr) (m : ShMod) (d : Operand) (a : Operand) (imm : BitVec 10)
  | vote (h : Hdr) (m : VoteMod) (d : Operand) (a : Operand)
  | red (h : Hdr) (m : RedMod) (d : Operand) (a : Operand)
  | scan (h : Hdr) (m : RedMod) (d : Operand) (a : Operand)
  | scanx (h : Hdr) (m : RedMod) (d : Operand) (a : Operand)
  -- group 0x9
  | ld (h : Hdr) (m : LoadMod) (d : Operand) (a : Operand) (b : Operand) (imm : BitVec 15)
  | st (h : Hdr) (m : StoreMod) (d : Operand) (a : Operand) (b : Operand) (imm : BitVec 15)
  | ldl (h : Hdr) (m : LoadMod) (d : Operand) (a : Operand) (b : Operand) (imm : BitVec 15)
  | stl (h : Hdr) (m : StoreMod) (d : Operand) (a : Operand) (b : Operand) (imm : BitVec 15)
  | ldt (h : Hdr) (m : LoadMod) (d : Operand) (a : Operand) (b : Operand) (imm : BitVec 15)
  | stt (h : Hdr) (m : StoreMod) (d : Operand) (a : Operand) (b : Operand) (imm : BitVec 15)
  | pref (h : Hdr) (m : BitVec 3) (a : Operand) (b : Operand) (imm : BitVec 15)
  -- group 0xA
  | atomAdd (h : Hdr) (m : AtomMod) (d : Operand) (a : Operand) (b : Operand)
  | atomSmin (h : Hdr) (m : AtomMod) (d : Operand) (a : Operand) (b : Operand)
  | atomSmax (h : Hdr) (m : AtomMod) (d : Operand) (a : Operand) (b : Operand)
  | atomUmin (h : Hdr) (m : AtomMod) (d : Operand) (a : Operand) (b : Operand)
  | atomUmax (h : Hdr) (m : AtomMod) (d : Operand) (a : Operand) (b : Operand)
  | atomAnd (h : Hdr) (m : AtomMod) (d : Operand) (a : Operand) (b : Operand)
  | atomOr (h : Hdr) (m : AtomMod) (d : Operand) (a : Operand) (b : Operand)
  | atomXor (h : Hdr) (m : AtomMod) (d : Operand) (a : Operand) (b : Operand)
  | atomExch (h : Hdr) (m : AtomMod) (d : Operand) (a : Operand) (b : Operand)
  | atomFadd (h : Hdr) (m : AtomMod) (d : Operand) (a : Operand) (b : Operand)
  | atomcas (h : Hdr) (m : AtomMod) (d : Operand) (a : Operand) (b : Operand) (x : Operand)
  | fence (h : Hdr) (m : FenceMod)
  | pbar (h : Hdr)
  | psync (h : Hdr) (a : Operand)
  -- group 0xB
  | cpy (h : Hdr) (d : Operand) (a : Operand) (b : Operand)
  | sleep (h : Hdr) (a : Operand) (b : Operand)
  | monitor (h : Hdr) (d : Operand) (a : Operand) (b : Operand) (imm : BitVec 15)
  | mwait (h : Hdr) (d : Operand) (a : Operand)
  | bar (h : Hdr) (imm : BitVec 3)
  | bardrop (h : Hdr) (imm : BitVec 3)
  | gbar (h : Hdr) (imm : BitVec 8)
  | gred (h : Hdr) (m : RedMod) (d : Operand) (a : Operand) (b : Operand)
  | nbarrive (h : Hdr) (imm : BitVec 4)
  | nbwait (h : Hdr) (imm : BitVec 4)
  | psend (h : Hdr) (d : Operand) (a : Operand) (b : Operand)
  | precv (h : Hdr) (d : Operand) (b : Operand) (x : Operand)
  | commit (h : Hdr)
  -- group 0xC
  | mclaim (d : Operand) (imm : BitVec 9)
  | mrelease (d : Operand) (imm : BitVec 9)
  | mfill (m : TileFmt) (d : Operand) (a : Operand) (b : Operand) (imm : BitVec 15)
  | mma (m : TileFmt) (d : Operand) (a : Operand) (b : Operand) (x : Operand)
  | mmack (m : TileFmt) (d : Operand) (a : Operand) (b : Operand) (x : Operand)
  | marrive (imm : BitVec 4)
  | mwaitnb (imm : BitVec 10)
  | mend
  -- group 0xD
  | trap (h : Hdr) (a : Operand) (imm : BitVec 16)
  | tret (h : Hdr) (m : TretMod) (a : Operand)
  | srd (h : Hdr) (d : Operand) (imm : BitVec 12)
  | swr (h : Hdr) (a : Operand) (imm : BitVec 12)
  | launch (h : Hdr) (d : Operand) (a : Operand)
  | launchg (h : Hdr) (d : Operand) (a : Operand) (b : Operand)
  | ljoin (h : Hdr) (m : JoinMod) (d : Operand) (a : Operand) (x : Operand)
  | task (h : Hdr) (d : Operand) (a : Operand) (b : Operand) (x : Operand)
  | brk (h : Hdr) (imm : BitVec 16)
  | mdrainSave (h : Hdr) (a : Operand) (b : Operand)
  | mdrainLoad (h : Hdr) (a : Operand) (b : Operand)
  -- group 0xE
  | sweep (h : Hdr) (d : Operand) (a : Operand) (b : Operand) (x : Operand)
  | ewait (h : Hdr) (a : Operand) (b : Operand)
  | edone (h : Hdr) (a : Operand) (b : Operand)
  | ewake (h : Hdr) (d : Operand) (a : Operand) (b : Operand)
  | mbbind (h : Hdr) (d : Operand) (a : Operand) (b : Operand) (x : Operand)
  | mbpost (h : Hdr) (d : Operand) (a : Operand) (b : Operand) (x : Operand)
  | mbtake (h : Hdr) (d : Operand) (a : Operand) (b : Operand)
  | mbstat (h : Hdr) (d : Operand) (a : Operand)
  | mbfloor (h : Hdr) (d : Operand) (a : Operand) (b : Operand)
  | mbfree (h : Hdr) (d : Operand) (a : Operand)
  -- steps of the device and requests from outside (95)
  /-- the oldest fill in flight of register `reg` of wave `w` lands (08: R174) -/
  | fillLand (w : Nat) (reg : Nat) (ecc : FillEcc)
  /-- pending result `id` of wave `w` lands (10: R204) -/
  | writeBack (w : Nat) (id : Nat)
  /-- request `id` leaves its core (06: R132) -/
  | requestLeavesCore (id : Nat)
  /-- the L2 slice accepts write `id` (12: R219) -/
  | l2Accept (id : Nat)
  /-- the far die applies forwarded write `id` (12: R225) -/
  | dieLinkApply (id : Nat)
  /-- atomic `id` executes at its place (12: R223) -/
  | atomicExecute (id : Nat)
  /-- a durable controller accepts write `id` (13: R232) -/
  | durableAccept (id : Nat)
  /-- media writes free buffer space of a durable controller (13: R237) -/
  | wbmaxRelease (stack : Nat) (bytes : Nat)
  /-- the walker answers the missed access that lane `lane` of wave `w` waits for (21: R351) -/
  | translationWalk (w : Nat) (lane : Nat)
  /-- the parked sub-group of a lane is reported (21: R356) -/
  | faultReport (w : Nat) (lane : Nat)
  /-- a write has reached the line a lane in MWAIT watches (06: R151) -/
  | lineWriteWake (w : Nat) (lane : Nat)
  /-- the timeout of a lane in MWAIT has come (06: R151) -/
  | mwaitTimeout (w : Nat) (lane : Nat)
  /-- the wake time of a sleeping cohort, named by its lowest lane, has come (06: R149) -/
  | sleepWake (w : Nat) (lane : Nat)
  /-- the copy at the head of a core's engine finishes (06: R147) -/
  | copyComplete (core : Nat)
  /-- the copy at the head of a core's engine meets a translation fault (06: R148) -/
  | copyFault (core : Nat)
  /-- instance `k` of a group's collective reduces its contributions (20: R329) -/
  | collectiveInstance (group : Nat) (k : Nat)
  /-- a member announces its reset or power failure (20: R328) -/
  | memberAnnounceRemoval (group : Nat) (dev : Nat)
  /-- no flit of a member for 20 microseconds (20: R328) -/
  | memberSilenceTimeout (group : Nat) (dev : Nat)
  /-- a flit failed its CRC; `ok` says how the resend ended (16: R280) -/
  | flitCrcResend (kind : Nat) (loc : Nat) (ok : Bool)
  /-- an operation of a unit failed; `ok` says how its retry ended (16: R280) -/
  | faultRetry (kind : Nat) (loc : Nat) (found : RetryFind)
  /-- a strike report for a zone (16: R272) -/
  | strikeReplay (zone : Nat)
  /-- the pre-emption request under way to a core arrives (08: R176) -/
  | preemptRequestArrival (core : Nat)
  /-- a stopped wave is switched out (08: R178) -/
  | switchOut (w : Nat)
  /-- a wave has not stopped 20 000 cycles after its request (08: R177) -/
  | noSafePoint (w : Nat)
  /-- the array of block `b` is frozen and its wave 0 stopped (16: R268) -/
  | matrixFreeze (b : Nat)
  /-- a switched-out block is restored (08: R181) -/
  | switchIn (b : Nat)
  /-- the head of a core's pool queue is granted (08: R166) -/
  | poolGrant (core : Nat)
  /-- a cohort's starvation has reached 64 (10: R198) -/
  | fairnessRun (w : Nat)
  /-- a wave's ageing count has reached 512 (10: R195) -/
  | ageingPromotion (w : Nat)
  /-- a starvation count has reached the watchdog interval (09: R185) -/
  | noProgress (w : Nat) (lane : Nat)
  /-- a wave has waited on itself for the watchdog interval (10: R201) -/
  | stalledWaveReport (w : Nat)
  /-- the head of a cluster's offer queue places a block (19: R317) -/
  | blockPlacement (cluster : Nat)
  /-- the head of an offer queue has waited 4096 cycles (19: R320) -/
  | priorityPreempt (cluster : Nat)
  /-- a wave whose threads have retired and whose operations have completed retires (04: R98) -/
  | waveRetire (w : Nat)
  /-- the oldest matrix operation of a block completes (14: R257) -/
  | matrixOpComplete (b : Nat)
  /-- the oldest MFILL of a block has its rows (14: R252) -/
  | mfillComplete (b : Nat)
  /-- the sequencer of a block meets a word that fails R58 (02: R59) -/
  | sequencerIllegal (b : Nat)
  /-- a block's commit drain is visible (06: R157) -/
  | commitDrainDone (b : Nat)
  /-- the translator takes the next request of a bind ring (19: R314) -/
  | bindService (tenant : Nat)
  /-- a line of a migrating page is copied (21: R357) -/
  | migrationPull (asid : Nat) (va : Nat)
  /-- the chart core rewrites a gazetteer entry (20: R332) -/
  | gazetteerUpdate (entry : Nat) (body : List Word)
  /-- a host CXL.mem write (12: R229) -/
  | hostWrite (pa : Nat) (bytes : List Byte)
  /-- a host CXL.mem read (12: R229) -/
  | hostRead (pa : Nat) (n : Nat)
  /-- input power fails (13: R238) -/
  | powerFail
  /-- the drain of the controller buffers has ended (13: R238) -/
  | durableDrainDone (complete : Bool)
  /-- input power returns (20: R338) -/
  | powerUp
  /-- a junction reaches 110 degrees (20: R339) -/
  | thermalTrip
  /-- an armed injection meets its trigger (15: R262) -/
  | registerInjection (idx : Nat)
  /-- the traverse engine loads a free sweep lane of wave `w` (22: R366) -/
  | sweepLaneLoad (w : Nat)
  /-- the traverse engine counts the elements of a sweep (24: R374) -/
  | sweepCountPass (w : Nat)
  /-- a write has reached a kind 3 watched line (24: R377) -/
  | lineWatchWakeScan (core : Nat) (slot : Nat)
  /-- a field-core store to TAKE (25: R390) -/
  | take (mb : Nat) (v : Nat)
  /-- a field-core write of POST (25: R390) -/
  | post (mb : Nat) (v : Nat)
  /-- ECALL service 0 (27: R401) -/
  | episodeExit (e : Nat) (code : Word)
  /-- ECALL service 1 (27: R401) -/
  | episodeYield (e : Nat)
  /-- ECALL service 2 or WFI (27: R401) -/
  | episodeWait (e : Nat)
  /-- any other exception of an episode (27: R401) -/
  | episodeException (e : Nat) (cause : Word) (tval : Word)
  /-- an uncorrectable error of a field core (27: R401) -/
  | episodeEccError (core : Nat)
  /-- an episode has used its quantum (27: R402) -/
  | quantumExpiry (core : Nat)
  /-- a step counter of an episode reaches STEPLIM (27: R406) -/
  | stepWatchdogExpiry (e : Nat) (k : Nat)
  /-- an episode's deadline has come (27: R406) -/
  | deadlineExpiry (e : Nat)
  /-- WCTL command 1 (17: R290) -/
  | wctlPreempt (tenant : Nat) (launch : Word)
  /-- WCTL command 2 (17: R290) -/
  | wctlCancel (tenant : Nat) (launch : Word)
  /-- WCTL command 3 (17: R290) -/
  | wctlResume (tenant : Nat) (launch : Word)
  /-- WCTL command 4 (17: R290) -/
  | wctlKillLaunch (tenant : Nat) (launch : Word)
  /-- WCTL command 5 (17: R290) -/
  | wctlKillBlock (tenant : Nat) (launch : Word) (block : Nat)
  /-- WCTL command 6 (17: R290) -/
  | wctlKillWaveBlock (tenant : Nat) (launch : Word) (block : Nat) (wave : Nat)
  /-- a write of 0 to RECBASE (13: R241) -/
  | recbaseRelease (tenant : Nat)
  /-- service OP 1 (19: R312) -/
  | loadObject (tenant : Nat) (req : SvcReq)
  /-- service OP 2 (19: R313) -/
  | unloadObject (tenant : Nat) (req : SvcReq)
  /-- service OP 3 (20: R329) -/
  | collectiveWindow (tenant : Nat) (req : SvcReq)
  /-- service OP 4 (20: R334) -/
  | debuggerAttach (tenant : Nat) (req : SvcReq)
  /-- service OP 5 (15: R262) -/
  | armInjection (tenant : Nat) (req : SvcReq)
  /-- service OP 6 (10: R207) -/
  | scoreboardSwitch (tenant : Nat) (req : SvcReq)
  /-- service OP 7 (20: R335) -/
  | attestationQuote (tenant : Nat) (req : SvcReq)
  /-- service OP 8 (08: R180) -/
  | mapGranuleImage (tenant : Nat) (req : SvcReq)
  /-- service OP 16 (21: R353) -/
  | map (tenant : Nat) (req : SvcReq)
  /-- service OP 17 (21: R353) -/
  | unmap (tenant : Nat) (req : SvcReq)
  /-- service OP 18 (21: R353) -/
  | protect (tenant : Nat) (req : SvcReq)
  /-- service OP 19 (21: R357) -/
  | migrate (tenant : Nat) (req : SvcReq)
  /-- service OP 20 (21: R359) -/
  | discard (tenant : Nat) (req : SvcReq)
  /-- service OP 21 (21: R360) -/
  | unshare (tenant : Nat) (req : SvcReq)
  /-- service OP 22 (21: R360) -/
  | share (tenant : Nat) (req : SvcReq)
  /-- service OP 23 (21: R353) -/
  | resume (tenant : Nat) (req : SvcReq)
  /-- service OP 24 (21: R353) -/
  | inval (tenant : Nat) (req : SvcReq)
  /-- service OP 25 (21: R350) -/
  | partition (tenant : Nat) (req : SvcReq)
  /-- service OP 32 (27: R398) -/
  | create (tenant : Nat) (req : SvcReq)
  /-- service OP 33 (27: R396) -/
  | destroy (tenant : Nat) (req : SvcReq)
  /-- service OP 34 (27: R396) -/
  | query (tenant : Nat) (req : SvcReq)
  /-- management command 0x01: creates a tenant, or destroys it (20: R336) -/
  | tenantCreate (tenant : Nat) (make : Option TenantReq)
  /-- management command 0x02 (08: R164) -/
  | setQmax (tenant : Nat) (core : Nat) (q : Nat)
  /-- management command 0x03 (19: R311) -/
  | writeKeySlot (tenant : Nat) (slot : Nat) (key : Nat)
  /-- management command 0x04 (16: R281) -/
  | writeRaspol (v : Nat)
  /-- management command 0x05 (20: R336) -/
  | assignDurableFrames (tenant : Nat) (first : Nat) (count : Nat)
  /-- module reset (20: R337) -/
  | moduleReset
  /-- die reset (20: R337) -/
  | dieReset (die : Nat)
  /-- tenant reset (20: R337) -/
  | tenantReset (tenant : Nat)
  /-- episode reset (20: R337) -/
  | episodeReset (e : Nat)
  /-- management command 0x07 (20: R328) -/
  | readmitDevice (group : Nat) (dev : Nat)
  /-- management command 0x08 (20: R339) -/
  | setPowerCap (watts : Nat)
  /-- management command 0x09 (20: R336) -/
  | readTelemetry
  /-- a spurious wake of a lane in MWAIT or parked at a CALLB cell (06: R151) -/
  | spuriousWake (w : Nat) (lane : Nat)
  /-- a journal entry ages out (04: R106) -/
  | journalAgeOut (id : Nat)
  /-- a field-core write of 1 to SEQERR (25: R390) -/
  | seqerrClear (mb : Nat)
deriving DecidableEq, Repr

end Sys2Proof
end

