-- ==== Sys2Proof/Machine/Form.lean ====
section
/-! DEFINITION. The form of an instruction: its op value, modifier bits, payload form and the kind of
each operand position, as the opcode map and the instruction chapters list them; and the checks of an
encoding that depend on the word alone (02: R54, reasons 0x4 and 0x6 to 0x9). -/

namespace Sys2Proof

/-- The type an operand position has (03: R75). -/
inductive PosTy where
  | untyped | int (t : IntTy) | flt (t : FTy) | kElem | kExp
deriving DecidableEq, Repr

/-- The kind of an operand position (01: R27; 04: R104, R107; 05: R124, R125; 14: R248). -/
inductive Kind where
  /-- the form has no such position -/
  | absent
  /-- must hold class 11 -/
  | unused
  /-- destination -/
  | dst
  /-- destination that is also read (MOVL.HI) -/
  | dstRW
  /-- wave-uniform destination (MOVW) -/
  | dstW
  /-- run of thread registers written -/
  | dstRun (n : Nat)
  /-- run of registers written that may also be wave-uniform, or discarded (PRECV) -/
  | dstSpan (n : Nat)
  /-- run of thread registers read and written (CKFIX) -/
  | rwRun (ty : PosTy) (n : Nat)
  | pdst
  | psrc
  | val (ty : PosTy)
  /-- run of thread registers read -/
  | srcRun (ty : PosTy) (n : Nat)
  /-- run read that may be of any value source (PSEND) -/
  | valSpan (ty : PosTy) (n : Nat)
  /-- capability pair written -/
  | pairDst
  /-- capability pair read -/
  | pair
  /-- capability pair read, or class 11 -/
  | pairOpt
  /-- tile slot of a stream word -/
  | slot
  /-- accumulator run of a stream word -/
  | acc (n : Nat)
  | wReg
  | wOpt
  /-- wave number of a stream word -/
  | waveNo
deriving DecidableEq, Repr

/-- The payload forms (01: R24). -/
inductive Form where
  | r | i | l | m
deriving DecidableEq, Repr

/-- Everything an instruction word says, position by position. -/
structure View where
  op : Nat
  mod : Nat
  /-- the type, rounding and variant are ones the op accepts (02: R45 to R53) -/
  modOk : Bool
  form : Form
  hdr : Hdr
  dk : Kind
  ak : Kind
  bk : Kind
  xk : Kind
  d : Operand
  a : Operand
  b : Operand
  x : Operand
  imm : Nat
  /-- how many low bits of the immediate the op's entry lets be nonzero -/
  immBits : Nat
deriving DecidableEq, Repr

/-- The fixed pattern of a stream word (02: R58). -/
def Hdr.stream : Hdr := ⟨false, 7, 0, 0, none, false, false, false, false, false, 0⟩

/-! ### Types and codes -/

def IntTy.width : IntTy → Nat
  | .s64 | .u64 => 64 | .s32 | .u32 => 32 | .s16 | .u16 => 16 | .s8 | .u8 => 8 | .s4 | .u4 => 4
def IntTy.signed : IntTy → Bool
  | .s64 | .s32 | .s16 | .s8 | .s4 => true
  | .u64 | .u32 | .u16 | .u8 | .u4 => false
def IntTy.code : IntTy → Nat
  | .s64 => 0 | .u64 => 1 | .s32 => 2 | .u32 => 3 | .s16 => 4 | .u16 => 5 | .s8 => 6 | .u8 => 7
  | .s4 => 8 | .u4 => 9
def IntTy.ofCode : Nat → Option IntTy
  | 0 => some .s64 | 1 => some .u64 | 2 => some .s32 | 3 => some .u32 | 4 => some .s16
  | 5 => some .u16 | 6 => some .s8 | 7 => some .u8 | 8 => some .s4 | 9 => some .u4 | _ => none
def IntTy.not4 : IntTy → Bool
  | .s4 | .u4 => false
  | _ => true
def IntTy.leaOk : IntTy → Bool
  | .s64 | .s32 | .u32 => true
  | _ => false
def IntTy.bfxOk : IntTy → Bool
  | .s64 | .u64 | .s32 | .u32 => true
  | _ => false
/-- The 8-bit type of the same signedness (04: R89). -/
def IntTy.byteOf (t : IntTy) : IntTy := if t.signed then .s8 else .u8
def IntTy.tag : IntTy → Tag
  | .s64 => .s64 | .u64 => .u64 | .s32 => .s32 | .u32 => .u32 | .s16 => .s16 | .u16 => .u16
  | .s8 => .s8 | .u8 => .u8 | .s4 | .u4 => .i4

def FTy.width : FTy → Nat
  | .f64 => 64 | .f32 => 32 | .bf16 | .f16 => 16
def FTy.tag : FTy → Tag
  | .f64 => .f64 | .f32 => .f32 | .bf16 => .bf16 | .f16 => .f16

def Tag.code : Tag → Nat
  | .raw => 0 | .s64 => 1 | .u64 => 2 | .s32 => 3 | .u32 => 4 | .s16 => 5 | .u16 => 6 | .s8 => 7
  | .u8 => 8 | .i4 => 9 | .f64 => 10 | .f32 => 11 | .f16 => 12 | .bf16 => 13 | .k => 14 | .kexp => 15
def Tag.ofCode : Nat → Tag
  | 1 => .s64 | 2 => .u64 | 3 => .s32 | 4 => .u32 | 5 => .s16 | 6 => .u16 | 7 => .s8 | 8 => .u8
  | 9 => .i4 | 10 => .f64 | 11 => .f32 | 12 => .f16 | 13 => .bf16 | 14 => .k | 15 => .kexp
  | _ => .raw
/-- A CVT format code's type (05: R122). -/
def Tag.posTy : Tag → PosTy
  | .s64 => .int .s64 | .u64 => .int .u64 | .s32 => .int .s32 | .u32 => .int .u32
  | .s16 => .int .s16 | .u16 => .int .u16 | .s8 => .int .s8 | .u8 => .int .u8 | .i4 => .int .s4
  | .f64 => .flt .f64 | .f32 => .flt .f32 | .f16 => .flt .f16 | .bf16 => .flt .bf16
  | .raw => .untyped | .k => .kElem | .kexp => .kExp
def Tag.isInt : Tag → Bool
  | .s64 | .u64 | .s32 | .u32 | .s16 | .u16 | .s8 | .u8 | .i4 => true
  | _ => false
def Tag.isFlt : Tag → Bool
  | .f64 | .f32 | .f16 | .bf16 => true
  | _ => false

/-- The tags a position type accepts (03: R75). -/
def PosTy.accepts : PosTy → Tag → Bool
  | .untyped, _ => true
  | _, .raw => true
  | .int t, g => match g.posTy with | .int u => decide (u.width = t.width) | _ => false
  | .flt t, g => decide (g = t.tag)
  | .kElem, g => decide (g = .k)
  | .kExp, g => decide (g = .kexp)
/-- The tag code a trap record names for a position type: the signed code for an integer width
(17: R301). -/
def PosTy.expectedCode : PosTy → Nat
  | .untyped => 0
  | .int t => match t.width with | 64 => 1 | 32 => 3 | 16 => 5 | 8 => 7 | _ => 9
  | .flt t => t.tag.code
  | .kElem => 14
  | .kExp => 15
def PosTy.width : PosTy → Nat
  | .untyped => 64 | .int t => t.width | .flt t => t.width | .kElem => 64 | .kExp => 64
def PosTy.isFlt : PosTy → Bool
  | .flt _ => true
  | _ => false

def Rnd.code : Rnd → Nat
  | .rne => 0 | .rtz => 1 | .rup => 2 | .rdn => 3 | .rna => 4
def Rnd.ofCode : Nat → Option Rnd
  | 0 => some .rne | 1 => some .rtz | 2 => some .rup | 3 => some .rdn | 4 => some .rna | _ => none
def Cond.code : Cond → Nat
  | .eq => 0 | .ne => 1 | .lt => 2 | .le => 3 | .gt => 4 | .ge => 5 | .num => 6 | .nan => 7
def Cond.ofCode : Nat → Option Cond
  | 0 => some .eq | 1 => some .ne | 2 => some .lt | 3 => some .le | 4 => some .gt | 5 => some .ge
  | 6 => some .num | 7 => some .nan | _ => none

def IntMod.code (m : IntMod) : Nat := m.ty.code * 4 + (if m.sat then 1 else 0)
def IntMod.ofCode (m : Nat) : Option IntMod :=
  match IntTy.ofCode (m / 4) with
  | some t => if m % 4 = 0 then some ⟨t, false⟩ else if m % 4 = 1 then some ⟨t, true⟩ else none
  | none => none
def ICondMod.code (m : ICondMod) : Nat := m.cond.code * 8 + m.ty.code
def ICondMod.ofCode (m : Nat) : Option ICondMod :=
  match Cond.ofCode (m / 8), IntTy.ofCode (m % 8) with
  | some c, some t => some ⟨c, t⟩
  | _, _ => none
def ICondMod.ok (m : ICondMod) : Bool := m.ty.not4 && decide (m.cond ≠ .num) && decide (m.cond ≠ .nan)
def FTy.code46 : FTy → Nat
  | .f64 => 0 | .f32 => 1 | .bf16 => 2 | .f16 => 3
def FTy.ofCode46 : Nat → Option FTy
  | 0 => some .f64 | 1 => some .f32 | 2 => some .bf16 | 3 => some .f16 | _ => none
def FCondMod.code (m : FCondMod) : Nat := m.cond.code * 8 + m.ty.code46
def FCondMod.ofCode (m : Nat) : Option FCondMod :=
  match Cond.ofCode (m / 8), FTy.ofCode46 (m % 8) with
  | some c, some t => some ⟨c, t⟩
  | _, _ => none

def FpMod.ok5 (m : FpMod) : Bool := match m.ty with | .f64 | .f32 => true | _ => false
def FpMod.ok6 (m : FpMod) : Bool := match m.ty with | .bf16 | .f16 => true | _ => false
def FpMod.code5 (m : FpMod) : Nat := m.rm.code * 8 + (match m.ty with | .f64 => 0 | _ => 1)
def FpMod.code6 (m : FpMod) : Nat := m.rm.code * 8 + (match m.ty with | .bf16 => 0 | _ => 1)
def FpMod.ofCode5 (m : Nat) : Option FpMod :=
  match Rnd.ofCode (m / 8) with
  | some r => if m % 8 = 0 then some ⟨r, .f64⟩ else if m % 8 = 1 then some ⟨r, .f32⟩ else none
  | none => none
def FpMod.ofCode6 (m : Nat) : Option FpMod :=
  match Rnd.ofCode (m / 8) with
  | some r => if m % 8 = 0 then some ⟨r, .bf16⟩ else if m % 8 = 1 then some ⟨r, .f16⟩ else none
  | none => none

def CvtMod.code (m : CvtMod) : Nat := m.rm.code * 8 + (if m.sat then 4 else 0)
def CvtMod.immBits (m : CvtMod) : Nat := m.dst.code * 16 + m.src.code
def CvtMod.ofCode (m imm : Nat) : Option CvtMod :=
  match Rnd.ofCode (m / 8) with
  | some r =>
    if m % 4 = 0 then some ⟨r, decide (m / 4 % 2 = 1), Tag.ofCode (imm % 16), Tag.ofCode (imm / 16 % 16)⟩
    else none
  | none => none
/-- The combinations CVT defines (05: R122). -/
def CvtMod.ok (m : CvtMod) : Bool :=
  (m.src.isInt || m.src.isFlt) && (m.dst.isInt || m.dst.isFlt)
    && (if m.src.isInt && m.dst.isInt then decide (m.rm = .rne) else !m.sat)

def KFmt.code : KFmt → Nat | .k8 => 0 | .k4 => 1
def KFmt.ofCode (n : Nat) : KFmt := if n = 0 then .k8 else .k4
/-- Blocks of one register (03: R71). -/
def KFmt.blocks : KFmt → Nat | .k8 => 8 | .k4 => 16
/-- The source run of PACKK (05: R124). -/
def KFmt.packRun : KFmt → Nat | .k8 => 4 | .k4 => 8
def PackMod.code (m : PackMod) : Nat := m.dist.toNat * 2 + m.fmt.code
def PackMod.ofCode (m : Nat) : Option PackMod :=
  if m < 16 then some ⟨KFmt.ofCode (m % 2), BitVec.ofNat 3 (m / 2)⟩ else none
def UnpackMod.ok (m : UnpackMod) : Bool := decide (m.ty ≠ .f64)
def UnpackMod.code (m : UnpackMod) : Nat :=
  (match m.ty with | .bf16 => 1 | .f16 => 2 | _ => 0) * 2 + m.fmt.code
def UnpackMod.ofCode (m : Nat) : Option UnpackMod :=
  match m / 2 with
  | 0 => some ⟨KFmt.ofCode (m % 2), .f32⟩
  | 1 => some ⟨KFmt.ofCode (m % 2), .bf16⟩
  | 2 => some ⟨KFmt.ofCode (m % 2), .f16⟩
  | _ => none
/-- The destination run of UNPKK (05: R125). -/
def UnpackMod.run (m : UnpackMod) : Nat := m.fmt.blocks / (match m.ty with | .f32 => 2 | _ => 4)
def UnpackMod.dstKind (m : UnpackMod) : Kind := .dstRun m.run

def ShMode.code : ShMode → Nat | .idx => 0 | .up => 1 | .down => 2 | .xor => 3 | .rot => 4
def ShMode.ofCode : Nat → Option ShMode
  | 0 => some .idx | 1 => some .up | 2 => some .down | 3 => some .xor | 4 => some .rot | _ => none
def ShWidth.code : ShWidth → Nat | .b64 => 0 | .b32 => 1 | .b16 => 2 | .b8 => 3 | .b4 => 4
def ShWidth.ofCode : Nat → Option ShWidth
  | 0 => some .b64 | 1 => some .b32 | 2 => some .b16 | 3 => some .b8 | 4 => some .b4 | _ => none
def ShWidth.bits : ShWidth → Nat | .b64 => 64 | .b32 => 32 | .b16 => 16 | .b8 => 8 | .b4 => 4
def ShMod.code (m : ShMod) : Nat := m.mode.code * 8 + m.width.code
def ShMod.ofCode (m : Nat) : Option ShMod :=
  match ShMode.ofCode (m / 8), ShWidth.ofCode (m % 8) with
  | some a, some w => some ⟨a, w⟩
  | _, _ => none
def VoteMod.code : VoteMod → Nat | .all => 0 | .any => 1 | .uni => 2 | .ballot => 3
def VoteMod.ofCode : Nat → Option VoteMod
  | 0 => some .all | 1 => some .any | 2 => some .uni | 3 => some .ballot | _ => none
/-- The kind of VOTE's destination (05: R129). VOTE.BALLOT with class 11, which R27 (01) lets a destination be and R129's
table does not name, is accepted and discards its result (log entry 11). -/
def VoteMod.dstKind : VoteMod → Kind
  | .ballot => .dst
  | .all | .any | .uni => .pdst
def RedOp.code : RedOp → Nat | .add => 0 | .min => 1 | .max => 2 | .and => 3 | .or => 4 | .xor => 5
def RedOp.ofCode : Nat → Option RedOp
  | 0 => some .add | 1 => some .min | 2 => some .max | 3 => some .and | 4 => some .or
  | 5 => some .xor | _ => none
def RedTy.code : RedTy → Nat
  | .s64 => 0 | .u64 => 1 | .s32 => 2 | .u32 => 3 | .f64 => 4 | .f32 => 5 | .bf16 => 6 | .f16 => 7
def RedTy.ofCode : Nat → Option RedTy
  | 0 => some .s64 | 1 => some .u64 | 2 => some .s32 | 3 => some .u32 | 4 => some .f64
  | 5 => some .f32 | 6 => some .bf16 | 7 => some .f16 | _ => none
def RedTy.posTy : RedTy → PosTy
  | .s64 => .int .s64 | .u64 => .int .u64 | .s32 => .int .s32 | .u32 => .int .u32
  | .f64 => .flt .f64 | .f32 => .flt .f32 | .bf16 => .flt .bf16 | .f16 => .flt .f16
def RedMod.code (m : RedMod) : Nat := m.op.code * 8 + m.ty.code
def RedMod.ofCode (m : Nat) : Option RedMod :=
  match RedOp.ofCode (m / 8), RedTy.ofCode (m % 8) with
  | some o, some t => some ⟨o, t⟩
  | _, _ => none
/-- Bit operations take no floating-point type (02: R49). -/
def RedMod.ok (m : RedMod) : Bool :=
  match m.op with
  | .and | .or | .xor => !m.ty.posTy.isFlt
  | .add | .min | .max => true

def MemSize.code : MemSize → Nat | .b8 => 0 | .b16 => 1 | .b32 => 2 | .b64 => 3
def MemSize.ofCode (n : Nat) : MemSize :=
  match n with | 0 => .b8 | 1 => .b16 | 2 => .b32 | _ => .b64
/-- The bytes of an access. -/
def MemSize.bytes : MemSize → Nat | .b8 => 1 | .b16 => 2 | .b32 => 4 | .b64 => 8
def LoadMod.code (m : LoadMod) : Nat := m.rd.toNat * 8 + (if m.sext then 4 else 0) + m.size.code
def LoadMod.ofCode (m : Nat) : Option LoadMod :=
  some ⟨BitVec.ofNat 3 (m / 8), decide (m / 4 % 2 = 1), MemSize.ofCode (m % 4)⟩
/-- .S with .B64 is reserved (06: R135). -/
def LoadMod.ok (m : LoadMod) : Bool := !(m.sext && decide (m.size = .b64))
def StoreMod.code (m : StoreMod) : Nat := m.rd.toNat * 8 + m.size.code
def StoreMod.ofCode (m : Nat) : Option StoreMod :=
  if m / 4 % 2 = 0 then some ⟨BitVec.ofNat 3 (m / 8), MemSize.ofCode (m % 4)⟩ else none

def Scope.code : Scope → Nat
  | .thr => 0 | .wave => 1 | .blk => 2 | .clu => 3 | .die => 4 | .dev => 5 | .sys => 6 | .dur => 7
def Scope.ofCode : Nat → Scope
  | 0 => .thr | 1 => .wave | 2 => .blk | 3 => .clu | 4 => .die | 5 => .dev | 6 => .sys | _ => .dur
def Ordr.code : Ordr → Nat | .relaxed => 0 | .acq => 1 | .rel => 2 | .acqrel => 3
def Ordr.ofCode : Nat → Ordr | 0 => .relaxed | 1 => .acq | 2 => .rel | _ => .acqrel
def AtomMod.code (m : AtomMod) : Nat := m.scope.code * 8 + m.ord.code * 2 + (if m.wide then 1 else 0)
def AtomMod.ofCode (m : Nat) : Option AtomMod :=
  some ⟨Scope.ofCode (m / 8), Ordr.ofCode (m / 2 % 4), decide (m % 2 = 1)⟩
def AtomMod.intU (m : AtomMod) : IntTy := if m.wide then .u64 else .u32
def AtomMod.intS (m : AtomMod) : IntTy := if m.wide then .s64 else .s32
def AtomMod.flt (m : AtomMod) : FTy := if m.wide then .f64 else .f32
/-- The bytes an atomic acts on (06: R140). -/
def AtomMod.bytes (m : AtomMod) : Nat := if m.wide then 8 else 4
def FenceMod.code (m : FenceMod) : Nat := m.scope.code * 8 + m.ord.code * 2
def FenceMod.ofCode (m : Nat) : Option FenceMod :=
  if m % 2 = 0 then some ⟨Scope.ofCode (m / 8), Ordr.ofCode (m / 2 % 4)⟩ else none
def FenceMod.ok (m : FenceMod) : Bool := decide (m.ord ≠ .relaxed)
def TileFmt.code : TileFmt → Nat | .bf16 => 0 | .k8 => 1 | .k4 => 2
def TileFmt.ofCode : Nat → Option TileFmt
  | 0 => some .bf16 | 1 => some .k8 | 2 => some .k4 | _ => none
def GrowMod.code : GrowMod → Nat | .wait => 0 | .trap => 1
def GrowMod.ofCode : Nat → Option GrowMod | 0 => some .wait | 1 => some .trap | _ => none
def MovlMod.code : MovlMod → Nat | .sext => 0 | .zext => 1 | .hi => 2
def MovlMod.ofCode : Nat → Option MovlMod
  | 0 => some .sext | 1 => some .zext | 2 => some .hi | _ => none
def TretMod.code : TretMod → Nat | .plain => 0 | .exit => 1 | .kill => 2
def TretMod.ofCode : Nat → Option TretMod
  | 0 => some .plain | 1 => some .exit | 2 => some .kill | _ => none
def JoinMod.code : JoinMod → Nat | .wait => 0 | .test => 1
def JoinMod.ofCode : Nat → Option JoinMod | 0 => some .wait | 1 => some .test | _ => none

def Special.code : Special → Nat
  | .lane => 0 | .wave => 1 | .blkx => 2 | .blky => 3 | .blkz => 4 | .core => 5 | .cyc => 6 | .active => 7
def Special.ofCode : Nat → Option Special
  | 0 => some .lane | 1 => some .wave | 2 => some .blkx | 3 => some .blky | 4 => some .blkz
  | 5 => some .core | 6 => some .cyc | 7 => some .active | _ => none

/-! ### The view of every instruction -/

/-- What the word of an instruction says (02: R43 and the entry of each op); none for a step of the
device, which has no word. -/
def Instr.view : Instr → Option View
  | .iadd h m d a b => some ⟨0x000, m.code, true, .r, h, .dst, (.val (.int m.ty)), (.val (.int m.ty)), .unused, d, a, b, .none, 0, 0⟩
  | .isub h m d a b => some ⟨0x001, m.code, true, .r, h, .dst, (.val (.int m.ty)), (.val (.int m.ty)), .unused, d, a, b, .none, 0, 0⟩
  | .imul h m d a b => some ⟨0x002, m.code, !m.sat, .r, h, .dst, (.val (.int m.ty)), (.val (.int m.ty)), .unused, d, a, b, .none, 0, 0⟩
  | .imulh h m d a b => some ⟨0x003, m.code, m.ty.not4 && !m.sat, .r, h, .dst, (.val (.int m.ty)), (.val (.int m.ty)), .unused, d, a, b, .none, 0, 0⟩
  | .imad h m d a b x => some ⟨0x004, m.code, true, .r, h, .dst, (.val (.int m.ty)), (.val (.int m.ty)), (.val (.int m.ty)), d, a, b, x, 0, 0⟩
  | .imin h m d a b => some ⟨0x005, m.code, !m.sat, .r, h, .dst, (.val (.int m.ty)), (.val (.int m.ty)), .unused, d, a, b, .none, 0, 0⟩
  | .imax h m d a b => some ⟨0x006, m.code, !m.sat, .r, h, .dst, (.val (.int m.ty)), (.val (.int m.ty)), .unused, d, a, b, .none, 0, 0⟩
  | .iabs h m d a => some ⟨0x007, m.code, m.ty.signed && !m.sat, .r, h, .dst, (.val (.int m.ty)), .unused, .unused, d, a, .none, .none, 0, 0⟩
  | .ineg h m d a => some ⟨0x008, m.code, true, .r, h, .dst, (.val (.int m.ty)), .unused, .unused, d, a, .none, .none, 0, 0⟩
  | .idiv h m d a b => some ⟨0x009, m.code, m.ty.not4 && !m.sat, .r, h, .dst, (.val (.int m.ty)), (.val (.int m.ty)), .unused, d, a, b, .none, 0, 0⟩
  | .irem h m d a b => some ⟨0x00A, m.code, m.ty.not4 && !m.sat, .r, h, .dst, (.val (.int m.ty)), (.val (.int m.ty)), .unused, d, a, b, .none, 0, 0⟩
  | .isad h m d a b x => some ⟨0x00B, m.code, !m.sat, .r, h, .dst, (.val (.int m.ty)), (.val (.int m.ty)), (.val (.int m.ty)), d, a, b, x, 0, 0⟩
  | .iaddi h m d a imm => some ⟨0x00C, m.code, true, .i, h, .dst, (.val (.int m.ty)), .absent, .absent, d, a, .none, .none, imm.toNat, 27⟩
  | .imuli h m d a imm => some ⟨0x00D, m.code, !m.sat, .i, h, .dst, (.val (.int m.ty)), .absent, .absent, d, a, .none, .none, imm.toNat, 27⟩
  | .lea h m d a b imm => some ⟨0x00E, m.code, m.ty.leaOk && !m.sat, .m, h, .dst, (.val .untyped), (.val (.int m.ty)), .absent, d, a, b, .none, imm.toNat, 15⟩
  | .idot4 h m d a b x => some ⟨0x00F, m.code, decide (m.ty.width = 32) && !m.sat, .r, h, .dst, (.val (.int m.ty.byteOf)), (.val (.int m.ty.byteOf)), (.val (.int m.ty)), d, a, b, x, 0, 0⟩
  | .and h d a b => some ⟨0x040, 0, true, .r, h, .dst, (.val .untyped), (.val .untyped), .unused, d, a, b, .none, 0, 0⟩
  | .or h d a b => some ⟨0x041, 0, true, .r, h, .dst, (.val .untyped), (.val .untyped), .unused, d, a, b, .none, 0, 0⟩
  | .xor h d a b => some ⟨0x042, 0, true, .r, h, .dst, (.val .untyped), (.val .untyped), .unused, d, a, b, .none, 0, 0⟩
  | .not h d a => some ⟨0x043, 0, true, .r, h, .dst, (.val .untyped), .unused, .unused, d, a, .none, .none, 0, 0⟩
  | .andn h d a b => some ⟨0x044, 0, true, .r, h, .dst, (.val .untyped), (.val .untyped), .unused, d, a, b, .none, 0, 0⟩
  | .shl h m d a b => some ⟨0x045, m.code, !m.ty.signed && !m.sat, .r, h, .dst, (.val (.int m.ty)), (.val (.int m.ty)), .unused, d, a, b, .none, 0, 0⟩
  | .shr h m d a b => some ⟨0x046, m.code, !m.ty.signed && !m.sat, .r, h, .dst, (.val (.int m.ty)), (.val (.int m.ty)), .unused, d, a, b, .none, 0, 0⟩
  | .sar h m d a b => some ⟨0x047, m.code, m.ty.signed && !m.sat, .r, h, .dst, (.val (.int m.ty)), (.val (.int m.ty)), .unused, d, a, b, .none, 0, 0⟩
  | .rol h m d a b => some ⟨0x048, m.code, !m.ty.signed && !m.sat, .r, h, .dst, (.val (.int m.ty)), (.val (.int m.ty)), .unused, d, a, b, .none, 0, 0⟩
  | .shli h m d a imm => some ⟨0x049, m.code, !m.ty.signed && !m.sat, .i, h, .dst, (.val (.int m.ty)), .absent, .absent, d, a, .none, .none, imm.toNat, 27⟩
  | .shri h m d a imm => some ⟨0x04A, m.code, !m.ty.signed && !m.sat, .i, h, .dst, (.val (.int m.ty)), .absent, .absent, d, a, .none, .none, imm.toNat, 27⟩
  | .sari h m d a imm => some ⟨0x04B, m.code, m.ty.signed && !m.sat, .i, h, .dst, (.val (.int m.ty)), .absent, .absent, d, a, .none, .none, imm.toNat, 27⟩
  | .popc h m d a => some ⟨0x04C, m.code, !m.ty.signed && !m.sat, .r, h, .dst, (.val (.int m.ty)), .unused, .unused, d, a, .none, .none, 0, 0⟩
  | .clz h m d a => some ⟨0x04D, m.code, !m.ty.signed && !m.sat, .r, h, .dst, (.val (.int m.ty)), .unused, .unused, d, a, .none, .none, 0, 0⟩
  | .ctz h m d a => some ⟨0x04E, m.code, !m.ty.signed && !m.sat, .r, h, .dst, (.val (.int m.ty)), .unused, .unused, d, a, .none, .none, 0, 0⟩
  | .brev h m d a => some ⟨0x04F, m.code, !m.ty.signed && !m.sat, .r, h, .dst, (.val (.int m.ty)), .unused, .unused, d, a, .none, .none, 0, 0⟩
  | .bfx h m d a b => some ⟨0x050, m.code, m.ty.bfxOk && !m.sat, .r, h, .dst, (.val .untyped), (.val .untyped), .unused, d, a, b, .none, 0, 0⟩
  | .bfi h m d a b x => some ⟨0x051, m.code, (m.ty.bfxOk && !m.ty.signed) && !m.sat, .r, h, .dst, (.val .untyped), (.val .untyped), (.val .untyped), d, a, b, x, 0, 0⟩
  | .andi h d a imm => some ⟨0x052, 0, true, .i, h, .dst, (.val .untyped), .absent, .absent, d, a, .none, .none, imm.toNat, 27⟩
  | .ori h d a imm => some ⟨0x053, 0, true, .i, h, .dst, (.val .untyped), .absent, .absent, d, a, .none, .none, imm.toNat, 27⟩
  | .xori h d a imm => some ⟨0x054, 0, true, .i, h, .dst, (.val .untyped), .absent, .absent, d, a, .none, .none, imm.toNat, 27⟩
  | .isetp h m d a b x => some ⟨0x080, m.code, m.ok, .r, h, .pdst, (.val (.int m.ty)), (.val (.int m.ty)), .psrc, d, a, b, x, 0, 0⟩
  | .fsetp h m d a b x => some ⟨0x081, m.code, true, .r, h, .pdst, (.val (.flt m.ty)), (.val (.flt m.ty)), .psrc, d, a, b, x, 0, 0⟩
  | .isetpi h m d a imm => some ⟨0x082, m.code, m.ok, .i, h, .pdst, (.val (.int m.ty)), .absent, .absent, d, a, .none, .none, imm.toNat, 27⟩
  | .pand h d a b => some ⟨0x083, 0, true, .r, h, .pdst, .psrc, .psrc, .unused, d, a, b, .none, 0, 0⟩
  | .por h d a b => some ⟨0x084, 0, true, .r, h, .pdst, .psrc, .psrc, .unused, d, a, b, .none, 0, 0⟩
  | .pxor h d a b => some ⟨0x085, 0, true, .r, h, .pdst, .psrc, .psrc, .unused, d, a, b, .none, 0, 0⟩
  | .pnot h d a => some ⟨0x086, 0, true, .r, h, .pdst, .psrc, .unused, .unused, d, a, .none, .none, 0, 0⟩
  | .sel h d a b x => some ⟨0x087, 0, true, .r, h, .dst, (.val .untyped), (.val .untyped), .psrc, d, a, b, x, 0, 0⟩
  | .pmask h d a => some ⟨0x088, 0, true, .r, h, .dst, .psrc, .unused, .unused, d, a, .none, .none, 0, 0⟩
  | .psetm h d a => some ⟨0x089, 0, true, .r, h, .pdst, (.val (.int .u64)), .unused, .unused, d, a, .none, .none, 0, 0⟩
  | .bra h imm => some ⟨0x0C0, 0, true, .l, h, .unused, .absent, .absent, .absent, .none, .none, .none, .none, imm.toNat, 32⟩
  | .brx h a => some ⟨0x0C1, 0, true, .r, h, .unused, (.val (.int .u64)), .unused, .unused, .none, a, .none, .none, 0, 0⟩
  | .call h d imm => some ⟨0x0C2, 0, true, .l, h, .dst, .absent, .absent, .absent, d, .none, .none, .none, imm.toNat, 32⟩
  | .callx h d a => some ⟨0x0C3, 0, true, .r, h, .dst, (.val (.int .u64)), .unused, .unused, d, a, .none, .none, 0, 0⟩
  | .callb h d a b imm => some ⟨0x0C4, 0, true, .m, h, .dst, (.val .untyped), (.val (.int .s64)), .absent, d, a, b, .none, imm.toNat, 15⟩
  | .ret h a => some ⟨0x0C5, 0, true, .r, h, .unused, (.val (.int .u64)), .unused, .unused, .none, a, .none, .none, 0, 0⟩
  | .exit h => some ⟨0x0C6, 0, true, .r, h, .unused, .unused, .unused, .unused, .none, .none, .none, .none, 0, 0⟩
  | .wsync h a => some ⟨0x0C7, 0, true, .r, h, .unused, (.val (.int .u64)), .unused, .unused, .none, a, .none, .none, 0, 0⟩
  | .nop h => some ⟨0x0C8, 0, true, .r, h, .unused, .unused, .unused, .unused, .none, .none, .none, .none, 0, 0⟩
  | .mov h d a => some ⟨0x100, 0, true, .r, h, .dst, (.val .untyped), .unused, .unused, d, a, .none, .none, 0, 0⟩
  | .movw h d a b => some ⟨0x101, 0, true, .r, h, .dstW, (.srcRun .untyped 1), (.val .untyped), .unused, d, a, b, .none, 0, 0⟩
  | .movi h d imm => some ⟨0x102, 0, true, .i, h, .dst, .unused, .absent, .absent, d, .none, .none, .none, imm.toNat, 27⟩
  | .movl h m d imm => some ⟨0x103, m.code, true, .l, h, (if m = .hi then .dstRW else .dst), .absent, .absent, .absent, d, .none, .none, .none, imm.toNat, 32⟩
  | .grow h m d a => some ⟨0x104, m.code, true, .r, h, .dst, (.val (.int .u64)), .unused, .unused, d, a, .none, .none, 0, 0⟩
  | .shrink h d a => some ⟨0x105, 0, true, .r, h, .dst, (.val (.int .s64)), .unused, .unused, d, a, .none, .none, 0, 0⟩
  | .capmk h d a b => some ⟨0x106, 0, true, .r, h, .pairDst, (.val .untyped), (.val .untyped), .unused, d, a, b, .none, 0, 0⟩
  | .capnrw h d a b x => some ⟨0x107, 0, true, .r, h, .pairDst, .pair, (.val .untyped), (.val .untyped), d, a, b, x, 0, 0⟩
  | .capchk h m d a b x => some ⟨0x108, m.toNat, true, .r, h, .pdst, .pair, (.val .untyped), (.val .untyped), d, a, b, x, 0, 0⟩
  | .caprd h d a b => some ⟨0x109, 0, true, .r, h, .dst, .pair, (.val .untyped), .unused, d, a, b, .none, 0, 0⟩
  | .fadd h m d a b => some ⟨0x140, m.code5, m.ok5, .r, h, .dst, (.val (.flt m.ty)), (.val (.flt m.ty)), .unused, d, a, b, .none, 0, 0⟩
  | .fmul h m d a b => some ⟨0x141, m.code5, m.ok5, .r, h, .dst, (.val (.flt m.ty)), (.val (.flt m.ty)), .unused, d, a, b, .none, 0, 0⟩
  | .ffma h m d a b x => some ⟨0x142, m.code5, m.ok5, .r, h, .dst, (.val (.flt m.ty)), (.val (.flt m.ty)), (.val (.flt m.ty)), d, a, b, x, 0, 0⟩
  | .fmin h m d a b => some ⟨0x143, m.code5, m.ok5 && decide (m.rm = .rne), .r, h, .dst, (.val (.flt m.ty)), (.val (.flt m.ty)), .unused, d, a, b, .none, 0, 0⟩
  | .fmax h m d a b => some ⟨0x144, m.code5, m.ok5 && decide (m.rm = .rne), .r, h, .dst, (.val (.flt m.ty)), (.val (.flt m.ty)), .unused, d, a, b, .none, 0, 0⟩
  | .fabs h m d a => some ⟨0x145, m.code5, m.ok5 && decide (m.rm = .rne), .r, h, .dst, (.val (.flt m.ty)), .unused, .unused, d, a, .none, .none, 0, 0⟩
  | .fneg h m d a => some ⟨0x146, m.code5, m.ok5 && decide (m.rm = .rne), .r, h, .dst, (.val (.flt m.ty)), .unused, .unused, d, a, .none, .none, 0, 0⟩
  | .frcp h m d a => some ⟨0x147, m.code5, m.ok5 && decide (m.rm = .rne), .r, h, .dst, (.val (.flt m.ty)), .unused, .unused, d, a, .none, .none, 0, 0⟩
  | .fsqrt h m d a => some ⟨0x148, m.code5, m.ok5, .r, h, .dst, (.val (.flt m.ty)), .unused, .unused, d, a, .none, .none, 0, 0⟩
  | .frsq h m d a => some ⟨0x149, m.code5, m.ok5 && decide (m.rm = .rne), .r, h, .dst, (.val (.flt m.ty)), .unused, .unused, d, a, .none, .none, 0, 0⟩
  | .fexp2 h m d a => some ⟨0x14A, m.code5, m.ok5 && decide (m.rm = .rne), .r, h, .dst, (.val (.flt m.ty)), .unused, .unused, d, a, .none, .none, 0, 0⟩
  | .flog2 h m d a => some ⟨0x14B, m.code5, m.ok5 && decide (m.rm = .rne), .r, h, .dst, (.val (.flt m.ty)), .unused, .unused, d, a, .none, .none, 0, 0⟩
  | .fsin h m d a => some ⟨0x14C, m.code5, m.ok5 && decide (m.rm = .rne), .r, h, .dst, (.val (.flt m.ty)), .unused, .unused, d, a, .none, .none, 0, 0⟩
  | .fcos h m d a => some ⟨0x14D, m.code5, m.ok5 && decide (m.rm = .rne), .r, h, .dst, (.val (.flt m.ty)), .unused, .unused, d, a, .none, .none, 0, 0⟩
  | .fdiv h m d a b => some ⟨0x14E, m.code5, m.ok5, .r, h, .dst, (.val (.flt m.ty)), (.val (.flt m.ty)), .unused, d, a, b, .none, 0, 0⟩
  | .fclass h m d a => some ⟨0x14F, m.code5, m.ok5 && decide (m.rm = .rne), .r, h, .dst, (.val (.flt m.ty)), .unused, .unused, d, a, .none, .none, 0, 0⟩
  | .ckcmp h d a b => some ⟨0x150, 1, true, .r, h, .dst, (.srcRun (.flt .f32) 16), (.srcRun (.flt .f32) 2), .unused, d, a, b, .none, 0, 0⟩
  | .ckfix h d a b x => some ⟨0x151, 1, true, .r, h, (.rwRun (.flt .f32) 16), (.val (.flt .f32)), (.srcRun (.flt .f32) 2), (.val (.flt .f32)), d, a, b, x, 0, 0⟩
  | .faddH h m d a b => some ⟨0x180, m.code6, m.ok6, .r, h, .dst, (.val (.flt m.ty)), (.val (.flt m.ty)), .unused, d, a, b, .none, 0, 0⟩
  | .fmulH h m d a b => some ⟨0x181, m.code6, m.ok6, .r, h, .dst, (.val (.flt m.ty)), (.val (.flt m.ty)), .unused, d, a, b, .none, 0, 0⟩
  | .ffmaH h m d a b x => some ⟨0x182, m.code6, m.ok6, .r, h, .dst, (.val (.flt m.ty)), (.val (.flt m.ty)), (.val (.flt m.ty)), d, a, b, x, 0, 0⟩
  | .fminH h m d a b => some ⟨0x183, m.code6, m.ok6 && decide (m.rm = .rne), .r, h, .dst, (.val (.flt m.ty)), (.val (.flt m.ty)), .unused, d, a, b, .none, 0, 0⟩
  | .fmaxH h m d a b => some ⟨0x184, m.code6, m.ok6 && decide (m.rm = .rne), .r, h, .dst, (.val (.flt m.ty)), (.val (.flt m.ty)), .unused, d, a, b, .none, 0, 0⟩
  | .fabsH h m d a => some ⟨0x185, m.code6, m.ok6 && decide (m.rm = .rne), .r, h, .dst, (.val (.flt m.ty)), .unused, .unused, d, a, .none, .none, 0, 0⟩
  | .fnegH h m d a => some ⟨0x186, m.code6, m.ok6 && decide (m.rm = .rne), .r, h, .dst, (.val (.flt m.ty)), .unused, .unused, d, a, .none, .none, 0, 0⟩
  | .frcpH h m d a => some ⟨0x187, m.code6, m.ok6 && decide (m.rm = .rne), .r, h, .dst, (.val (.flt m.ty)), .unused, .unused, d, a, .none, .none, 0, 0⟩
  | .fexp2H h m d a => some ⟨0x188, m.code6, m.ok6 && decide (m.rm = .rne), .r, h, .dst, (.val (.flt m.ty)), .unused, .unused, d, a, .none, .none, 0, 0⟩
  | .fdot2 h m d a b x => some ⟨0x189, m.code6, m.ok6, .r, h, .dst, (.val (.flt m.ty)), (.val (.flt m.ty)), (.val (.flt .f32)), d, a, b, x, 0, 0⟩
  | .cvt h m d a => some ⟨0x1C0, m.code, m.ok, .i, h, .dst, (.val m.src.posTy), .absent, .absent, d, a, .none, .none, m.immBits, 8⟩
  | .packk h m d a => some ⟨0x1C1, m.code, true, .r, h, (.dstRun 2), (.srcRun (.flt .f32) m.fmt.packRun), .unused, .unused, d, a, .none, .none, 0, 0⟩
  | .unpkk h m d a b => some ⟨0x1C2, m.code, m.ok, .r, h, (.dstRun m.run), (.val .kElem), (.srcRun .kExp 1), .unused, d, a, b, .none, 0, 0⟩
  | .ftag h d a imm => some ⟨0x1C3, 0, true, .i, h, .dst, (.val .untyped), .absent, .absent, d, a, .none, .none, imm.code, 4⟩
  | .ftagrd h d a => some ⟨0x1C4, 0, true, .r, h, .dst, (.val .untyped), .unused, .unused, d, a, .none, .none, 0, 0⟩
  | .shfl h m d a b => some ⟨0x200, m.code, true, .r, h, .dst, (.val .untyped), (.val (.int .u64)), .unused, d, a, b, .none, 0, 0⟩
  | .shfli h m d a imm => some ⟨0x201, m.code, true, .i, h, .dst, (.val .untyped), .absent, .absent, d, a, .none, .none, imm.toNat, 10⟩
  | .vote h m d a => some ⟨0x202, m.code, true, .r, h, m.dstKind, .psrc, .unused, .unused, d, a, .none, .none, 0, 0⟩
  | .red h m d a => some ⟨0x203, m.code, m.ok, .r, h, .dst, (.val m.ty.posTy), .unused, .unused, d, a, .none, .none, 0, 0⟩
  | .scan h m d a => some ⟨0x204, m.code, m.ok, .r, h, .dst, (.val m.ty.posTy), .unused, .unused, d, a, .none, .none, 0, 0⟩
  | .scanx h m d a => some ⟨0x205, m.code, m.ok, .r, h, .dst, (.val m.ty.posTy), .unused, .unused, d, a, .none, .none, 0, 0⟩
  | .ld h m d a b imm => some ⟨0x240, m.code, m.ok, .m, h, .dst, (.val .untyped), (.val (.int .s64)), .absent, d, a, b, .none, imm.toNat, 15⟩
  | .st h m d a b imm => some ⟨0x241, m.code, true, .m, h, (.val .untyped), (.val .untyped), (.val (.int .s64)), .absent, d, a, b, .none, imm.toNat, 15⟩
  | .ldl h m d a b imm => some ⟨0x242, m.code, m.ok && decide (m.rd = 0), .m, h, .dst, (.val .untyped), (.val (.int .s64)), .absent, d, a, b, .none, imm.toNat, 15⟩
  | .stl h m d a b imm => some ⟨0x243, m.code, decide (m.rd = 0), .m, h, (.val .untyped), (.val .untyped), (.val (.int .s64)), .absent, d, a, b, .none, imm.toNat, 15⟩
  | .ldt h m d a b imm => some ⟨0x244, m.code, m.ok, .m, h, .dst, .pair, (.val (.int .u64)), .absent, d, a, b, .none, imm.toNat, 15⟩
  | .stt h m d a b imm => some ⟨0x245, m.code, true, .m, h, (.val .untyped), .pair, (.val (.int .u64)), .absent, d, a, b, .none, imm.toNat, 15⟩
  | .pref h m a b imm => some ⟨0x246, (m.toNat * 8), true, .m, h, .unused, (.val .untyped), (.val (.int .s64)), .absent, .none, a, b, .none, imm.toNat, 15⟩
  | .atomAdd h m d a b => some ⟨0x280, m.code, true, .r, h, .dst, (.val .untyped), (.val (.int m.intU)), .unused, d, a, b, .none, 0, 0⟩
  | .atomSmin h m d a b => some ⟨0x281, m.code, true, .r, h, .dst, (.val .untyped), (.val (.int m.intS)), .unused, d, a, b, .none, 0, 0⟩
  | .atomSmax h m d a b => some ⟨0x282, m.code, true, .r, h, .dst, (.val .untyped), (.val (.int m.intS)), .unused, d, a, b, .none, 0, 0⟩
  | .atomUmin h m d a b => some ⟨0x283, m.code, true, .r, h, .dst, (.val .untyped), (.val (.int m.intU)), .unused, d, a, b, .none, 0, 0⟩
  | .atomUmax h m d a b => some ⟨0x284, m.code, true, .r, h, .dst, (.val .untyped), (.val (.int m.intU)), .unused, d, a, b, .none, 0, 0⟩
  | .atomAnd h m d a b => some ⟨0x285, m.code, true, .r, h, .dst, (.val .untyped), (.val .untyped), .unused, d, a, b, .none, 0, 0⟩
  | .atomOr h m d a b => some ⟨0x286, m.code, true, .r, h, .dst, (.val .untyped), (.val .untyped), .unused, d, a, b, .none, 0, 0⟩
  | .atomXor h m d a b => some ⟨0x287, m.code, true, .r, h, .dst, (.val .untyped), (.val .untyped), .unused, d, a, b, .none, 0, 0⟩
  | .atomExch h m d a b => some ⟨0x288, m.code, true, .r, h, .dst, (.val .untyped), (.val .untyped), .unused, d, a, b, .none, 0, 0⟩
  | .atomFadd h m d a b => some ⟨0x289, m.code, true, .r, h, .dst, (.val .untyped), (.val (.flt m.flt)), .unused, d, a, b, .none, 0, 0⟩
  | .atomcas h m d a b x => some ⟨0x28A, m.code, true, .r, h, .dst, (.val .untyped), (.val .untyped), (.val .untyped), d, a, b, x, 0, 0⟩
  | .fence h m => some ⟨0x28B, m.code, m.ok, .r, h, .unused, .unused, .unused, .unused, .none, .none, .none, .none, 0, 0⟩
  | .pbar h => some ⟨0x28C, 0, true, .r, h, .unused, .unused, .unused, .unused, .none, .none, .none, .none, 0, 0⟩
  | .psync h a => some ⟨0x28D, 0, true, .r, h, .unused, (.val (.int .u64)), .unused, .unused, .none, a, .none, .none, 0, 0⟩
  | .cpy h d a b => some ⟨0x2C0, 0, true, .r, h, .dst, (.val (.int .u64)), (.val (.int .u64)), .unused, d, a, b, .none, 0, 0⟩
  | .sleep h a b => some ⟨0x2C1, 0, true, .r, h, .unused, (.val (.int .u64)), (.val (.int .u64)), .unused, .none, a, b, .none, 0, 0⟩
  | .monitor h d a b imm => some ⟨0x2C2, 0, true, .m, h, .dst, (.val .untyped), (.val (.int .s64)), .absent, d, a, b, .none, imm.toNat, 15⟩
  | .mwait h d a => some ⟨0x2C3, 0, true, .r, h, .dst, (.val (.int .u64)), .unused, .unused, d, a, .none, .none, 0, 0⟩
  | .bar h imm => some ⟨0x2C4, 0, true, .i, h, .unused, .unused, .absent, .absent, .none, .none, .none, .none, imm.toNat, 3⟩
  | .bardrop h imm => some ⟨0x2C5, 0, true, .i, h, .unused, .unused, .absent, .absent, .none, .none, .none, .none, imm.toNat, 3⟩
  | .gbar h imm => some ⟨0x2C6, 0, true, .i, h, .unused, .unused, .absent, .absent, .none, .none, .none, .none, imm.toNat, 8⟩
  | .gred h m d a b => some ⟨0x2C7, m.code, m.ok, .r, h, .dst, (.val m.ty.posTy), (.val (.int .u64)), .unused, d, a, b, .none, 0, 0⟩
  | .nbarrive h imm => some ⟨0x2C8, 0, true, .i, h, .unused, .unused, .absent, .absent, .none, .none, .none, .none, imm.toNat, 4⟩
  | .nbwait h imm => some ⟨0x2C9, 0, true, .i, h, .unused, .unused, .absent, .absent, .none, .none, .none, .none, imm.toNat, 4⟩
  | .psend h d a b => some ⟨0x2CA, 0, true, .r, h, .dst, (.valSpan .untyped 8), (.val (.int .u64)), .unused, d, a, b, .none, 0, 0⟩
  | .precv h d b x => some ⟨0x2CB, 0, true, .r, h, (.dstSpan 8), .unused, (.val (.int .u64)), .pdst, d, .none, b, x, 0, 0⟩
  | .commit h => some ⟨0x2CC, 0, true, .r, h, .unused, .unused, .unused, .unused, .none, .none, .none, .none, 0, 0⟩
  | .mclaim d imm => some ⟨0x300, 0, true, .i, Hdr.stream, .slot, .unused, .absent, .absent, d, .none, .none, .none, imm.toNat, 9⟩
  | .mrelease d imm => some ⟨0x301, 0, true, .i, Hdr.stream, .slot, .unused, .absent, .absent, d, .none, .none, .none, imm.toNat, 9⟩
  | .mfill m d a b imm => some ⟨0x302, m.code, true, .m, Hdr.stream, .slot, .wReg, .wOpt, .absent, d, a, b, .none, imm.toNat, 15⟩
  | .mma m d a b x => some ⟨0x303, m.code, true, .r, Hdr.stream, (.acc 16), .slot, .slot, .waveNo, d, a, b, x, 0, 0⟩
  | .mmack m d a b x => some ⟨0x304, m.code, true, .r, Hdr.stream, (.acc 18), .slot, .slot, .waveNo, d, a, b, x, 0, 0⟩
  | .marrive imm => some ⟨0x305, 0, true, .i, Hdr.stream, .unused, .unused, .absent, .absent, .none, .none, .none, .none, imm.toNat, 4⟩
  | .mwaitnb imm => some ⟨0x306, 0, true, .i, Hdr.stream, .unused, .unused, .absent, .absent, .none, .none, .none, .none, imm.toNat, 10⟩
  | .mend => some ⟨0x307, 0, true, .r, Hdr.stream, .unused, .unused, .unused, .unused, .none, .none, .none, .none, 0, 0⟩
  | .trap h a imm => some ⟨0x340, 0, true, .i, h, .unused, (.val .untyped), .absent, .absent, .none, a, .none, .none, imm.toNat, 16⟩
  | .tret h m a => some ⟨0x341, m.code, true, .r, h, .unused, (.val (.int .u64)), .unused, .unused, .none, a, .none, .none, 0, 0⟩
  | .srd h d imm => some ⟨0x342, 0, true, .i, h, .dst, .unused, .absent, .absent, d, .none, .none, .none, imm.toNat, 12⟩
  | .swr h a imm => some ⟨0x343, 0, true, .i, h, .unused, (.val .untyped), .absent, .absent, .none, a, .none, .none, imm.toNat, 12⟩
  | .launch h d a => some ⟨0x344, 0, true, .r, h, .dst, (.val (.int .u64)), .unused, .unused, d, a, .none, .none, 0, 0⟩
  | .launchg h d a b => some ⟨0x345, 0, true, .r, h, .dst, (.val (.int .u64)), (.val (.int .u64)), .unused, d, a, b, .none, 0, 0⟩
  | .ljoin h m d a x => some ⟨0x346, m.code, true, .r, h, (.dstSpan 2), (.val (.int .u64)), .unused, .pdst, d, a, .none, x, 0, 0⟩
  | .task h d a b x => some ⟨0x347, 0, true, .r, h, .dst, .pair, (.val (.int .u64)), (.val (.int .u64)), d, a, b, x, 0, 0⟩
  | .brk h imm => some ⟨0x348, 0, true, .i, h, .unused, .unused, .absent, .absent, .none, .none, .none, .none, imm.toNat, 16⟩
  | .mdrainSave h a b => some ⟨0x349, 0, true, .r, h, .unused, (.val (.int .u64)), (.val (.int .u64)), .unused, .none, a, b, .none, 0, 0⟩
  | .mdrainLoad h a b => some ⟨0x349, 1, true, .r, h, .unused, (.val (.int .u64)), (.val (.int .u64)), .unused, .none, a, b, .none, 0, 0⟩
  | .sweep h d a b x => some ⟨0x380, 0, true, .r, h, .dst, .pair, (.val (.int .u64)), (.val (.int .u64)), d, a, b, x, 0, 0⟩
  | .ewait h a b => some ⟨0x381, 0, true, .r, h, .unused, (.val .untyped), (.val .untyped), .unused, .none, a, b, .none, 0, 0⟩
  | .edone h a b => some ⟨0x382, 0, true, .r, h, .unused, (.val .untyped), (.val .untyped), .unused, .none, a, b, .none, 0, 0⟩
  | .ewake h d a b => some ⟨0x383, 0, true, .r, h, .dst, .pair, (.val (.int .u64)), .unused, d, a, b, .none, 0, 0⟩
  | .mbbind h d a b x => some ⟨0x384, 0, true, .r, h, .dst, .pairOpt, (.val (.int .u64)), (.val (.int .u64)), d, a, b, x, 0, 0⟩
  | .mbpost h d a b x => some ⟨0x385, 0, true, .r, h, .dst, (.val (.int .u64)), (.val (.int .u64)), (.val (.int .u64)), d, a, b, x, 0, 0⟩
  | .mbtake h d a b => some ⟨0x386, 0, true, .r, h, .dst, (.val (.int .u64)), (.val (.int .u64)), .unused, d, a, b, .none, 0, 0⟩
  | .mbstat h d a => some ⟨0x387, 0, true, .r, h, .dst, (.val (.int .u64)), .unused, .unused, d, a, .none, .none, 0, 0⟩
  | .mbfloor h d a b => some ⟨0x388, 0, true, .r, h, .dst, (.val (.int .u64)), (.val (.int .u64)), .unused, d, a, b, .none, 0, 0⟩
  | .mbfree h d a => some ⟨0x389, 0, true, .r, h, .dst, (.val (.int .u64)), .unused, .unused, d, a, .none, .none, 0, 0⟩
  | .fillLand _ _ _ => none
  | .writeBack _ _ => none
  | .requestLeavesCore _ => none
  | .l2Accept _ => none
  | .dieLinkApply _ => none
  | .atomicExecute _ => none
  | .durableAccept _ => none
  | .wbmaxRelease _ _ => none
  | .translationWalk _ _ => none
  | .faultReport _ _ => none
  | .lineWriteWake _ _ => none
  | .mwaitTimeout _ _ => none
  | .sleepWake _ _ => none
  | .copyComplete _ => none
  | .copyFault _ => none
  | .collectiveInstance _ _ => none
  | .memberAnnounceRemoval _ _ => none
  | .memberSilenceTimeout _ _ => none
  | .flitCrcResend _ _ _ => none
  | .faultRetry _ _ _ => none
  | .strikeReplay _ => none
  | .preemptRequestArrival _ => none
  | .switchOut _ => none
  | .noSafePoint _ => none
  | .matrixFreeze _ => none
  | .switchIn _ => none
  | .poolGrant _ => none
  | .fairnessRun _ => none
  | .ageingPromotion _ => none
  | .noProgress _ _ => none
  | .stalledWaveReport _ => none
  | .blockPlacement _ => none
  | .priorityPreempt _ => none
  | .waveRetire _ => none
  | .matrixOpComplete _ => none
  | .mfillComplete _ => none
  | .sequencerIllegal _ => none
  | .commitDrainDone _ => none
  | .bindService _ => none
  | .migrationPull _ _ => none
  | .gazetteerUpdate _ _ => none
  | .hostWrite _ _ => none
  | .hostRead _ _ => none
  | .powerFail => none
  | .durableDrainDone _ => none
  | .powerUp => none
  | .thermalTrip => none
  | .registerInjection _ => none
  | .sweepLaneLoad _ => none
  | .sweepCountPass _ => none
  | .lineWatchWakeScan _ _ => none
  | .take _ _ => none
  | .post _ _ => none
  | .episodeExit _ _ => none
  | .episodeYield _ => none
  | .episodeWait _ => none
  | .episodeException _ _ _ => none
  | .episodeEccError _ => none
  | .quantumExpiry _ => none
  | .stepWatchdogExpiry _ _ => none
  | .deadlineExpiry _ => none
  | .wctlPreempt _ _ => none
  | .wctlCancel _ _ => none
  | .wctlResume _ _ => none
  | .wctlKillLaunch _ _ => none
  | .wctlKillBlock _ _ _ => none
  | .wctlKillWaveBlock _ _ _ _ => none
  | .recbaseRelease _ => none
  | .loadObject _ _ => none
  | .unloadObject _ _ => none
  | .collectiveWindow _ _ => none
  | .debuggerAttach _ _ => none
  | .armInjection _ _ => none
  | .scoreboardSwitch _ _ => none
  | .attestationQuote _ _ => none
  | .mapGranuleImage _ _ => none
  | .map _ _ => none
  | .unmap _ _ => none
  | .protect _ _ => none
  | .migrate _ _ => none
  | .discard _ _ => none
  | .unshare _ _ => none
  | .share _ _ => none
  | .resume _ _ => none
  | .inval _ _ => none
  | .partition _ _ => none
  | .create _ _ => none
  | .destroy _ _ => none
  | .query _ _ => none
  | .tenantCreate _ _ => none
  | .setQmax _ _ _ => none
  | .writeKeySlot _ _ _ => none
  | .writeRaspol _ => none
  | .assignDurableFrames _ _ _ => none
  | .moduleReset => none
  | .dieReset _ => none
  | .tenantReset _ => none
  | .episodeReset _ => none
  | .readmitDevice _ _ => none
  | .setPowerCap _ => none
  | .readTelemetry => none
  | .spuriousWake _ _ => none
  | .journalAgeOut _ => none
  | .seqerrClear _ => none

/-! ### Checks that depend on the word alone -/

/-- A class 00 or 01 operand. -/
def Operand.isReg : Operand → Bool
  | .v _ | .w _ => true
  | _ => false

/-- Whether an operand's class fits the kind of its position (01: R27). -/
def Kind.fits : Kind → Operand → Bool
  | .absent, _ => true
  | .unused, o => decide (o = .none)
  | .dst, o | .dstRW, o | .pairDst, o => match o with | .v _ | .w _ | .none => true | _ => false
  | .dstW, o | .wOpt, o => match o with | .w _ | .none => true | _ => false
  | .dstRun _, o | .rwRun _ _, o | .srcRun _ _, o | .acc _, o => match o with | .v _ => true | _ => false
  | .dstSpan k, o => match o with | .v _ | .none => true | .w n => decide (n.toNat + k ≤ 256) | _ => false
  | .valSpan ty k, o =>
    match o with | .p _ => false | .fpc _ => ty.isFlt | .w n => decide (n.toNat + k ≤ 256) | _ => true
  | .pdst, o | .psrc, o => match o with | .p _ | .none => true | _ => false
  | .val ty, o => match o with | .p _ => false | .fpc _ => ty.isFlt | _ => true
  | .pair, o | .pairOpt, o => match o with | .p _ | .fpc _ => false | _ => true
  | .slot, o | .wReg, o => match o with | .w _ => true | _ => false
  | .waveNo, o => match o with | .small _ => true | _ => false

/-- Whether a small integer lies in the range of an 8-bit or 4-bit sub-element (01: R29). -/
def Kind.smallFits : Kind → Operand → Bool
  | .val (.int .s8), .small _ => true
  | .val (.int .u8), .small k => decide (0 ≤ k.toInt)
  | .val (.int .s4), .small k => decide (-8 ≤ k.toInt ∧ k.toInt ≤ 7)
  | .val (.int .u4), .small k => decide (0 ≤ k.toInt ∧ k.toInt ≤ 15)
  | _, _ => true

/-- A capability pair begins at an even register (04: R107; 06: R138), which MBBIND's class 11 stands in for
(25: R386); bit 7 of a stream word's wave number is zero (14: R248). -/
def Kind.zeroBits : Kind → Operand → Bool
  | .pair, o => match o with | .v n => decide (n.toNat % 2 = 0) | .w n => decide (n.toNat % 2 = 0) | _ => false
  | .pairOpt, o =>
    match o with
    | .v n => decide (n.toNat % 2 = 0)
    | .w n => decide (n.toNat % 2 = 0)
    | o => decide (o = .none)
  | .pairDst, o =>
    match o with | .v n => decide (n.toNat % 2 = 0) | .w n => decide (n.toNat % 2 = 0) | _ => true
  | .waveNo, o => match o with | .small k => decide (0 ≤ k.toInt) | _ => true
  | _, _ => true

/-- A last-use bit stands only beside a register operand that the form provides (01: R23). -/
def lastOk (bit : Bool) (k : Kind) (o : Operand) : Bool :=
  !bit || (decide (k ≠ .absent) && o.isReg)

/-- The selects that name a special register (17: R288). -/
def selectListed (n : Nat) : Bool :=
  decide (n ≤ 7) || decide (0x010 ≤ n ∧ n ≤ 0x012) || decide (0x018 ≤ n ∧ n ≤ 0x01F)
    || decide (0x020 ≤ n ∧ n ≤ 0x02F) || decide (0x030 ≤ n ∧ n ≤ 0x037) || decide (0x100 ≤ n ∧ n ≤ 0x17F)

/-- The first of the checks of reasons 0x4 and 0x6 to 0x9 that the operands `d a b x` of a word fail
(02: R54), the positions in the order d, a, b, x. -/
def View.reason (v : View) (d a b x : Operand) : Option Nat :=
  if !v.modOk then some 4
  else if !(v.dk.fits d && v.ak.fits a && v.bk.fits b && v.xk.fits x) then some 6
  else if !(v.dk.smallFits d && v.ak.smallFits a && v.bk.smallFits b && v.xk.smallFits x) then some 7
  else if !(lastOk v.hdr.lastA v.ak a && lastOk v.hdr.lastB v.bk b && lastOk v.hdr.lastX v.xk x) then some 8
  else if !(v.dk.zeroBits d && v.ak.zeroBits a && v.bk.zeroBits b && v.xk.zeroBits x) then some 9
  else if (v.op = 0x342 || v.op = 0x343) && !selectListed v.imm then some 9
  else none

end Sys2Proof
end

