-- ==== Sys2Proof/WellFormed.lean ====
section
/-! DEFINITION. Which instructions are well formed: those whose word passes every check of the opcode
map that depends on the word alone (02: R54, R58). -/

namespace Sys2Proof

/-- The fill field belongs to the R form alone (01: R25). -/
def View.fillOk (v : View) : Bool := decide (v.form = .r) || decide (v.hdr.fill = 0)

/-- An instruction whose own operands pass the checks of reasons 0x4 and 0x6 to 0x9. A step of the
device has no word and is well formed. -/
def Instr.wf (i : Instr) : Bool :=
  match i.view with
  | none => true
  | some v => decide (v.reason v.d v.a v.b v.x = none) && v.fillOk

end Sys2Proof
end

