-- ==== Sys2Proof/Decode.lean ====
section
/-! DEFINITION. The decoder, total on any 96 bits and rejecting by the reason codes of the opcode map
(02: R54, R58), and the encoder, written from the same tables of fields (01: R16, R24, R26). -/

namespace Sys2Proof

/-- Bits [lo + n - 1 : lo] of a word. -/
def fld (w lo n : Nat) : Nat := w / 2 ^ lo % 2 ^ n

/-- An operand field (01: R26); none where its bits break R26 or hold a special select above 0x07. -/
def Operand.decode (f : Nat) : Option Operand :=
  match f / 1024 with
  | 0 => some (.v (BitVec.ofNat 10 f))
  | 1 => if f % 1024 < 256 then some (.w (BitVec.ofNat 8 f)) else Option.none
  | 2 =>
    match f / 256 % 4 with
    | 0 => if f % 256 < 8 then some (.p (BitVec.ofNat 3 f)) else Option.none
    | 1 => (Special.ofCode (f % 256)).map .special
    | 2 => some (.small (BitVec.ofNat 8 f))
    | _ => if f % 256 < 64 then some (.fpc (BitVec.ofNat 6 f)) else Option.none
  | _ => if f % 1024 = 0 then some .none else Option.none

/-- The 12 bits of an operand (01: R26). -/
def Operand.encode : Operand → Nat
  | .v n => n.toNat
  | .w n => 1024 + n.toNat
  | .p n => 2048 + n.toNat
  | .special sp => 2304 + sp.code
  | .small k => 2560 + k.toNat
  | .fpc i => 2816 + i.toNat
  | .none => 3072

/-- The set flag field (01: R16): 12 to 14 name no flag. -/
def setFlagOf (n : Nat) : Option (Option (Fin 12)) :=
  if h : n < 12 then some (some ⟨n, h⟩) else if n = 15 then some none else none

/-- The common fields of a word, with the fill field where the form has one. -/
def hdrOf (w : Nat) (sf : Option (Fin 12)) (form : Form) : Hdr :=
  { guardNeg := decide (fld w 79 1 = 1), guard := BitVec.ofNat 3 (fld w 76 3)
    stall := BitVec.ofNat 4 (fld w 72 4), wait := BitVec.ofNat 12 (fld w 60 12), setFlag := sf
    yield := decide (fld w 55 1 = 1), safe := decide (fld w 54 1 = 1), lastA := decide (fld w 53 1 = 1)
    lastB := decide (fld w 52 1 = 1), lastX := decide (fld w 51 1 = 1)
    fill := if form = .r then BitVec.ofNat 3 (fld w 0 3) else 0 }

/-- Group 0x0: the instruction of an index, none where the index or mod is unassigned. -/
def build0 (idx m : Nat) (h : Hdr) (d a b x : Operand) (imm : Nat) : Option Instr :=
  match idx with
  | 0 => (IntMod.ofCode m).map fun t => .iadd h t d a b
  | 1 => (IntMod.ofCode m).map fun t => .isub h t d a b
  | 2 => (IntMod.ofCode m).map fun t => .imul h t d a b
  | 3 => (IntMod.ofCode m).map fun t => .imulh h t d a b
  | 4 => (IntMod.ofCode m).map fun t => .imad h t d a b x
  | 5 => (IntMod.ofCode m).map fun t => .imin h t d a b
  | 6 => (IntMod.ofCode m).map fun t => .imax h t d a b
  | 7 => (IntMod.ofCode m).map fun t => .iabs h t d a
  | 8 => (IntMod.ofCode m).map fun t => .ineg h t d a
  | 9 => (IntMod.ofCode m).map fun t => .idiv h t d a b
  | 10 => (IntMod.ofCode m).map fun t => .irem h t d a b
  | 11 => (IntMod.ofCode m).map fun t => .isad h t d a b x
  | 12 => (IntMod.ofCode m).map fun t => .iaddi h t d a (BitVec.ofNat 27 imm)
  | 13 => (IntMod.ofCode m).map fun t => .imuli h t d a (BitVec.ofNat 27 imm)
  | 14 => (IntMod.ofCode m).map fun t => .lea h t d a b (BitVec.ofNat 15 imm)
  | 15 => (IntMod.ofCode m).map fun t => .idot4 h t d a b x
  | _ => none

/-- Group 0x1: the instruction of an index, none where the index or mod is unassigned. -/
def build1 (idx m : Nat) (h : Hdr) (d a b x : Operand) (imm : Nat) : Option Instr :=
  match idx with
  | 0 => if m = 0 then some (.and h d a b) else none
  | 1 => if m = 0 then some (.or h d a b) else none
  | 2 => if m = 0 then some (.xor h d a b) else none
  | 3 => if m = 0 then some (.not h d a) else none
  | 4 => if m = 0 then some (.andn h d a b) else none
  | 5 => (IntMod.ofCode m).map fun t => .shl h t d a b
  | 6 => (IntMod.ofCode m).map fun t => .shr h t d a b
  | 7 => (IntMod.ofCode m).map fun t => .sar h t d a b
  | 8 => (IntMod.ofCode m).map fun t => .rol h t d a b
  | 9 => (IntMod.ofCode m).map fun t => .shli h t d a (BitVec.ofNat 27 imm)
  | 10 => (IntMod.ofCode m).map fun t => .shri h t d a (BitVec.ofNat 27 imm)
  | 11 => (IntMod.ofCode m).map fun t => .sari h t d a (BitVec.ofNat 27 imm)
  | 12 => (IntMod.ofCode m).map fun t => .popc h t d a
  | 13 => (IntMod.ofCode m).map fun t => .clz h t d a
  | 14 => (IntMod.ofCode m).map fun t => .ctz h t d a
  | 15 => (IntMod.ofCode m).map fun t => .brev h t d a
  | 16 => (IntMod.ofCode m).map fun t => .bfx h t d a b
  | 17 => (IntMod.ofCode m).map fun t => .bfi h t d a b x
  | 18 => if m = 0 then some (.andi h d a (BitVec.ofNat 27 imm)) else none
  | 19 => if m = 0 then some (.ori h d a (BitVec.ofNat 27 imm)) else none
  | 20 => if m = 0 then some (.xori h d a (BitVec.ofNat 27 imm)) else none
  | _ => none

/-- Group 0x2: the instruction of an index, none where the index or mod is unassigned. -/
def build2 (idx m : Nat) (h : Hdr) (d a b x : Operand) (imm : Nat) : Option Instr :=
  match idx with
  | 0 => (ICondMod.ofCode m).map fun t => .isetp h t d a b x
  | 1 => (FCondMod.ofCode m).map fun t => .fsetp h t d a b x
  | 2 => (ICondMod.ofCode m).map fun t => .isetpi h t d a (BitVec.ofNat 27 imm)
  | 3 => if m = 0 then some (.pand h d a b) else none
  | 4 => if m = 0 then some (.por h d a b) else none
  | 5 => if m = 0 then some (.pxor h d a b) else none
  | 6 => if m = 0 then some (.pnot h d a) else none
  | 7 => if m = 0 then some (.sel h d a b x) else none
  | 8 => if m = 0 then some (.pmask h d a) else none
  | 9 => if m = 0 then some (.psetm h d a) else none
  | _ => none

/-- Group 0x3: the instruction of an index, none where the index or mod is unassigned. -/
def build3 (idx m : Nat) (h : Hdr) (d a b x : Operand) (imm : Nat) : Option Instr :=
  match idx with
  | 0 => if m = 0 then some (.bra h (BitVec.ofNat 32 imm)) else none
  | 1 => if m = 0 then some (.brx h a) else none
  | 2 => if m = 0 then some (.call h d (BitVec.ofNat 32 imm)) else none
  | 3 => if m = 0 then some (.callx h d a) else none
  | 4 => if m = 0 then some (.callb h d a b (BitVec.ofNat 15 imm)) else none
  | 5 => if m = 0 then some (.ret h a) else none
  | 6 => if m = 0 then some (.exit h) else none
  | 7 => if m = 0 then some (.wsync h a) else none
  | 8 => if m = 0 then some (.nop h) else none
  | _ => none

/-- Group 0x4: the instruction of an index, none where the index or mod is unassigned. -/
def build4 (idx m : Nat) (h : Hdr) (d a b x : Operand) (imm : Nat) : Option Instr :=
  match idx with
  | 0 => if m = 0 then some (.mov h d a) else none
  | 1 => if m = 0 then some (.movw h d a b) else none
  | 2 => if m = 0 then some (.movi h d (BitVec.ofNat 27 imm)) else none
  | 3 => (MovlMod.ofCode m).map fun t => .movl h t d (BitVec.ofNat 32 imm)
  | 4 => (GrowMod.ofCode m).map fun t => .grow h t d a
  | 5 => if m = 0 then some (.shrink h d a) else none
  | 6 => if m = 0 then some (.capmk h d a b) else none
  | 7 => if m = 0 then some (.capnrw h d a b x) else none
  | 8 => if m < 8 then some (.capchk h (BitVec.ofNat 3 m) d a b x) else none
  | 9 => if m = 0 then some (.caprd h d a b) else none
  | _ => none

/-- Group 0x5: the instruction of an index, none where the index or mod is unassigned. -/
def build5 (idx m : Nat) (h : Hdr) (d a b x : Operand) (imm : Nat) : Option Instr :=
  match idx with
  | 0 => (FpMod.ofCode5 m).map fun t => .fadd h t d a b
  | 1 => (FpMod.ofCode5 m).map fun t => .fmul h t d a b
  | 2 => (FpMod.ofCode5 m).map fun t => .ffma h t d a b x
  | 3 => (FpMod.ofCode5 m).map fun t => .fmin h t d a b
  | 4 => (FpMod.ofCode5 m).map fun t => .fmax h t d a b
  | 5 => (FpMod.ofCode5 m).map fun t => .fabs h t d a
  | 6 => (FpMod.ofCode5 m).map fun t => .fneg h t d a
  | 7 => (FpMod.ofCode5 m).map fun t => .frcp h t d a
  | 8 => (FpMod.ofCode5 m).map fun t => .fsqrt h t d a
  | 9 => (FpMod.ofCode5 m).map fun t => .frsq h t d a
  | 10 => (FpMod.ofCode5 m).map fun t => .fexp2 h t d a
  | 11 => (FpMod.ofCode5 m).map fun t => .flog2 h t d a
  | 12 => (FpMod.ofCode5 m).map fun t => .fsin h t d a
  | 13 => (FpMod.ofCode5 m).map fun t => .fcos h t d a
  | 14 => (FpMod.ofCode5 m).map fun t => .fdiv h t d a b
  | 15 => (FpMod.ofCode5 m).map fun t => .fclass h t d a
  | 16 => if m = 1 then some (.ckcmp h d a b) else none
  | 17 => if m = 1 then some (.ckfix h d a b x) else none
  | _ => none

/-- Group 0x6: the instruction of an index, none where the index or mod is unassigned. -/
def build6 (idx m : Nat) (h : Hdr) (d a b x : Operand) (imm : Nat) : Option Instr :=
  match idx with
  | 0 => (FpMod.ofCode6 m).map fun t => .faddH h t d a b
  | 1 => (FpMod.ofCode6 m).map fun t => .fmulH h t d a b
  | 2 => (FpMod.ofCode6 m).map fun t => .ffmaH h t d a b x
  | 3 => (FpMod.ofCode6 m).map fun t => .fminH h t d a b
  | 4 => (FpMod.ofCode6 m).map fun t => .fmaxH h t d a b
  | 5 => (FpMod.ofCode6 m).map fun t => .fabsH h t d a
  | 6 => (FpMod.ofCode6 m).map fun t => .fnegH h t d a
  | 7 => (FpMod.ofCode6 m).map fun t => .frcpH h t d a
  | 8 => (FpMod.ofCode6 m).map fun t => .fexp2H h t d a
  | 9 => (FpMod.ofCode6 m).map fun t => .fdot2 h t d a b x
  | _ => none

/-- Group 0x7: the instruction of an index, none where the index or mod is unassigned. -/
def build7 (idx m : Nat) (h : Hdr) (d a b x : Operand) (imm : Nat) : Option Instr :=
  match idx with
  | 0 => (CvtMod.ofCode m imm).map fun t => .cvt h t d a
  | 1 => (PackMod.ofCode m).map fun t => .packk h t d a
  | 2 => (UnpackMod.ofCode m).map fun t => .unpkk h t d a b
  | 3 => if m = 0 then some (.ftag h d a (Tag.ofCode (imm % 16))) else none
  | 4 => if m = 0 then some (.ftagrd h d a) else none
  | _ => none

/-- Group 0x8: the instruction of an index, none where the index or mod is unassigned. -/
def build8 (idx m : Nat) (h : Hdr) (d a b x : Operand) (imm : Nat) : Option Instr :=
  match idx with
  | 0 => (ShMod.ofCode m).map fun t => .shfl h t d a b
  | 1 => (ShMod.ofCode m).map fun t => .shfli h t d a (BitVec.ofNat 10 imm)
  | 2 => (VoteMod.ofCode m).map fun t => .vote h t d a
  | 3 => (RedMod.ofCode m).map fun t => .red h t d a
  | 4 => (RedMod.ofCode m).map fun t => .scan h t d a
  | 5 => (RedMod.ofCode m).map fun t => .scanx h t d a
  | _ => none

/-- Group 0x9: the instruction of an index, none where the index or mod is unassigned. -/
def build9 (idx m : Nat) (h : Hdr) (d a b x : Operand) (imm : Nat) : Option Instr :=
  match idx with
  | 0 => (LoadMod.ofCode m).map fun t => .ld h t d a b (BitVec.ofNat 15 imm)
  | 1 => (StoreMod.ofCode m).map fun t => .st h t d a b (BitVec.ofNat 15 imm)
  | 2 => (LoadMod.ofCode m).map fun t => .ldl h t d a b (BitVec.ofNat 15 imm)
  | 3 => (StoreMod.ofCode m).map fun t => .stl h t d a b (BitVec.ofNat 15 imm)
  | 4 => (LoadMod.ofCode m).map fun t => .ldt h t d a b (BitVec.ofNat 15 imm)
  | 5 => (StoreMod.ofCode m).map fun t => .stt h t d a b (BitVec.ofNat 15 imm)
  | 6 => if m % 8 = 0 then some (.pref h (BitVec.ofNat 3 (m / 8)) a b (BitVec.ofNat 15 imm)) else none
  | _ => none

/-- Group 0xA: the instruction of an index, none where the index or mod is unassigned. -/
def buildA (idx m : Nat) (h : Hdr) (d a b x : Operand) (imm : Nat) : Option Instr :=
  match idx with
  | 0 => (AtomMod.ofCode m).map fun t => .atomAdd h t d a b
  | 1 => (AtomMod.ofCode m).map fun t => .atomSmin h t d a b
  | 2 => (AtomMod.ofCode m).map fun t => .atomSmax h t d a b
  | 3 => (AtomMod.ofCode m).map fun t => .atomUmin h t d a b
  | 4 => (AtomMod.ofCode m).map fun t => .atomUmax h t d a b
  | 5 => (AtomMod.ofCode m).map fun t => .atomAnd h t d a b
  | 6 => (AtomMod.ofCode m).map fun t => .atomOr h t d a b
  | 7 => (AtomMod.ofCode m).map fun t => .atomXor h t d a b
  | 8 => (AtomMod.ofCode m).map fun t => .atomExch h t d a b
  | 9 => (AtomMod.ofCode m).map fun t => .atomFadd h t d a b
  | 10 => (AtomMod.ofCode m).map fun t => .atomcas h t d a b x
  | 11 => (FenceMod.ofCode m).map fun t => .fence h t
  | 12 => if m = 0 then some (.pbar h) else none
  | 13 => if m = 0 then some (.psync h a) else none
  | _ => none

/-- Group 0xB: the instruction of an index, none where the index or mod is unassigned. -/
def buildB (idx m : Nat) (h : Hdr) (d a b x : Operand) (imm : Nat) : Option Instr :=
  match idx with
  | 0 => if m = 0 then some (.cpy h d a b) else none
  | 1 => if m = 0 then some (.sleep h a b) else none
  | 2 => if m = 0 then some (.monitor h d a b (BitVec.ofNat 15 imm)) else none
  | 3 => if m = 0 then some (.mwait h d a) else none
  | 4 => if m = 0 then some (.bar h (BitVec.ofNat 3 imm)) else none
  | 5 => if m = 0 then some (.bardrop h (BitVec.ofNat 3 imm)) else none
  | 6 => if m = 0 then some (.gbar h (BitVec.ofNat 8 imm)) else none
  | 7 => (RedMod.ofCode m).map fun t => .gred h t d a b
  | 8 => if m = 0 then some (.nbarrive h (BitVec.ofNat 4 imm)) else none
  | 9 => if m = 0 then some (.nbwait h (BitVec.ofNat 4 imm)) else none
  | 10 => if m = 0 then some (.psend h d a b) else none
  | 11 => if m = 0 then some (.precv h d b x) else none
  | 12 => if m = 0 then some (.commit h) else none
  | _ => none

/-- Group 0xC: the instruction of an index, none where the index or mod is unassigned. -/
def buildC (idx m : Nat) (h : Hdr) (d a b x : Operand) (imm : Nat) : Option Instr :=
  match idx with
  | 0 => if m = 0 then some (.mclaim d (BitVec.ofNat 9 imm)) else none
  | 1 => if m = 0 then some (.mrelease d (BitVec.ofNat 9 imm)) else none
  | 2 => (TileFmt.ofCode m).map fun t => .mfill t d a b (BitVec.ofNat 15 imm)
  | 3 => (TileFmt.ofCode m).map fun t => .mma t d a b x
  | 4 => (TileFmt.ofCode m).map fun t => .mmack t d a b x
  | 5 => if m = 0 then some (.marrive (BitVec.ofNat 4 imm)) else none
  | 6 => if m = 0 then some (.mwaitnb (BitVec.ofNat 10 imm)) else none
  | 7 => if m = 0 then some (.mend) else none
  | _ => none

/-- Group 0xD: the instruction of an index, none where the index or mod is unassigned. -/
def buildD (idx m : Nat) (h : Hdr) (d a b x : Operand) (imm : Nat) : Option Instr :=
  match idx with
  | 0 => if m = 0 then some (.trap h a (BitVec.ofNat 16 imm)) else none
  | 1 => (TretMod.ofCode m).map fun t => .tret h t a
  | 2 => if m = 0 then some (.srd h d (BitVec.ofNat 12 imm)) else none
  | 3 => if m = 0 then some (.swr h a (BitVec.ofNat 12 imm)) else none
  | 4 => if m = 0 then some (.launch h d a) else none
  | 5 => if m = 0 then some (.launchg h d a b) else none
  | 6 => (JoinMod.ofCode m).map fun t => .ljoin h t d a x
  | 7 => if m = 0 then some (.task h d a b x) else none
  | 8 => if m = 0 then some (.brk h (BitVec.ofNat 16 imm)) else none
  | 9 => if m = 0 then some (.mdrainSave h a b) else if m = 1 then some (.mdrainLoad h a b) else none
  | _ => none

/-- Group 0xE: the instruction of an index, none where the index or mod is unassigned. -/
def buildE (idx m : Nat) (h : Hdr) (d a b x : Operand) (imm : Nat) : Option Instr :=
  match idx with
  | 0 => if m = 0 then some (.sweep h d a b x) else none
  | 1 => if m = 0 then some (.ewait h a b) else none
  | 2 => if m = 0 then some (.edone h a b) else none
  | 3 => if m = 0 then some (.ewake h d a b) else none
  | 4 => if m = 0 then some (.mbbind h d a b x) else none
  | 5 => if m = 0 then some (.mbpost h d a b x) else none
  | 6 => if m = 0 then some (.mbtake h d a b) else none
  | 7 => if m = 0 then some (.mbstat h d a) else none
  | 8 => if m = 0 then some (.mbfloor h d a b) else none
  | 9 => if m = 0 then some (.mbfree h d a) else none
  | _ => none

/-- The instruction of an op, mod and payload: none where op is unassigned (02: R43) or mod has no
meaning under the layouts of R45 to R53 (02). -/
def build (op m : Nat) (h : Hdr) (d a b x : Operand) (imm : Nat) : Option Instr :=
  match op / 64 with
  | 0 => build0 (op % 64) m h d a b x imm
  | 1 => build1 (op % 64) m h d a b x imm
  | 2 => build2 (op % 64) m h d a b x imm
  | 3 => build3 (op % 64) m h d a b x imm
  | 4 => build4 (op % 64) m h d a b x imm
  | 5 => build5 (op % 64) m h d a b x imm
  | 6 => build6 (op % 64) m h d a b x imm
  | 7 => build7 (op % 64) m h d a b x imm
  | 8 => build8 (op % 64) m h d a b x imm
  | 9 => build9 (op % 64) m h d a b x imm
  | 10 => buildA (op % 64) m h d a b x imm
  | 11 => buildB (op % 64) m h d a b x imm
  | 12 => buildC (op % 64) m h d a b x imm
  | 13 => buildD (op % 64) m h d a b x imm
  | 14 => buildE (op % 64) m h d a b x imm
  | _ => none

/-- The form of each assigned op (02: R43); none where op is unassigned. -/
def formOf (op : Nat) : Option Form :=
  match op / 64, op % 64 with
  | 0x0, i => if i = 12 ∨ i = 13 then some .i else if i = 14 then some .m else if i < 16 then some .r else none
  | 0x1, i => if (9 ≤ i ∧ i ≤ 11) ∨ (18 ≤ i ∧ i ≤ 20) then some .i else if i < 21 then some .r else none
  | 0x2, i => if i = 2 then some .i else if i < 10 then some .r else none
  | 0x3, i => if i = 0 ∨ i = 2 then some .l else if i = 4 then some .m else if i < 9 then some .r else none
  | 0x4, i => if i = 2 then some .i else if i = 3 then some .l else if i < 10 then some .r else none
  | 0x5, i => if i < 18 then some .r else none
  | 0x6, i => if i < 10 then some .r else none
  | 0x7, i => if i = 0 ∨ i = 3 then some .i else if i < 5 then some .r else none
  | 0x8, i => if i = 1 then some .i else if i < 6 then some .r else none
  | 0x9, i => if i < 7 then some .m else none
  | 0xA, i => if i < 14 then some .r else none
  | 0xB, i => if i = 2 then some .m else if i = 4 ∨ i = 5 ∨ i = 6 ∨ i = 8 ∨ i = 9 then some .i
      else if i < 13 then some .r else none
  | 0xC, i => if i = 0 ∨ i = 1 ∨ i = 5 ∨ i = 6 then some .i else if i = 2 then some .m
      else if i < 8 then some .r else none
  | 0xD, i => if i = 0 ∨ i = 2 ∨ i = 3 ∨ i = 8 then some .i else if i < 10 then some .r else none
  | 0xE, i => if i < 10 then some .r else none
  | _, _ => none

/-- The four operands of a payload, class 11 where the form has no such position (01: R24); none where
a field breaks R26. -/
def operandsOf (w : Nat) (form : Form) : Option (Operand × Operand × Operand × Operand) :=
  match form with
  | .r =>
    match Operand.decode (fld w 39 12), Operand.decode (fld w 27 12), Operand.decode (fld w 15 12),
        Operand.decode (fld w 3 12) with
    | some d, some a, some b, some x => some (d, a, b, x)
    | _, _, _, _ => none
  | .i =>
    match Operand.decode (fld w 39 12), Operand.decode (fld w 27 12) with
    | some d, some a => some (d, a, .none, .none)
    | _, _ => none
  | .l => (Operand.decode (fld w 39 12)).map fun d => (d, .none, .none, .none)
  | .m =>
    match Operand.decode (fld w 39 12), Operand.decode (fld w 27 12), Operand.decode (fld w 15 12) with
    | some d, some a, some b => some (d, a, b, .none)
    | _, _, _ => none

/-- The immediate bits of a payload (01: R24). -/
def immOf (w : Nat) : Form → Nat
  | .r => 0
  | .i => fld w 0 27
  | .l => fld w 7 32
  | .m => fld w 0 15

/-- The bits of a payload that its form requires to be zero. -/
def formZero (w : Nat) : Form → Bool
  | .l => decide (fld w 0 7 = 0)
  | _ => true

/-- What the checks of a fetched word answer. -/
inductive Decoded where
  | ok (i : Instr)
  /-- the reason code of the first check that fails -/
  | illegal (reason : Nat)
deriving DecidableEq, Repr

/-- The checks of reasons 0x4 to 0x9, on a word whose op is assigned (02: R54). -/
def decodeChecked (w : Nat) (form : Form) (h : Hdr) : Decoded :=
  match build (fld w 86 10) (fld w 80 6) h .none .none .none .none (immOf w form) with
  | none => .illegal 4
  | some i0 =>
    match i0.view with
    | none => .illegal 4
    | some v0 =>
      if !v0.modOk then .illegal 4
      else
        match operandsOf w form with
        | none => .illegal 5
        | some (d, a, b, x) =>
          match build (fld w 86 10) (fld w 80 6) h d a b x (immOf w form) with
          | none => .illegal 4
          | some i =>
            match i.view with
            | none => .illegal 4
            | some v =>
              match v.reason d a b x with
              | some r => .illegal r
              | none =>
                if !formZero w form || decide (immOf w form / 2 ^ v.immBits ≠ 0) then .illegal 9
                else .ok i

/-- A word fetched by a wave (02: R54). -/
def decodeWave (w : Nat) : Decoded :=
  match formOf (fld w 86 10) with
  | none => .illegal 1
  | some form =>
    if fld w 92 4 = 0xC then .illegal 2
    else
      match setFlagOf (fld w 56 4) with
      | none => .illegal 3
      | some sf => decodeChecked w form (hdrOf w sf form)

/-- Bits [79:51] of a stream word: guard p7, stall 0, wait mask 0, set flag 15, no other bit
(02: R58). -/
def streamPattern : Nat := 7 * 2 ^ 25 + 15 * 2 ^ 5

/-- A word fetched by the sequencer (02: R58). -/
def decodeStream (w : Nat) : Decoded :=
  match formOf (fld w 86 10) with
  | none => .illegal 0xA
  | some form =>
    if fld w 92 4 ≠ 0xC then .illegal 0xA
    else if fld w 51 29 ≠ streamPattern then .illegal 0xB
    else
      match decodeChecked w form Hdr.stream with
      | .illegal r => .illegal r
      | .ok i => if form = .r ∧ fld w 0 3 ≠ 0 then .illegal 9 else .ok i

/-- An instruction's bits, numbered from bit 0 of the first word: what the decoder reads from them. A
word of the matrix stream is read as the sequencer reads it, any other as a wave does. -/
def decodeTableWord (nbits w : Nat) : Option Instr :=
  if nbits ≤ 96 ∧ w < 2 ^ 96 then
    match (if fld w 92 4 = 0xC then decodeStream w else decodeWave w) with
    | .ok i => some i
    | .illegal _ => none
  else none

/-! ### The encoder -/

/-- The bits [95:51] of a word (01: R16), above a payload. -/
def View.encodeHdr (v : View) : Nat :=
  let h := v.hdr
  v.op * 2 ^ 86 + v.mod * 2 ^ 80 + (if h.guardNeg then 2 ^ 79 else 0) + h.guard.toNat * 2 ^ 76
    + h.stall.toNat * 2 ^ 72 + h.wait.toNat * 2 ^ 60
    + (match h.setFlag with | some f => f.val | none => 15) * 2 ^ 56
    + (if h.yield then 2 ^ 55 else 0) + (if h.safe then 2 ^ 54 else 0) + (if h.lastA then 2 ^ 53 else 0)
    + (if h.lastB then 2 ^ 52 else 0) + (if h.lastX then 2 ^ 51 else 0)

/-- The payload (01: R24). -/
def View.encodePayload (v : View) : Nat :=
  match v.form with
  | .r => v.d.encode * 2 ^ 39 + v.a.encode * 2 ^ 27 + v.b.encode * 2 ^ 15 + v.x.encode * 2 ^ 3
      + v.hdr.fill.toNat
  | .i => v.d.encode * 2 ^ 39 + v.a.encode * 2 ^ 27 + v.imm
  | .l => v.d.encode * 2 ^ 39 + v.imm * 2 ^ 7
  | .m => v.d.encode * 2 ^ 39 + v.a.encode * 2 ^ 27 + v.b.encode * 2 ^ 15 + v.imm

/-- The word of an instruction; none for a step of the device. -/
def encode (i : Instr) : Option Nat :=
  i.view.map fun v => v.encodeHdr + v.encodePayload

/-- The three 32-bit words of a 96-bit word, word 0 first (01: R13). -/
def wordsOf (w : Nat) : List Nat := [fld w 0 32, fld w 32 32, fld w 64 32]

end Sys2Proof
end

