-- ==== Sys2Proof/Machine/Bits.lean ====
section
/-! DEFINITION. Packed sub-elements and integer arithmetic: the results of groups 0x0 to 0x2
(03: R60, R61; 04: R86 to R93), formed exactly on integers and fitted at the end. -/

namespace Sys2Proof.Machine

/-- Sub-element `k` of width `w` (03: R60). -/
def sub (w k : Nat) (v : Word) : Nat := v.toNat / 2 ^ (w * k) % 2 ^ w

/-- Places sub-elements side by side, sub-element 0 lowest. -/
def packNat (w : Nat) : List Nat → Nat
  | [] => 0
  | x :: rest => x % 2 ^ w + 2 ^ w * packNat w rest

/-- A register from its sub-elements. -/
def pack (w : Nat) (xs : List Nat) : Word := BitVec.ofNat 64 (packNat w xs)

/-- Applies a function to every sub-element index of width `w`. -/
def eachSub (w : Nat) (f : Nat → Nat) : Word := pack w ((List.range (64 / w)).map f)

/-- The low `n` bits of a number, read as two's complement. -/
def sext (n x : Nat) : Int := if x % 2 ^ n < 2 ^ (n - 1) then (x % 2 ^ n : Nat) else (x % 2 ^ n : Nat) - (2 ^ n : Nat)

/-- The low `w` bits of an integer (wrap, 03: R61). -/
def wrap (w : Nat) (z : Int) : Nat := (z % (2 ^ w : Nat)).toNat

/-- A sub-element read as its type. -/
def intVal (t : IntTy) (x : Nat) : Int := if t.signed then sext t.width x else (x % 2 ^ t.width : Nat)

def IntTy.min (t : IntTy) : Int := if t.signed then -((2 ^ (t.width - 1) : Nat) : Int) else 0
def IntTy.max (t : IntTy) : Int :=
  if t.signed then ((2 ^ (t.width - 1) : Nat) : Int) - 1 else ((2 ^ t.width : Nat) : Int) - 1

/-- The exact result fitted to its format: wrapped, or saturated with .SAT (03: R61). -/
def fit (t : IntTy) (sat : Bool) (z : Int) : Nat :=
  wrap t.width (if sat then (if z > IntTy.max t then IntTy.max t else if z < IntTy.min t then IntTy.min t else z) else z)

/-- A two-operand packed integer operation. -/
def int2 (t : IntTy) (sat : Bool) (f : Int → Int → Int) (a b : Word) : Word :=
  eachSub t.width fun k => fit t sat (f (intVal t (sub t.width k a)) (intVal t (sub t.width k b)))

/-- A three-operand packed integer operation. -/
def int3 (t : IntTy) (sat : Bool) (f : Int → Int → Int → Int) (a b x : Word) : Word :=
  eachSub t.width fun k =>
    fit t sat (f (intVal t (sub t.width k a)) (intVal t (sub t.width k b)) (intVal t (sub t.width k x)))

/-- A one-operand packed integer operation. -/
def int1 (t : IntTy) (sat : Bool) (f : Int → Int) (a : Word) : Word :=
  eachSub t.width fun k => fit t sat (f (intVal t (sub t.width k a)))

/-- floor(A B / 2^w) (04: R86). -/
def mulHigh (t : IntTy) (a b : Int) : Int := (a * b) / (2 ^ t.width : Nat)

/-- trunc(A / B); all ones for B = 0 (04: R87). -/
def divTrunc (a b : Int) : Int := if b = 0 then -1 else a.tdiv b

/-- A - B trunc(A / B); A for B = 0 (04: R87). -/
def remTrunc (a b : Int) : Int := if b = 0 then a else a - b * a.tdiv b

/-- IDOT4 (04: R89). -/
def dot4 (t : IntTy) (a b x : Word) : Word :=
  eachSub 32 fun k =>
    wrap 32 ((List.range 4).foldl
      (fun s j => s + intVal t.byteOf (sub 8 (4 * k + j) a) * intVal t.byteOf (sub 8 (4 * k + j) b))
      (intVal t (sub 32 k x)))

/-- LEA's index (04: R88). -/
def leaIndex (t : IntTy) (b : Word) : Int :=
  match t with
  | .s32 => sext 32 b.toNat
  | .u32 => (b.toNat % 2 ^ 32 : Nat)
  | _ => sext 64 b.toNat

/-- The shifts (04: R91). -/
def shlSub (w x n : Nat) : Nat := if n < w then x * 2 ^ n % 2 ^ w else 0
def shrSub (w x n : Nat) : Nat := if n < w then x % 2 ^ w / 2 ^ n else 0
def sarSub (w x n : Nat) : Nat :=
  if n < w then wrap w (sext w x / (2 ^ n : Nat)) else if sext w x < 0 then 2 ^ w - 1 else 0
def rolSub (w x n : Nat) : Nat := (x % 2 ^ w * 2 ^ (n % w) + x % 2 ^ w / 2 ^ (w - n % w)) % 2 ^ w

def popcount (w x : Nat) : Nat := ((List.range w).filter fun i => x.testBit i).length
def leadingZeros (w x : Nat) : Nat := if x % 2 ^ w = 0 then w else w - 1 - Nat.log2 (x % 2 ^ w)
def trailingZeros (w x : Nat) : Nat := ((List.range w).find? fun i => x.testBit i).getD w
def bitReverse (w x : Nat) : Nat :=
  (List.range w).foldl (fun r i => r + (if x.testBit (w - 1 - i) then 2 ^ i else 0)) 0

/-- The bit field a control value names: position and length; none when it names no bit (04: R92). -/
def bitField (w c : Nat) : Option (Nat × Nat) :=
  let pos := c % 256
  let len := c / 256 % 256
  if len = 0 ∨ w ≤ pos then none else some (pos, min len (w - pos))

/-- BFX (04: R92). -/
def bfxSub (t : IntTy) (x c : Nat) : Nat :=
  match bitField t.width c with
  | none => 0
  | some (pos, n) =>
    let f := x / 2 ^ pos % 2 ^ n
    if t.signed then wrap t.width (sext n f) else f

/-- BFI: the low bits of `x` into `y` (04: R92). -/
def bfiSub (w x y c : Nat) : Nat :=
  match bitField w c with
  | none => y % 2 ^ w
  | some (pos, n) =>
    let y := y % 2 ^ w
    y - (y / 2 ^ pos % 2 ^ n) * 2 ^ pos + (x % 2 ^ n) * 2 ^ pos

/-- Integer conditions (04: R93). -/
def intCond (c : Cond) (a b : Int) : Bool :=
  match c with
  | .eq => decide (a = b) | .ne => decide (a ≠ b) | .lt => decide (a < b) | .le => decide (a ≤ b)
  | .gt => decide (b < a) | .ge => decide (b ≤ a) | .num => true | .nan => false

/-- The bits of a mask, lane 0 first. -/
def maskOf (f : Nat → Bool) : LaneMask :=
  BitVec.ofNat 32 ((List.range 32).foldl (fun r i => r + (if f i then 2 ^ i else 0)) 0)

/-- The lowest lane of a mask. -/
def lowest (m : LaneMask) : Option Nat := (List.range 32).find? fun i => m.getLsbD i

/-- The lanes of a mask, ascending. -/
def lanesOf (m : LaneMask) : List Nat := (List.range 32).filter fun i => m.getLsbD i

end Sys2Proof.Machine
end

