-- ==== Sys2Proof/Machine/Float.lean ====
section
/-! DEFINITION. Floating point: the four formats, rounding of an exact value, the status events and the
arithmetic of groups 0x5 to 0x7 (03: R62 to R67; 05: R116 to R123). A finite value is a sign, a natural
number and a power of two, so every result is formed exactly and rounded once. -/

namespace Sys2Proof.Machine

/-- A floating-point value. -/
inductive FV where
  | nan (signalling : Bool)
  | inf (neg : Bool)
  /-- (-1)^neg m 2^e -/
  | fin (neg : Bool) (m : Nat) (e : Int)
deriving DecidableEq, Repr

/-- Status events, laid out as FSTAT (03: R67): NV DZ OF UF NX from bit 4 down. -/
abbrev Events := BitVec 5

def evNone : Events := 0
def evNX : Events := 1
def evUF : Events := 2
def evOF : Events := 4
def evDZ : Events := 8
def evNV : Events := 16

/-- A result's bits and its events. -/
abbrev FRes := Nat × Events

/-- Significand bits, hidden bit included (03: R62). -/
def prec : FTy → Nat
  | .f64 => 53 | .f32 => 24 | .bf16 => 8 | .f16 => 11
/-- The exponent of the smallest subnormal. -/
def minExp : FTy → Int
  | .f64 => -1074 | .f32 => -149 | .bf16 => -133 | .f16 => -24
/-- The exponent of the last place of the largest finite value. -/
def maxExp : FTy → Int
  | .f64 => 971 | .f32 => 104 | .bf16 => 120 | .f16 => 5

def expBits (t : FTy) : Nat := t.width - prec t
def infBits (t : FTy) : Nat := (2 ^ expBits t - 1) * 2 ^ (prec t - 1)
/-- The canonical NaN (03: R64). -/
def nanBits (t : FTy) : Nat := infBits t + 2 ^ (prec t - 2)
def signBit (t : FTy) (neg : Bool) : Nat := if neg then 2 ^ (t.width - 1) else 0
def maxBits (t : FTy) : Nat := infBits t - 1

/-- The value of a bit pattern (03: R62). -/
def fval (t : FTy) (bits : Nat) : FV :=
  let f := bits % 2 ^ (prec t - 1)
  let e := bits / 2 ^ (prec t - 1) % 2 ^ expBits t
  let neg := bits.testBit (t.width - 1)
  if e = 2 ^ expBits t - 1 then (if f = 0 then .inf neg else .nan (decide (f < 2 ^ (prec t - 2))))
  else if e = 0 then .fin neg f (minExp t)
  else .fin neg (f + 2 ^ (prec t - 1)) (minExp t + (e - 1 : Nat))

def FV.isNan : FV → Bool | .nan _ => true | _ => false
def FV.isSNan : FV → Bool | .nan s => s | _ => false
def FV.isInf : FV → Bool | .inf _ => true | _ => false
def FV.neg : FV → Bool | .nan _ => false | .inf n => n | .fin n _ _ => n
def FV.isZero : FV → Bool | .fin _ m _ => decide (m = 0) | _ => false
def FV.flip : FV → FV | .nan s => .nan s | .inf n => .inf (!n) | .fin n m e => .fin (!n) m e

/-- Bits of a natural number. -/
def bitLen (m : Nat) : Nat := if m = 0 then 0 else Nat.log2 m + 1

/-- Rounds m 2^e, or a value just above it where `sticky`, to a multiple of 2^q: the multiple and
whether it is exact (03: R65). -/
def roundAt (rm : Rnd) (neg : Bool) (m : Nat) (e q : Int) (sticky : Bool) : Nat × Bool :=
  if q ≤ e then (m * 2 ^ (e - q).toNat, !sticky)
  else
    let s := (q - e).toNat
    let n := m / 2 ^ s
    let r := m % 2 ^ s
    let half := 2 ^ (s - 1)
    let exact := decide (r = 0) && !sticky
    let up := match rm with
      | .rne => decide (half < r) || (decide (r = half) && (sticky || n.testBit 0))
      | .rna => decide (half ≤ r)
      | .rtz => false
      | .rup => !neg && !exact
      | .rdn => neg && !exact
    (if up then n + 1 else n, exact)

/-- Whether n 2^q is below k 2^p, for the magnitudes compared here. -/
def dyadicLt (n : Nat) (q : Int) (k : Nat) (p : Int) : Bool :=
  if q ≤ p then decide (n < k * 2 ^ (p - q).toNat) else decide (n * 2 ^ (q - p).toNat < k)

/-- The overflow result of a sign and mode (03: R65). -/
def overflowBits (t : FTy) (rm : Rnd) (neg : Bool) : Nat :=
  signBit t neg + match rm with
    | .rne | .rna => infBits t
    | .rtz => maxBits t
    | .rup => if neg then maxBits t else infBits t
    | .rdn => if neg then infBits t else maxBits t

/-- Rounds a nonzero exact magnitude m 2^e (or just above it) to a format, with its events (03: R65,
R67): tininess is judged after rounding. -/
def roundTo (t : FTy) (rm : Rnd) (neg : Bool) (m : Nat) (e : Int) (sticky : Bool) : FRes :=
  let q0 : Int := e + bitLen m - prec t
  let q := max q0 (minExp t)
  let (n, exact) := roundAt rm neg m e q sticky
  if dyadicLt (2 ^ prec t - 1) (maxExp t) n q then (overflowBits t rm neg, evOF ||| evNX)
  else
    let (n0, _) := roundAt rm neg m e q0 sticky
    let tiny := dyadicLt n0 q0 (2 ^ (prec t - 1)) (minExp t)
    let bits := signBit t neg + (q - minExp t).toNat * 2 ^ (prec t - 1) + n
    (bits, if exact then evNone else evNX ||| (if tiny then evUF else evNone))

/-- A signed dyadic number. -/
abbrev Dyadic := Int × Int

/-- Rounds an exact dyadic value; `zeroNeg` is the sign of an exact zero. -/
def roundDyadic (t : FTy) (rm : Rnd) (zeroNeg : Bool) (v : Dyadic) : FRes :=
  if v.1 = 0 then (signBit t zeroNeg, evNone) else roundTo t rm (decide (v.1 < 0)) v.1.natAbs v.2 false

/-- The sum of two dyadics, exactly. -/
def dyadicAdd (a b : Dyadic) : Dyadic :=
  if a.2 ≤ b.2 then (a.1 + b.1 * (2 ^ (b.2 - a.2).toNat : Nat), a.2)
  else (a.1 * (2 ^ (a.2 - b.2).toNat : Nat) + b.1, b.2)

def signed (neg : Bool) (m : Nat) : Int := if neg then -(m : Int) else m

/-- The sign of an exact zero sum of terms (03: R66): the terms' common sign, else minus in RDN. -/
def zeroSign (rm : Rnd) (terms : List FV) : Bool :=
  if terms.all FV.neg then true
  else if terms.all fun v => !v.neg then false
  else decide (rm = .rdn)

/-- The exact product of two values; none where it is 0 times infinity. -/
def mulExact (a b : FV) : Option FV :=
  match a, b with
  | .fin n m e, .fin n' m' e' => some (.fin (n ^^ n') (m * m') (e + e'))
  | .inf n, .inf n' => some (.inf (n ^^ n'))
  | .inf n, .fin n' m' _ => if m' = 0 then none else some (.inf (n ^^ n'))
  | .fin n m _, .inf n' => if m = 0 then none else some (.inf (n ^^ n'))
  | .nan s, _ => some (.nan s)
  | _, .nan s => some (.nan s)

def invalidRes (t : FTy) : FRes := (nanBits t, evNV)

/-- The sum of terms, formed exactly and rounded once (03: R77, R80; 05: R117). A none term is an
invalid product; `snan` says whether an operand was a signalling NaN. -/
def sumRound (t : FTy) (rm : Rnd) (snan : Bool) (anyNan : Bool) (terms : List (Option FV)) : FRes :=
  let nv := if snan then evNV else evNone
  if anyNan then (nanBits t, nv)
  else
    match terms.mapM id with
    | none => invalidRes t
    | some vs =>
      let posInf := vs.any fun v => v.isInf && !v.neg
      let negInf := vs.any fun v => v.isInf && v.neg
      if posInf && negInf then invalidRes t
      else if posInf then (infBits t, nv)
      else if negInf then (signBit t true + infBits t, nv)
      else
        let s := vs.foldl (fun acc v => match v with
          | .fin n m e => if m = 0 then acc else dyadicAdd acc (signed n m, e)
          | _ => acc) ((0, 0) : Dyadic)
        let r := roundDyadic t rm (zeroSign rm vs) s
        (r.1, r.2 ||| nv)

def anyNan (l : List FV) : Bool := l.any FV.isNan
def anySNan (l : List FV) : Bool := l.any FV.isSNan

def fAdd (t : FTy) (rm : Rnd) (a b : Nat) : FRes :=
  let l := [fval t a, fval t b]
  sumRound t rm (anySNan l) (anyNan l) (l.map some)

def fFma (t : FTy) (rm : Rnd) (a b x : Nat) : FRes :=
  let l := [fval t a, fval t b, fval t x]
  sumRound t rm (anySNan l) (anyNan l) [mulExact (fval t a) (fval t b), some (fval t x)]

/-- A one-term result: the shared head of R117 (05). -/
def fGuard (t : FTy) (l : List FV) (r : FRes) : FRes :=
  if anyNan l then (nanBits t, if anySNan l then evNV else evNone) else r

def fMul (t : FTy) (rm : Rnd) (a b : Nat) : FRes :=
  fGuard t [fval t a, fval t b] <|
    match mulExact (fval t a) (fval t b) with
    | some (.inf n) => (signBit t n + infBits t, evNone)
    | some (.fin n m e) => if m = 0 then (signBit t n, evNone) else roundTo t rm n m e false
    | _ => invalidRes t

def fDiv (t : FTy) (rm : Rnd) (a b : Nat) : FRes :=
  fGuard t [fval t a, fval t b] <|
    match fval t a, fval t b with
    | .inf _, .inf _ => invalidRes t
    | .inf n, .fin n' _ _ => (signBit t (n ^^ n') + infBits t, evNone)
    | .fin n _ _, .inf n' => (signBit t (n ^^ n'), evNone)
    | .fin n m e, .fin n' m' e' =>
      if m' = 0 then (if m = 0 then invalidRes t else (signBit t (n ^^ n') + infBits t, evDZ))
      else if m = 0 then (signBit t (n ^^ n'), evNone)
      else
        let k := prec t + 3 + bitLen m'
        let num := m * 2 ^ k
        roundTo t rm (n ^^ n') (num / m') (e - e' - k) (decide (num % m' ≠ 0))
    | _, _ => invalidRes t

/-- The integer square root, one bit at a time from bit `k - 1` down. -/
def isqrtFrom (n : Nat) : Nat → Nat → Nat
  | 0, r => r
  | k + 1, r => if (r + 2 ^ k) * (r + 2 ^ k) ≤ n then isqrtFrom n k (r + 2 ^ k) else isqrtFrom n k r

/-- floor of the square root. -/
def isqrt (n : Nat) : Nat := isqrtFrom n (bitLen n / 2 + 1) 0

def fSqrt (t : FTy) (rm : Rnd) (a : Nat) : FRes :=
  fGuard t [fval t a] <|
    match fval t a with
    | .fin n m e =>
      if m = 0 then (signBit t n, evNone)
      else if n then invalidRes t
      else
        -- scale to an even exponent with enough bits
        let k : Nat := 2 * prec t + 6 + (if e % 2 = 0 then 0 else 1)
        let v := m * 2 ^ k
        let r := isqrt v
        roundTo t rm false r ((e - k) / 2) (decide (r * r ≠ v))
    | .inf n => if n then invalidRes t else (infBits t, evNone)
    | .nan _ => invalidRes t

/-- 1 / A (05: R118). -/
def fRcp (t : FTy) (a : Nat) : FRes :=
  fDiv t .rne (match t with | .f64 => 0x3FF0000000000000 | .f32 => 0x3F800000 | .bf16 => 0x3F80 | .f16 => 0x3C00) a

/-- 1 / sqrt A (05: R118). -/
def fRsq (t : FTy) (a : Nat) : FRes :=
  fGuard t [fval t a] <|
    match fval t a with
    | .fin n m e =>
      if m = 0 then (signBit t n + infBits t, evDZ)
      else if n then invalidRes t
      else
        let odd := decide (e % 2 ≠ 0)
        let m := if odd then m * 2 else m
        let e := if odd then e - 1 else e
        let k := 2 * (prec t + 4 + bitLen m)
        let v := 2 ^ k / m
        let r := isqrt v
        roundTo t .rne false r (-(e / 2) - (k / 2 : Nat)) (decide (r * r * m ≠ 2 ^ k))
    | .inf n => if n then invalidRes t else (0, evNone)
    | .nan _ => invalidRes t

/-! ### FMIN, FMAX, comparisons, classes -/

/-- A sign and magnitude read as an integer that orders as the values do, -0 below +0. -/
def orderKey (t : FTy) (bits : Nat) : Int :=
  let mag := bits % 2 ^ (t.width - 1)
  if bits.testBit (t.width - 1) then -(mag : Int) - 1 else mag

/-- FMIN and FMAX (05: R119). -/
def fMinMax (t : FTy) (isMax : Bool) (a b : Nat) : FRes :=
  let va := fval t a
  let vb := fval t b
  let ev := if va.isSNan || vb.isSNan then evNV else evNone
  if va.isNan && vb.isNan then (nanBits t, ev)
  else if va.isNan then (b, ev)
  else if vb.isNan then (a, ev)
  else if decide (orderKey t a ≤ orderKey t b) ^^ isMax then (a, ev) else (b, ev)

/-- FSETP's relations (05: R94). -/
def fCond (t : FTy) (c : Cond) (a b : Nat) : Bool :=
  let mag := fun x : Nat => x % 2 ^ (t.width - 1)
  let key := fun x : Nat => if x.testBit (t.width - 1) then -(mag x : Int) else (mag x : Int)
  let un := (fval t a).isNan || (fval t b).isNan
  match c with
  | .num => !un
  | .nan => un
  | .ne => un || decide (key a ≠ key b)
  | .eq => !un && decide (key a = key b)
  | .lt => !un && decide (key a < key b)
  | .le => !un && decide (key a ≤ key b)
  | .gt => !un && decide (key b < key a)
  | .ge => !un && decide (key b ≤ key a)

/-- FCLASS's mask (05: R120). -/
def fClass (t : FTy) (a : Nat) : Nat :=
  match fval t a with
  | .inf n => if n then 2 ^ 0 else 2 ^ 7
  | .nan s => if s then 2 ^ 8 else 2 ^ 9
  | .fin n m _ =>
    if m = 0 then (if n then 2 ^ 3 else 2 ^ 4)
    else if m < 2 ^ (prec t - 1) then (if n then 2 ^ 2 else 2 ^ 5)
    else (if n then 2 ^ 1 else 2 ^ 6)

/-- FDOT2, one FP32 result (05: R121). -/
def fDot2 (t : FTy) (rm : Rnd) (a0 b0 a1 b1 x : Nat) : FRes :=
  let l := [fval t a0, fval t b0, fval t a1, fval t b1, fval .f32 x]
  sumRound .f32 rm (anySNan l) (anyNan l)
    [mulExact (fval t a0) (fval t b0), mulExact (fval t a1) (fval t b1), some (fval .f32 x)]

/-! ### Conversions (05: R122) -/

/-- Integer to float. -/
def intToFloat (t : FTy) (rm : Rnd) (z : Int) : FRes := roundDyadic t rm false (z, 0)

/-- Float to float. -/
def floatToFloat (s t : FTy) (rm : Rnd) (a : Nat) : FRes :=
  fGuard t [fval s a] <|
    match fval s a with
    | .inf n => (signBit t n + infBits t, evNone)
    | .fin n m e => if m = 0 then (signBit t n, evNone) else roundTo t rm n m e false
    | .nan _ => invalidRes t

/-- Float to integer: the low bits of the result and its events. -/
def floatToInt (s : FTy) (t : IntTy) (rm : Rnd) (a : Nat) : FRes :=
  match fval s a with
  | .nan _ => (0, evNV)
  | .inf n => (wrap t.width (if n then IntTy.min t else IntTy.max t), evNV)
  | .fin n m e =>
    let (k, exact) := roundAt rm n m e 0 false
    let z := signed n k
    if z > IntTy.max t then (wrap t.width (IntTy.max t), evNV)
    else if z < IntTy.min t then (wrap t.width (IntTy.min t), evNV)
    else (wrap t.width z, if exact then evNone else evNX)

/-! ### The FP constant table (01: R31) -/

/-- The irrational entries 0x35 to 0x3F, times 2^160, rounded down. -/
def constScaled : Nat → Nat
  | 0x35 => 4591442807048218921384805199743311128454155024418
  | 0x36 => 2295721403524109460692402599871655564227077512209
  | 0x37 => 465210419836223419549075661095612074161719036620
  | 0x38 => 930420839672446839098151322191224148323438073241
  | 0x39 => 3972773343019735188473256715552615314379418048015
  | 0x3A => 1013035739299659071135698605846798551586536899366
  | 0x3B => 2108501164428393954197770173035669514763056903505
  | 0x3C => 3365231883504527125129111981421568120141379515367
  | 0x3D => 439955831548623122774149928833172469070702221410
  | 0x3E => 2066875436943847413332748968013809022504194195829
  | _ => 1033437718471923706666374484006904511252097097914

/-- An FP constant in a format, rounded with RNE. -/
def fpConst (t : FTy) (i : Nat) : Nat :=
  if i < 0x20 then (roundTo t .rne false 1 ((i : Int) - 16) false).1
  else if i < 0x30 then (roundTo t .rne true 1 ((i : Int) - 40) false).1
  else if i = 0x30 then 0
  else if i = 0x31 then signBit t true
  else if i = 0x32 then infBits t
  else if i = 0x33 then signBit t true + infBits t
  else if i = 0x34 then nanBits t
  else (roundTo t .rne false (constScaled i) (-160) true).1

/-- A small integer in a format. -/
def fpSmall (t : FTy) (k : Int) : Nat := (intToFloat t .rne k).1

/-! ### The function ops (05: R118) -/

/-- pi 2^400 and ln 2 2^400, rounded down. -/
def piScaled : Nat := 0x3243f6a8885a308d313198a2e03707344a4093822299f31d0082efa98ec4e6c89452821e638d01377be5466cf34e90c6cc0ac
def ln2Scaled : Nat := 0xb17217f7d1cf79abc9e3b39803f2f6af40f343267298b62d8a0d175b8baafa2be7b876206debac98559552fb4afa1b10ed2e

/-- e^t as a scaled sum: terms t^k / k! from the k-th, with scale 2^400. -/
def expTerms (t : Nat) : Nat → Nat → Nat → Nat
  | 0, _, _ => 0
  | fuel + 1, k, term => term + expTerms t fuel (k + 1) (term * t / 2 ^ 400 / (k + 1))

/-- 2^A. -/
def fExp2 (t : FTy) (a : Nat) : FRes :=
  fGuard t [fval t a] <|
    match fval t a with
    | .inf n => (if n then 0 else infBits t, evNone)
    | .nan _ => invalidRes t
    | .fin n m e =>
      let one := fun z : Int => roundTo t .rne false 1 z false
      if m = 0 then one 0
      else if e + bitLen m > 20 then -- at least 2^19 in magnitude
        (if n then roundTo t .rne false (2 ^ 80) (-6000) true else roundTo t .rne false 1 6000 false)
      else if e ≥ 0 then one (signed n (m * 2 ^ e.toNat))
      else
        let s := (-e).toNat
        let z := signed n m
        let i := z / (2 ^ s : Nat)
        let f := (z % (2 ^ s : Nat)).toNat
        if f = 0 then one i
        else if e + bitLen m < -(prec t + 3 : Nat) then
          (if n then roundTo t .rne false (2 ^ 90 - 1) (-90) true else roundTo t .rne false (2 ^ 90) (-90) true)
        else
          let x := f * ln2Scaled / 2 ^ s
          roundTo t .rne false (expTerms x 110 0 (2 ^ 400)) (i - 400) true

/-- 2 atanh z as a scaled sum: z + z^3/3 + ..., with scale 2^400. -/
def atanhTerms (z2 : Nat) : Nat → Nat → Nat → Nat
  | 0, _, _ => 0
  | fuel + 1, k, term => term / (2 * k + 1) + atanhTerms z2 fuel (k + 1) (term * z2 / 2 ^ 400)

/-- log2 A. -/
def fLog2 (t : FTy) (a : Nat) : FRes :=
  fGuard t [fval t a] <|
    match fval t a with
    | .inf n => if n then invalidRes t else (infBits t, evNone)
    | .nan _ => invalidRes t
    | .fin n m e =>
      if m = 0 then (signBit t true + infBits t, evDZ)
      else if n then invalidRes t
      else
        let l := Nat.log2 m
        let i : Int := e + l
        if m = 2 ^ l then roundDyadic t .rne false (i, 0)
        else
          let z := (m - 2 ^ l) * 2 ^ 400 / (m + 2 ^ l)
          let ln := 2 * atanhTerms (z * z / 2 ^ 400) 140 0 z
          let v : Int := i * (2 ^ 400 : Nat) + (ln * 2 ^ 400 / ln2Scaled : Nat)
          roundTo t .rne (decide (v < 0)) v.natAbs (-400) true

/-- sin y / y = 1 - y^2/6 (1 - y^2/20 (...)), scaled by 2^400, from the inner term `k` outward. -/
def sincTerms (y2 : Nat) : Nat → Nat → Nat
  | 0, acc => acc
  | k + 1, acc => sincTerms y2 k (2 ^ 400 - y2 * acc / 2 ^ 400 / ((2 * (k + 1)) * (2 * (k + 1) + 1)))

/-- sin(pi m / 2^s) for 0 < m / 2^s < 1/2, rounded with a sign. -/
def sinPiRound (t : FTy) (neg : Bool) (m s : Nat) : FRes :=
  let y := m * piScaled / 2 ^ s
  let r := sincTerms (y * y / 2 ^ 400) 60 (2 ^ 400)
  roundTo t .rne neg (m * piScaled * r) (-(800 + s : Nat)) true

/-- sin(pi A). -/
def fSin (t : FTy) (a : Nat) : FRes :=
  fGuard t [fval t a] <|
    match fval t a with
    | .inf _ | .nan _ => invalidRes t
    | .fin n m e =>
      if m = 0 ∨ e ≥ 0 then (signBit t n, evNone)
      else
        let s := (-e).toNat
        let r := m % 2 ^ (s + 1)
        let neg := n ^^ decide (2 ^ s < r)
        let r := if r > 2 ^ s then r - 2 ^ s else r
        if r = 0 ∨ r = 2 ^ s then (signBit t n, evNone)
        else
          let r := if 2 * r > 2 ^ s then 2 ^ s - r else r
          if 2 * r = 2 ^ s then roundTo t .rne neg 1 0 false else sinPiRound t neg r s

/-- cos(pi A). -/
def fCos (t : FTy) (a : Nat) : FRes :=
  fGuard t [fval t a] <|
    match fval t a with
    | .inf _ | .nan _ => invalidRes t
    | .fin _ m e =>
      if m = 0 then roundTo t .rne false 1 0 false
      else if e ≥ 0 then roundTo t .rne (decide (m * 2 ^ e.toNat % 2 = 1)) 1 0 false
      else
        let s := (-e).toNat
        let r := m % 2 ^ (s + 1)
        let r := if r > 2 ^ s then 2 ^ (s + 1) - r else r
        if r = 0 then roundTo t .rne false 1 0 false
        else if r = 2 ^ s then roundTo t .rne true 1 0 false
        else if 2 * r = 2 ^ s then (0, evNone)
        else if 2 * r < 2 ^ s then sinPiRound t false (2 ^ s - 2 * r) (s + 1)
        else sinPiRound t true (2 * r - 2 ^ s) (s + 1)

/-! ### Packed application -/

/-- Applies a function of sub-elements to a register, with the union of its events. -/
def eachF (w : Nat) (f : Nat → FRes) : Word × Events :=
  let rs := (List.range (64 / w)).map f
  (pack w (rs.map (·.1)), rs.foldl (fun e r => e ||| r.2) evNone)

def flt1 (t : FTy) (f : Nat → FRes) (a : Word) : Word × Events :=
  eachF t.width fun k => f (sub t.width k a)
def flt2 (t : FTy) (f : Nat → Nat → FRes) (a b : Word) : Word × Events :=
  eachF t.width fun k => f (sub t.width k a) (sub t.width k b)
def flt3 (t : FTy) (f : Nat → Nat → Nat → FRes) (a b x : Word) : Word × Events :=
  eachF t.width fun k => f (sub t.width k a) (sub t.width k b) (sub t.width k x)

/-- FABS and FNEG (05: R119). -/
def fAbs (t : FTy) (a : Nat) : FRes := (a % 2 ^ (t.width - 1), evNone)
def fNeg (t : FTy) (a : Nat) : FRes :=
  (a % 2 ^ (t.width - 1) + signBit t (!a.testBit (t.width - 1)), evNone)

end Sys2Proof.Machine
end

