-- ==== Sys2Proof/Machine/Blocks.lean ====
section
/-! DEFINITION. K8 and K4 blocks (03: R68 to R72), the lane tree and the scans (03: R78, R79), and the
exact sums of the matrix array and of the checksum instructions (03: R80; 14: R253, R254, R258, R259). -/

namespace Sys2Proof.Machine

/-! ### K8 and K4 -/

/-- The bits of an element's magnitude field. -/
def kBits : KFmt → Nat | .k8 => 6 | .k4 => 2
def kWidth : KFmt → Nat | .k8 => 8 | .k4 => 4
/-- The offset c of the value's exponent (03: R68). -/
def kOff : KFmt → Int | .k8 => 132 | .k4 => 128

/-- The value of an element under its exponent pair, after the substitutions of R69 (03). -/
def kValue (f : KFmt) (elem e0 e1 : Nat) : FV :=
  let m := elem % 2 ^ kBits f
  let sel := elem / 2 ^ kBits f % 2
  let neg := elem.testBit (kWidth f - 1)
  let e := if sel = 0 then e0 else e1
  let e := if e = 255 then 254 else e
  .fin (neg && decide (m ≠ 0)) m ((e : Int) - kOff f)

/-- What PACKK makes of one block (03: R72): element codes, E0, E1 and events. -/
structure PackedBlock where
  elems : List Nat
  e0 : Nat
  e1 : Nat
  ev : Events
deriving DecidableEq, Repr

/-- floor(log2) of a finite nonzero value's magnitude. -/
def floorLog2 (m : Nat) (e : Int) : Int := e + Nat.log2 m

def clampNat (lo hi : Int) (z : Int) : Nat := (if z < lo then lo else if z > hi then hi else z).toNat

/-- One element of a block (03: R72). -/
def packElem (f : KFmt) (e0 e1 : Nat) (v : FV) : Nat × Events :=
  let code := fun (s : Bool) (sel m : Nat) =>
    (if s then 2 ^ (kWidth f - 1) else 0) + sel * 2 ^ kBits f + m
  let top := 2 ^ kBits f - 1
  match v with
  | .nan _ => (code false 0 0, evNV)
  | .inf s => (code s 0 top, evOF)
  | .fin s m e =>
    let at_ := fun (ex : Nat) => (roundAt .rne false m (e + kOff f - ex) 0 false).1
    let (sel, k) := if at_ e1 ≤ top then (1, at_ e1) else (0, min (at_ e0) top)
    let (s, sel) := if k = 0 then (false, 0) else (s, sel)
    let ex : Int := (if sel = 1 then e1 else e0) - kOff f
    let d := dyadicAdd (k, ex) (-(m : Int), e)
    (code s sel k, if d.1 = 0 then evNone else evNX)

/-- PACKK of one block of 32 FP32 values with selector distance `dist` (03: R72). -/
def packBlock (f : KFmt) (dist : Nat) (xs : List Nat) : PackedBlock :=
  let vs := xs.map (fval .f32)
  let qs := vs.filterMap fun v => match v with
    | .fin _ m e => if m = 0 then none else some (floorLog2 m e)
    | _ => none
  let e0 := match qs with
    | [] => 0
    | q :: rest => clampNat 0 254 (rest.foldl max q + 127)
  let e1 := e0 - dist
  let es := vs.map (packElem f e0 e1)
  ⟨es.map (·.1), e0, e1, es.foldl (fun a r => a ||| r.2) evNone⟩

/-- A finite or special value rounded to a format with RNE. -/
def roundFV (t : FTy) (v : FV) : FRes :=
  match v with
  | .nan _ => (nanBits t, evNone)
  | .inf n => (signBit t n + infBits t, evNone)
  | .fin n m e => if m = 0 then (signBit t n, evNone) else roundTo t .rne n m e false

/-! ### The lane tree -/

/-- One node of a reduction on sub-elements of a type (03: R78; 05: R130). -/
def redNode (op : RedOp) (ty : PosTy) (a b : Nat) : FRes :=
  match ty with
  | .int t =>
    match op with
    | .add => (fit t false (intVal t a + intVal t b), evNone)
    | .min => (fit t false (min (intVal t a) (intVal t b)), evNone)
    | .max => (fit t false (max (intVal t a) (intVal t b)), evNone)
    | .and => (a &&& b, evNone)
    | .or => (a ||| b, evNone)
    | .xor => (a ^^^ b, evNone)
  | .flt t =>
    match op with
    | .add => fAdd t .rne a b
    | .min => fMinMax t false a b
    | .max => fMinMax t true a b
    | .and => (a &&& b, evNone)
    | .or => (a ||| b, evNone)
    | .xor => (a ^^^ b, evNone)
  | _ => (a, evNone)

/-- The identity of an operation (03: R78). -/
def redIdentity (op : RedOp) (ty : PosTy) : Nat :=
  match ty with
  | .int t =>
    match op with
    | .add | .or | .xor => 0
    | .min => wrap t.width (IntTy.max t)
    | .max => wrap t.width (IntTy.min t)
    | .and => 2 ^ t.width - 1
  | .flt t =>
    match op with
    | .add => signBit t true
    | .min => infBits t
    | .max => signBit t true + infBits t
    | .and => 2 ^ t.width - 1
    | .or | .xor => 0
  | _ => 0

/-- Combines adjacent pairs of a level. -/
def redLevel (f : Nat → Nat → FRes) : List Nat → List FRes
  | a :: b :: rest => f a b :: redLevel f rest
  | _ => []

/-- The levels of the tree over `2^k` values, the lowest first, and the events of every node. -/
def redLevels (f : Nat → Nat → FRes) : Nat → List Nat → List (List Nat) × Events
  | 0, xs => ([xs], evNone)
  | k + 1, xs =>
    let l := redLevel f xs
    let (rest, ev) := redLevels f k (l.map (·.1))
    (xs :: rest, l.foldl (fun e r => e ||| r.2) ev)

/-- The root over `2^k` values. -/
def redRoot (f : Nat → Nat → FRes) (k : Nat) (xs : List Nat) : FRes :=
  let (ls, ev) := redLevels f k xs
  ((ls.getLastD []).headD 0, ev)

/-- The inclusive scan value of place `i` (03: R79): the nodes of the binary decomposition of i + 1. -/
def scanAt (f : Nat → Nat → FRes) (levels : List (List Nat)) (i : Nat) : Nat → Nat → Option FRes → FRes
  | 0, _, acc => acc.getD (0, evNone)
  | lv + 1, lo, acc =>
    if (i + 1).testBit lv then
      let node := (levels.getD lv []).getD (lo / 2 ^ lv) 0
      let acc := match acc with
        | none => (node, evNone)
        | some (v, e) => let r := f v node; (r.1, e ||| r.2)
      scanAt f levels i lv (lo + 2 ^ lv) (some acc)
    else scanAt f levels i lv lo acc

/-- The scan of `2^k` values: every place's inclusive value, and all events. -/
def scanAll (f : Nat → Nat → FRes) (k : Nat) (xs : List Nat) : List Nat × Events :=
  let (ls, ev) := redLevels f k xs
  let rs := (List.range (2 ^ k)).map fun i => scanAt f ls i (k + 1) 0 none
  (rs.map (·.1), rs.foldl (fun e r => e ||| r.2) ev)

/-! ### The matrix array -/

/-- The formats a tile slot's content has (14: R243). -/
inductive SlotFmt where
  | zero | bf16 | k8 | k4
deriving DecidableEq, Repr

def SlotFmt.code : SlotFmt → Nat | .zero => 0 | .bf16 => 1 | .k8 => 2 | .k4 => 3
def TileFmt.slotFmt : TileFmt → SlotFmt | .bf16 => .bf16 | .k8 => .k8 | .k4 => .k4
/-- K-steps of 32 values (14: R253). -/
def TileFmt.steps : TileFmt → Nat | .bf16 => 1 | .k8 => 2 | .k4 => 4

/-- Element k of row i of a slot (14: R244). -/
def slotElem (f : SlotFmt) (data pairs : Nat → Byte) (i k : Nat) : FV :=
  let e := fun (per : Nat) (n : Nat) => (pairs (per * i + 2 * (k / 32) + n)).toNat
  match f with
  | .zero => .fin false 0 0
  | .bf16 => fval .bf16 ((data (64 * i + 2 * k)).toNat + 256 * (data (64 * i + 2 * k + 1)).toNat)
  | .k8 => kValue .k8 (data (64 * i + k)).toNat (e 4 0) (e 4 1)
  | .k4 =>
    let b := (data (64 * i + k / 2)).toNat
    kValue .k4 (if k % 2 = 0 then b % 16 else b / 16) (e 8 0) (e 8 1)

/-- A sum of products and addends, formed exactly and rounded once to FP32, with no events
(03: R80). -/
def exactSum (terms : List (Option FV)) (addends : List FV) : Nat :=
  let l := addends ++ terms.filterMap id
  (sumRound .f32 .rne false (anyNan l) (terms ++ addends.map some)).1

/-- The products of row i of A and row j of B transposed in K-step h. -/
def stepProducts (fa fb : SlotFmt) (a ap b bp : Nat → Byte) (h i j : Nat) : List (Option FV) :=
  (List.range 32).map fun n =>
    mulExact (slotElem fa a ap i (32 * h + n)) (slotElem fb b bp j (32 * h + n))

def FV.abs : FV → FV | .nan s => .nan s | .inf _ => .inf false | .fin _ m e => .fin false m e

/-- The four checksums of one index, as MMACK keeps them (14: R245): residue and magnitude of row i,
residue and magnitude of column i. -/
structure Sums where
  rho : Nat
  rhoAbs : Nat
  gam : Nat
  gamAbs : Nat
deriving DecidableEq, Repr

/-- One K-step of MMA on element (i, j) (14: R253). -/
def mmaStep (fa fb : SlotFmt) (a ap b bp : Nat → Byte) (h i j c : Nat) : Nat :=
  exactSum (stepProducts fa fb a ap b bp h i j) [fval .f32 c]

/-- All K-steps of MMA on element (i, j). -/
def mmaElem (nk : Nat) (fa fb : SlotFmt) (a ap b bp : Nat → Byte) (i j c : Nat) : Nat :=
  (List.range nk).foldl (fun acc h => mmaStep fa fb a ap b bp h i j acc) c

/-- All K-steps of MMACK's checksums of index i (14: R254). -/
def mmackSums (nk : Nat) (fa fb : SlotFmt) (a ap b bp : Nat → Byte) (i : Nat) (s : Sums) : Sums :=
  (List.range nk).foldl (fun s h =>
    let row := (List.range 32).flatMap fun j => stepProducts fa fb a ap b bp h i j
    let col := (List.range 32).flatMap fun r => stepProducts fa fb a ap b bp h r i
    let ab := fun (l : List (Option FV)) => l.map (Option.map FV.abs)
    { rho := exactSum row [fval .f32 s.rho]
      rhoAbs := exactSum (ab row) [fval .f32 s.rhoAbs]
      gam := exactSum col [fval .f32 s.gam]
      gamAbs := exactSum (ab col) [fval .f32 s.gamAbs] }) s

/-- The sum of FP32 values minus one, exactly and rounded once, with the events of R117 (14: R258). -/
def residue (xs : List Nat) (r : Nat) : FRes :=
  let vs := xs.map (fval .f32) ++ [(fval .f32 r).flip]
  sumRound .f32 .rne (anySNan vs) (anyNan vs) (vs.map some)

/-- CKFIX's flag of a residue e against a bound m and tolerance (14: R259). -/
def flagged (tol e m : Nat) : Bool :=
  let vt := fval .f32 tol
  let ve := fval .f32 e
  let vm := fval .f32 m
  if ve.isNan || vt.isNan || vm.isNan then true
  else
    match mulExact vt vm, ve.abs with
    | none, _ => true
    | some (.inf n), .inf _ => n
    | some (.inf n), _ => n
    | some (.fin _ _ _), .inf _ => true
    | some (.fin n m e), .fin _ m' e' => decide (0 < (dyadicAdd (m', e') (-(signed n m), e)).1)
    | some (.nan _), _ => true
    | _, .nan _ => true

end Sys2Proof.Machine
end

