-- ==== Sys2Proof/Machine/State.lean ====
section
/-! DEFINITION. The state of the device: every register, table, queue and memory the manual gives it, as
plain data. A record here is one unit of the manual; INVENTORY.md names the rule of each field and its
reset value. Values the manual does not state are named in notes/assumptions. -/

namespace Sys2Proof.Machine

/-- Why a step stops. -/
inductive Fault where
  /-- A step was asked of a state in which the device does not take it: a device step (FILL_LAND to
  SEQERR_CLEAR) whose condition does not hold, or an instruction with no wave or block selected to issue
  it. Raised by the meanings of the device steps and by the shared operations `start` and `startStream`.
  Safe: no claim can be proved about a step the device does not take. -/
  | notEnabled (event : String)
deriving DecidableEq, Repr

/-- Why an instruction has no meaning. -/
inductive Refusal where
  /-- An arm of the dispatcher without a meaning, by its mnemonic. Safe. -/
  | notModelled (mnemonic : String)
deriving DecidableEq, Repr

/-- Memory: address and byte pairs, addresses strictly rising, no byte zero (an unlisted address reads
zero: log entry 4). -/
abbrev Memory := List Host.Cell

/-! ### Waves -/

/-- One register of one lane, with its tag, live bit and capability bit (01: R23; 03: R73; 04: R108). -/
structure RegCell where
  val : Word
  tag : Tag
  live : Bool
  cap : Bool
  /-- it reads as uncorrectable (08: R172; 16: R276) -/
  bad : Bool
deriving DecidableEq, Repr

/-- What a register holds that nothing has written (10: R190). -/
def RegCell.zero : RegCell := ⟨0, .raw, true, false, false⟩

/-- What an access wants of a page (21: R343). -/
inductive Acc where
  | load | store | atomic | fetch
deriving DecidableEq, Repr

/-- What a parked lane waits for (10: R203; 21: R356): the cause code, the fault address of its
sub-group's lowest lane, and its own access. -/
structure Park where
  cause : Nat
  addr : Nat
  va : Nat
  len : Nat
  acc : Acc
  perms : Nat
  /-- the lanes that parked together -/
  group : LaneMask
  issued : Nat
  reported : Bool
  /-- a lane load of the traverse engine: the engine's access and not the lane's (24: R379) -/
  scan : Bool
deriving DecidableEq, Repr

/-- An instruction a lane waits inside (08: R176; 10: R191), with what it still needs. -/
inductive Inside where
  | bar (k : Nat)
  | gbar (g : Nat)
  /-- GRED: the entry and the lane's own operand (06: R153) -/
  | gred (g : Nat) (val : Word)
  | nbwait (j : Nat)
  | mwait (timeout : Option Nat)
  | sweep
  /-- PSEND with a message that does not fit yet, PRECV with none to take (06: R155, R156) -/
  | psend (pipe : Nat) (msg : List Word)
  | precv (pipe : Nat)
  | commit
  /-- FENCE and PSYNC: until request `id` has left (06: R143, R145) -/
  | proceed (id : Nat)
  /-- an access sent to the walker (21: R351): address, length, access, operands read at issue -/
  | walk (va len : Nat) (acc : Acc) (data : List Word)
  /-- the outcome of an atomic, of a CALLB's compare and swap, or of mailbox steps, which the lane may not
  pass (06: R142; 04: R101; 25: R419) -/
  | outcome (id : Nat)
  /-- EWAIT or EDONE, with the context and data read at issue: its own counts, then the acceptance of its
  cell write, request `id` (22: R367) -/
  | endElement (id : Option Nat) (ctx : Nat) (data : Nat)
  /-- MDRAIN while the stream uses the slot (14: R260): the cohort's lowest lane, the slot, where a SAVE's
  image goes (address and confirmed pages), a LOAD's image -/
  | mdrain (lead slot : Nat) (save : Option (Nat × List Nat)) (image : List Byte)
deriving DecidableEq, Repr

/-- What holds a lane before an instruction it has not issued (10: R191; 09: R183). -/
inductive Blocked where
  | sleep (until_ : Nat)
  | grow
  | callb (line : Nat)
  | copyFull
  | join (launch : Nat)
  | ahead (j : Nat)
  | taskFull
  /-- a launch table that is being checked (17: R297) -/
  | launchCheck
  /-- an atomic of the lane's own on bytes that it would load next (16: R274) -/
  | atomic (id : Nat)
deriving DecidableEq, Repr

/-- The state of a lane (10: R191). -/
inductive Status where
  | ready
  | parked (p : Park)
  | wsync (mask : LaneMask)
  | inside (k : Inside)
  | blocked (k : Blocked)
  /-- the sweep engine has scanned the lane's element and loads it until `readyAt` (24: R373) -/
  | loading
  | exited
deriving DecidableEq, Repr

/-- A lane's line watch (06: R150). -/
structure Watch where
  line : Nat
  hit : Bool
deriving DecidableEq, Repr

/-- One thread (10: R188). -/
structure Lane where
  pc : Nat
  /-- the PC of the instruction that last transferred control (01: R14) -/
  prevPc : Nat
  preds : BitVec 7
  fstat : Events
  counts : SMap Nat
  status : Status
  /-- held while another lane's trap handler runs (17: R283) -/
  held : Bool
  /-- stopped before a safe-point instruction (01: R22) -/
  stopped : Bool
  starve : Nat
  /-- consecutive passed-over slots (09: R185) -/
  passed : Nat
  /-- NO_PROGRESS has reported the lane's cohort since its count restarted (09: R185) -/
  told : Bool
  lastIssue : Option Nat
  watch : Option Watch
  /-- the block barriers this thread has dropped (06: R152) -/
  dropped : BitVec 8
  credit : SMap Nat
  ahead : SMap Nat
  /-- the instruction the lane waits inside, as issued, and the result it owes -/
  insn : Option Instr
  owed : Option Nat
  /-- the latest acquire of scope .clu or wider (12: R220) -/
  acquired : Nat
  /-- PBARs issued (06: R144) -/
  pbars : Nat
  /-- the element the lane holds in a running sweep (24: R380) -/
  elem : Option Nat
  woken : Bool
  /-- the first cycle in which the lane may fetch and issue: after its wave's granules have moved (08: R163), after its
  engine has loaded it (24: R373) -/
  readyAt : Nat
deriving DecidableEq, Repr

/-- Where a result goes. -/
inductive Target where
  | v (n : Nat)
  | w (n : Nat)
  | p (n : Nat)
deriving DecidableEq, Repr

/-- One value of a result: lane, target, value. A predicate's value is bit 0. -/
structure RegWrite where
  lane : Nat
  target : Target
  val : Word
  tag : Tag
  cap : Bool
deriving DecidableEq, Repr

/-- A result under way (10: R204 to R206). -/
structure WriteBack where
  id : Nat
  issued : Nat
  /-- the first cycle in which it may land; none until its time is known -/
  due : Option Nat
  lanes : LaneMask
  flag : Option (Fin 12)
  flagClass : Bool
  writes : List RegWrite
deriving DecidableEq, Repr

/-- One operand-cache entry: which lanes are valid and dirty (08: R173). The value of a register is held
once, in the wave's frame: log entry 6. -/
structure CacheEntry where
  reg : Nat
  valid : LaneMask
  dirty : LaneMask
  /-- the cycle a fill in flight lands, and the lanes it fills (08: R174) -/
  fill : Option Nat
  filling : LaneMask
  /-- fills of further lanes, requested while that one was in flight: when they land, and their lanes -/
  later : List (Nat × LaneMask)
  lastUse : Nat
deriving DecidableEq, Repr

/-- A wave's running sweep (24: R380). -/
structure Sweep where
  p : Nat
  n : Nat
  word0 : Word
  word1 : Word
  entry : Nat
  lanes : LaneMask
  disp : Nat
  /-- the instruction, for its destination and flag -/
  insn : Instr
  /-- the count pass: next element, and the three counts so far -/
  counting : Option Nat
  nDone : Nat
  nAsleep : Nat
  nInvalid : Nat
  pc : Nat
  /-- the request of the fork's release, before which the engine does not begin (24: R378) -/
  fork : Nat
  /-- an engine access has been refused and is held (24: R379) -/
  faulted : Bool
  slevel : Bool
  /-- the SWEEP's own result of each sweep lane -/
  owed : List (Nat × Nat)
  /-- the cycle from which the engine acts for the sweep again (24: R373) -/
  next : Nat
deriving DecidableEq, Repr

/-- A wave (10: R188, R190). -/
structure Wave where
  tenant : Nat
  asid : Nat
  launch : Nat
  block : Nat
  number : Nat
  core : Nat
  quadrant : Nat
  slot : Nat
  resident : Bool
  retired : Bool
  frameSize : Nat
  maxframe : Nat
  mirrored : Bool
  /-- thread registers, keyed 32 reg + lane -/
  frame : SMap RegCell
  /-- wave-uniform registers -/
  wregs : SMap RegCell
  lanes : List Lane
  wbs : List WriteBack
  ocache : List CacheEntry
  -- traps (17: R283, R286, R288)
  inHandler : Bool
  level : Bool
  tepc : Word
  tlanes : LaneMask
  trec : List Word
  /-- the appendix of the current record (17: R286) -/
  tappendix : List Word
  scratch : SMap Word
  /-- the lanes as they stood when MATRIX_FREEZE or MATRIX_THAW was taken (16: R268, R270) -/
  savedLanes : List Lane
  /-- stopped under R285 (17) -/
  stoppedTrap : Bool
  /-- stopped at a BRK for a debugger (17: R293) -/
  stoppedBrk : Bool
  control : Bool
  wctlid : Word
  wctl : Word
  -- issue (10: R193 to R202)
  baseClass : Nat
  effClass : Nat
  age : Nat
  lastIssue : Option Nat
  /-- the running cohort of a fairness run, and the instructions it has issued -/
  fair : Option (LaneMask × Nat)
  /-- the cohort whose yield takes effect in the next slot -/
  yielding : Option LaneMask
  /-- cycles since a lane issued, for the kind 1 report -/
  idle : Nat
  -- switching (08: R176 to R181)
  /-- the pending pre-emption's arrival cycle -/
  preempt : Option Nat
  noSafeReported : Bool
  switchedOut : Option Nat
  /-- the checking scoreboard is on (10: R207) -/
  scoreboard : Bool
  sweep : Option Sweep
  /-- granules that the pool has granted to a GROW, and the cycle in which they have left L1 (08: R163) -/
  granted : Nat
  grantDue : Nat
  /-- the sequencer's fault has been raised in this wave (02: R59) -/
  seqTrapped : Bool
  /-- the cycle of the last trap taken at issue (10: R414) -/
  trapCyc : Option Nat
  /-- the cohort that owns this cycle's wave slot (10: R196) -/
  owner : Option LaneMask
  /-- the cohort has passed this cycle's slot on, which minimum-PC issue then gives (09: R183) -/
  slotPassed : Bool
  /-- ready lanes that the cohort of a trap at issue passes over, if no wave issues in this cycle (10: R414) -/
  passedOver : LaneMask
  /-- the cohorts a strike replay is still to issue again, in order, with their journal entries (10: R200) -/
  replay : List (Nat × LaneMask)
deriving DecidableEq, Repr

/-! ### Blocks, launches, tenants -/

/-- A block barrier (06: R152). -/
structure Barrier where
  expected : Nat
  arrived : Nat
deriving DecidableEq, Repr

/-- A tile slot (14: R243, R244): bytes keyed by position, the sideband from 2048. -/
structure Slot where
  claimed : Bool
  fmt : SlotFmt
  bytes : SMap Byte
deriving DecidableEq, Repr

def Slot.free : Slot := ⟨false, .zero, []⟩

/-- A stream word that has been issued and has not completed (14: R247). -/
structure StreamOp where
  pc : Nat
  insn : Instr
  started : Nat
  due : Nat
  /-- the wave an operation targets and what it will write (14: R246) -/
  wave : Option Nat
  writes : List RegWrite
  /-- the slot content an MFILL will write: rows, then sideband -/
  bytes : List Byte
deriving DecidableEq, Repr

/-- What the sequencer does (14: R247; 16: R267). -/
inductive SeqState where
  | none | running | frozen | stopped | ended
deriving DecidableEq, Repr

/-- A buffered store of a contained kernel, or a persist mark among them (06: R139; 13: R235). -/
inductive Buffered where
  | store (wave lane va pa : Nat) (bytes : List Byte)
  | pbar (wave lane : Nat)
deriving DecidableEq, Repr

/-- Where a block is (10: R192; 19: R319). -/
inductive BlockState where
  | waiting | reserved | resident | switchedOut | evicted | completed | faulted | killed
deriving DecidableEq, Repr

/-- A restore under way (08: R181, R182): its place among those of its core, the granules promised to it and those it has
got, when the last move begun is over, when the evictions made for it are over, and the headers still to load. -/
structure Restore where
  order : Nat
  need : Nat
  got : Nat
  next : Nat
  after : Nat
  headers : Nat
deriving DecidableEq, Repr

/-- A block (10: R189). -/
structure Block where
  launch : Nat
  index : Nat
  state : BlockState
  core : Nat
  waves : List Nat
  barriers : SMap Barrier
  arr : SMap Nat
  /-- before which requests the latest arrival of each barrier releases its wave's accesses (06: R154) -/
  arrIds : SMap Nat
  marr : SMap Nat
  slots : SMap Slot
  seq : SeqState
  seqPc : Nat
  /-- the words before this address are issued again before the stream freezes (16: R275) -/
  redo : Option Nat
  seqOps : List StreamOp
  /-- the address, words and reason or detail of a word the sequencer stopped at -/
  seqFault : Option (List Word)
  seqSave : SMap Word
  relTiles : Bool
  frozenTrapped : Bool
  thaw : Bool
  scratch : SMap Byte
  commit : List Buffered
  /-- the commit drain under way: its writes -/
  drain : Option (List Nat)
  exitDrained : Bool
  /-- an atomic, copy, message, mailbox instruction or unbuffered store since the last COMMIT (16: R278) -/
  effects : Bool
  relaunched : Bool
  faultMark : Bool
  /-- granules held, by region (08: R162) -/
  gScratch : Nat
  gTiles : Nat
  gCommit : Nat
  gWaves : Nat
  outSince : Nat
  /-- the address of the first image of an evicted block in its tenant's save area -/
  evictedTo : Option Nat
  /-- an eviction whose images leave one after another: how many, and from when on (08: R182) -/
  leaving : Option (Nat × Nat)
  /-- an eviction of the block has failed, and POOLSAVE has not been written since -/
  evictFailed : Bool
  restore : Option Restore
  /-- a contained block has consumed this unit (kind and location) and is killed before anything else (16: R276) -/
  doomed : Option (Nat × Nat)
deriving DecidableEq, Repr

/-- A pipe binding (19: R310). -/
structure PipeBind where
  index : Nat
  recv : Bool
  caplog : Nat
  symbol : Nat
deriving DecidableEq, Repr

/-- A group record (19: R310). -/
structure GroupRec where
  entry : Nat
  wfirst : Nat
  wlast : Nat
  block : Nat
deriving DecidableEq, Repr

/-- A cartouche (19: R310). -/
structure Cartouche where
  addr : Nat
  tenant : Nat
  object : Nat
  compat16 : Bool
  progOff : Bool
  forerunner : Bool
  idempotent : Bool
  contained : Bool
  mirror : Bool
  checkstall : Bool
  role : Nat
  entry : Nat
  waves : Nat
  frame : Nat
  maxframe : Nat
  scratchG : Nat
  tiles : Nat
  commitG : Nat
  ncap : Nat
  mstream : Nat
  groups : List GroupRec
  mboxn : Nat
  gangsym : Nat
  pipes : List PipeBind
deriving DecidableEq, Repr

/-- A launch (17: R296 to R299). -/
structure Launch where
  id : Nat
  tenant : Nat
  cart : Cartouche
  bx : Nat
  by_ : Nat
  bz : Nat
  asid : Nat
  prio : Nat
  nojoin : Bool
  rect : Option (Nat × Nat)
  args : Word
  caps : List (Word × Word)
  /-- the first launch id of its gang -/
  gang : Option Nat
  made : Nat
  completed : Nat
  faulted : Nat
  killed : Nat
  relaunched : Nat
  ended : Bool
  /-- every block has ended, and the launch's end waits for these writes (17: R299) -/
  ending : Option (List Nat)
  known : Bool
  mbox : Nat
  /-- the cluster of a task that waits for earlier tasks (17: R300) -/
  task : Option Nat
  regions : List (Nat × Nat × Bool)
  debugger : Bool
  /-- the debug service has turned the checking scoreboard on (10: R207) -/
  scoreboard : Bool
  /-- pre-empted by WCTL: blocks not yet placed are not offered, and waves switched out stay out (17: R290) -/
  preempted : Bool
  stayOut : Bool
  /-- pre-empted by R320 (19) -/
  displaced : Bool
  /-- the cluster its placement begins with (19: R317) -/
  home : Nat
  /-- the entry is freed once every LJOIN that waited for the end has completed: waves and lanes (17: R299) -/
  freeing : Bool
  waiters : List (Nat × LaneMask)
deriving DecidableEq, Repr

/-- A pipe of a gang (19: R321), which its first launch id names. -/
structure Pipe where
  tenant : Nat
  gang : Nat
  symbol : Nat
  capacity : Nat
  msgs : List (List Word)
  /-- the launch of the producer that poisoned it -/
  poison : Option Nat
deriving DecidableEq, Repr

/-- A group-table entry in use: arrivals made, by wave, and a GRED's contributions (06: R153). -/
structure GroupState where
  launch : Nat
  entry : Nat
  /-- waves that have arrived at the instance under way, with a GRED's root sub-elements and events -/
  arrived : List (Nat × List Nat × Events)
deriving DecidableEq, Repr

/-- A report ring (17: R287, R289). -/
structure Ring where
  base : Nat
  rfault : Bool
  log2n : Nat
  asid : Nat
deriving DecidableEq, Repr

def Ring.off : Ring := ⟨0, false, 0, 0⟩

/-- A tenant (17: R288; 19: R315; 20: R332 to R334). -/
structure Tenant where
  live : Bool
  asids : List Nat
  tvec : Word
  ctlq : Ring
  flog : Ring
  waitrep : Bool
  wdlog : Nat
  poolsaveBase : Nat
  poolsaveSize : Nat
  recbase : Nat
  qmax : SMap Nat
  floors : SMap Nat
  nextLaunch : Nat
  keys : SMap Nat
  partitions : List Nat
  partitionOf : SMap Nat
  frames : List Nat
  /-- loaded objects: base, the number of the translation, the file -/
  objects : List (Nat × Nat × List Byte)
  ctlCart : Nat
  ctlWave : Option Nat
  /-- service and bind rings, and the heads the chart core has reached (19: R314; 20: R334) -/
  svcRing : Ring
  bindRing : Ring
  svcHead : Nat
  bindHead : Nat
deriving DecidableEq, Repr

/-! ### Requests and memory traffic -/

/-- A report or trap record's 16 words, and its appendix (17: R286). -/
structure Record where
  words : List Word
  appendix : List Word
deriving DecidableEq, Repr

/-- The operations of an atomic (06: R140). -/
inductive AtomOp where
  | add | smin | smax | umin | umax | and | or | xor | exch | fadd | cas
deriving DecidableEq, Repr

/-- Who issued a durable store, for the orders of R232 (13). -/
structure DurTag where
  wave : Nat
  lane : Nat
  epoch : Nat
deriving DecidableEq, Repr

/-- One lane's step of a mailbox instruction (25: R387): its operands a, b, x, the capability words of MBBIND,
the confirmed pages of its buffer, and the result it owes. -/
structure MbStep where
  lane : Nat
  mb : Nat
  va : Nat
  x : Word
  cap : Option (Word × Word)
  pas : List Nat
  wb : Nat
deriving DecidableEq, Repr

/-- What a request asks for once it leaves its core (06: R132; 16: R274). -/
inductive ReqKind where
  | store (pa : Nat) (bytes : List Byte) (dur : DurTag)
  | scratchStore (block off : Nat) (bytes : List Byte)
  | atomic (op : AtomOp) (pa n : Nat) (x y : Word) (scope : Scope) (wb : Nat) (dur : DurTag)
  /-- the compare and swap of a CALLB: address in memory, its virtual address, the cell it read, and every
  waiting lane with the address and the cell it read (04: R101) -/
  | callb (pa va : Nat) (cell : Word) (cells : List (Nat × Nat × Word))
  | copy (desc obj wb : Nat)
  | message (pipe : Nat) (msg : List Word) (wb : Nat)
  | drain
  | arrive (entry : Nat) (root : List Nat) (ev : Events)
  /-- FENCE: the lanes proceed when the request's release and acquire are complete -/
  | fence
  /-- the FENCE.ACQREL.BLK of the threads that a block barrier has released: waves and lanes (06: R152) -/
  | barFence (group : List (Nat × LaneMask))
  | psync (seq : Word)
  | report (toFlog : Bool) (r : Record)
  /-- a report to a tenant that no instruction raised, so that no rewind discards it (17: R287) -/
  | notice (tenant : Nat) (toFlog : Bool) (r : Record)
  /-- LAUNCH, and LAUNCHG with its count, and the level of the wave (17: R297) -/
  | launch (desc : Nat) (count : Option Nat) (slevel : Bool) (wb : Nat)
  /-- TASK: its regions as base, length, written, its capabilities, and the level of the wave (17: R300) -/
  | task (desc : Nat) (regions : List (Nat × Nat × Bool)) (caps : List (Word × Word)) (slevel : Bool) (wb : Nat)
  /-- EWAIT and EDONE: the element's new context and data words (22: R367) -/
  | cell (elem : Nat) (ctx : Nat) (data : Nat)
  /-- the decrement of a kind 1 sleeper (24: R373) -/
  | decrement (elem : Nat)
  | wake (w0 w1 : Word) (elem : Nat) (wb : Nat)
  | mailbox (insn : Instr) (steps : List MbStep)
deriving DecidableEq, Repr

/-- A request that ages in its quadrant (06: R132), with the release and acquire it carries: its scopes,
how far they have come, and the writes they wait for (12: R221). -/
structure Request where
  id : Nat
  wave : Nat
  lanes : LaneMask
  core : Nat
  issued : Nat
  rel : Option Scope
  acq : Option Scope
  /-- 0 the lanes' own accesses; 1 the writes of the core's and die's views; 2 durable writes; 3 complete -/
  stage : Nat
  ids : List Nat
  kind : ReqKind
  /-- the flag that the access sets, and the flags its instruction waited on (12: R218) -/
  flag : Option (Fin 12)
  wait : BitVec 12
deriving DecidableEq, Repr

/-- A write that has left a core and that L2 has not accepted (12: R219). -/
structure CoreWrite where
  id : Nat
  core : Nat
  pa : Nat
  bytes : List Byte
  due : Nat
  dur : Option DurTag
deriving DecidableEq, Repr

/-- A write on the die link, with the sender's clock at entry (12: R225). -/
structure LinkWrite where
  id : Nat
  toDie : Nat
  pa : Nat
  bytes : List Byte
  clock0 : Nat
  clock1 : Nat
  due : Nat
  dur : Option DurTag
  /-- the wave and result of an atomic of the far die that this write completes (12: R223) -/
  result : Option (Nat × Nat)
deriving DecidableEq, Repr

/-- An atomic that has left its core (12: R223): the CAS of a CALLB keeps its cell and waiting lanes. -/
structure AtomicFlight where
  id : Nat
  wave : Nat
  lane : Nat
  core : Nat
  op : AtomOp
  pa : Nat
  n : Nat
  x : Word
  y : Word
  scope : Scope
  wb : Nat
  due : Nat
  callb : Option (Nat × Word × List (Nat × Nat × Word))
  dur : DurTag
  /-- a CALLB's outcome, until its write has been applied in the thread's die (12: R223) -/
  outcome : Option Bool
  /-- the flag that its instruction sets, and the flags it waited on (12: R218) -/
  flag : Option (Fin 12)
  wait : BitVec 12
deriving DecidableEq, Repr

/-- A durable write on its way to its controller (13: R231), or a PSYNC's record: its wave and sequence (13: R236). -/
structure DurableWrite where
  id : Nat
  stack : Nat
  pa : Nat
  bytes : List Byte
  due : Nat
  dur : Option DurTag
  psync : Option (Nat × Word)
deriving DecidableEq, Repr

/-- Bytes that a controller has accepted and not yet written to media (13: R237); a sequence record has a size and no
address. -/
structure Accepted where
  stack : Nat
  pa : Nat
  bytes : List Byte
  size : Nat
deriving DecidableEq, Repr

/-- The outcome of a CALLB's compare and swap: when it returned, its request, the wave, the lane whose cell it was, the
cell's address, what it read, and the waiting lanes with their cells (04: R101). -/
structure CasOutcome where
  cyc : Nat
  id : Nat
  wave : Nat
  lane : Nat
  va : Nat
  cell : Word
  cells : List (Nat × Nat × Word)
  won : Bool
deriving DecidableEq, Repr

/-- A leaf of the page tables (21: R342). -/
structure Page where
  asid : Nat
  va : Nat
  /-- bytes: 4 KiB, 64 KiB, 2 MiB or 1 GiB -/
  size : Nat
  r : Bool
  w : Bool
  x : Bool
  u : Bool
  g : Bool
  sw : Bool
  res : Nat
  /-- 0 device memory, 1 host, 2 remote -/
  kind : Nat
  pa : Nat
  dev : Nat
  disc : Option Nat
  /-- the old frame of a migration in progress and the line offsets still to pull -/
  mig : Option (Nat × List Nat)
  /-- the shared frame of a private copy (21: R360) -/
  orig : Option Nat
deriving DecidableEq, Repr

/-- A cached line (21: R345): in the L1 of a core or the L2 of a die, with its filling translation. -/
structure Line where
  l1 : Bool
  unit : Nat
  va : Nat
  /-- the tag ASID, 0 for a global line -/
  asid : Nat
  tenant : Nat
  pa : Nat
  r : Bool
  w : Bool
  x : Bool
  u : Bool
  sw : Bool
  res : Nat
  kind : Nat
  rrpv : Nat
  way : Nat
  pinned : Bool
  filled : Nat
  /-- an L1 line's copy of the core view -/
  copy : SMap Byte
deriving DecidableEq, Repr

/-- A copy the engine has accepted (06: R146, R147). -/
structure Copy where
  wave : Nat
  core : Nat
  asid : Nat
  slevel : Bool
  desc : List Word
  obj : Nat
  start : Nat
  /-- rows copied, and the cause and address of what has stopped the copy (06: R148) -/
  done : Nat
  fault : Option (Nat × Nat)
  /-- once its last row is written: the writes that the other die must have applied before the completion object is
  written (06: R146; 12: R221) -/
  ids : Option (List Nat)
deriving DecidableEq, Repr

/-- One watch register of a traverse engine (24: R377). -/
structure WatchReg where
  slot : Nat
  tenant : Nat
  wave : Nat
  word0 : Word
  word1 : Word
  entry : Nat
  line : Nat
  hit : Bool
  slevel : Bool
  asid : Nat
deriving DecidableEq, Repr

/-- A waiting request of a core's pool queue (08: R166). -/
structure PoolReq where
  id : Nat
  rank : Nat
  tenant : Nat
  n : Nat
  /-- the wave of a GROW.WAIT, the block of a restore, or the launch of a placement with its linear block
  index -/
  who : Nat
  blk : Nat
deriving DecidableEq, Repr

/-- One instruction's journal entry: the wave and its block as they were before it (16: R273). -/
structure JEntry where
  id : Nat
  cyc : Nat
  waveIx : Nat
  /-- the cohort that issued; empty for an entry that only keeps the wave as it was -/
  lanes : LaneMask
  wave : Wave
  block : Option Block
  /-- granules a SHRINK gives back when it ages out (04: R106) -/
  granules : Nat
deriving DecidableEq, Repr

/-- A stream word's journal entry: the block as it was before it (16: R275). -/
structure SeqEntry where
  id : Nat
  cyc : Nat
  blockIx : Nat
  block : Block
deriving DecidableEq, Repr

/-- A result that landed in the last 128 cycles, which a replay keeps (16: R273). -/
structure Landed where
  cyc : Nat
  waveIx : Nat
  wb : WriteBack
deriving DecidableEq, Repr

/-! ### Mailboxes, episodes, groups -/

/-- A mailbox (25: R382). -/
structure Mailbox where
  phase : Nat
  step : Nat
  aver : Nat
  group : Nat
  termStale : Bool
  target : Option (Word × Word × Nat)
  binder : Nat
  /-- the level of the wave that bound it (24: R416) -/
  slevel : Bool
  /-- tenant and launch id -/
  owner : Option (Nat × Nat)
  action : SMap Byte
  obs : SMap Byte
  seqErr : Bool
  /-- the per-step counter (27: R406) -/
  counter : Nat
deriving DecidableEq, Repr

def Mailbox.unbound : Mailbox := ⟨6, 0, 0, 0, false, none, 0, false, none, [], [], false, 0⟩

/-- An episode (27: R396 to R408). -/
structure Episode where
  /-- 0 free, 1 creating, 2 live, 3 ended -/
  state : Nat
  tenant : Nat
  reason : Nat
  core : Nat
  firstMb : Nat
  nmb : Nat
  wsize : Nat
  wbase : Nat
  stepLim : Nat
  deadline : Nat
  created : Nat
  exitCode : Word
  /-- 0 runnable, 1 waiting for an action -/
  waiting : Bool
  used : Nat
  pc : Word
  /-- integer registers a0, a1, sp as creation sets them, and all others -/
  regs : SMap Word
  cycles : Nat
  instret : Nat
deriving DecidableEq, Repr

def Episode.free : Episode := ⟨0, 0, 0, 0, 0, 0, 0, 0, 0, 0, 0, 0, false, 0, 0, [], 0, 0⟩

/-- A wake, or the rest of a wake scan: the tensor, the elements from `first`, the kind and argument they must have, and
the result of an EWAKE. It is held where an access refused it (24: R379); a scan goes on at its cycle `due` (24: R377). -/
structure HeldWake where
  w0 : Word
  w1 : Word
  n : Nat
  asid : Nat
  slevel : Bool
  tenant : Nat
  first : Nat
  count : Nat
  only : Option (Nat × Nat)
  result : Option (Nat × Nat)
  due : Option Nat
deriving DecidableEq, Repr

/-- A device group's membership table (20: R328). -/
structure Group where
  g : Nat
  members : List Nat
  epoch : Nat
deriving DecidableEq, Repr

/-- A collective window (20: R329). -/
structure CollWindow where
  tenant : Nat
  asid : Nat
  base : Nat
  len : Nat
  g : Nat
  op : RedOp
  bf16 : Bool
  mean : Bool
  dst : Nat
  /-- instances begun -/
  next : Nat
deriving DecidableEq, Repr

/-- A collective request a CPY made (20: R329, R331). -/
structure Collective where
  g : Nat
  k : Nat
  window : Nat
  copy : Copy
  /-- members whose contribution counts, in rank order -/
  members : List Nat
  epoch : Nat
  shrunk : Bool
deriving DecidableEq, Repr

/-- An armed register injection (15: R262). -/
structure Injection where
  /-- the cycle in which it was applied -/
  applied : Nat
  /-- launch, block and wave number as armed, and the wave once it has started -/
  target : Nat × Nat × Nat
  wave : Option Nat
  lane : Nat
  reg : Nat
  bit : Nat
  pc : Nat
  ecc : Bool
  tenant : Nat
  /-- 0 armed, 1 done, 2 lapsed, 3 applied in ECC mode and not yet read -/
  done : Nat
  /-- the bit lay in an entry of the operand cache when it was inverted, and that entry was dirty in the lane -/
  cached : Bool
  dirty : Bool
deriving DecidableEq, Repr

/-- A recovery-table entry of a running launch and its sequence records (13: R241, R242). -/
structure RecoveryEntry where
  tenant : Nat
  launch : Nat
  entry : Nat
  asid : Nat
  bx : Nat
  by_ : Nat
  bz : Nat
  waves : Nat
  overflow : Bool
  /-- block, wave, retired, sequence -/
  records : List (Nat × Nat × Bool × Word)
deriving DecidableEq, Repr

/-- The result of a service or management command: words that the requester reads (20: R334). -/
structure Answer where
  tenant : Nat
  op : Nat
  status : Nat
  result : Word
  more : List Word
deriving DecidableEq, Repr

/-- The power of the module (13: R238; 20: R338, R339). -/
inductive Power where
  | on | failed | drained | off
deriving DecidableEq, Repr

/-! ### The device -/

/-- The whole machine: every piece of state that the manual names. -/
structure State where
  cyc : Nat
  waves : List Wave
  blocks : List Block
  launches : List Launch
  carts : List Cartouche
  tenants : SMap Tenant
  pipes : List Pipe
  groupStates : List GroupState
  /-- offer queues are the launches themselves: of each cluster, the head that waits (its place in `launches`
  plus one) and since when (19: R317, R320) -/
  headSince : SMap (Nat × Nat)
  /-- task tables: launches by index, in the order they were entered, per cluster (17: R300) -/
  tasks : SMap (List Nat)
  -- memory
  view0 : Memory
  view1 : Memory
  /-- each die's own last write of a byte, counted in its clock (12: R226) -/
  own0 : SMap Nat
  own1 : SMap Nat
  /-- writes of each die that each die has applied (12: R225) -/
  clock00 : Nat
  clock01 : Nat
  clock10 : Nat
  clock11 : Nat
  reqs : List Request
  coreWrites : List CoreWrite
  linkWrites : List LinkWrite
  atomics : List AtomicFlight
  durQueue : List DurableWrite
  /-- writes of host memory that the host has not accepted: identifier, and when it does (12: R221) -/
  hostQueue : List (Nat × Nat)
  /-- lines that a write has reached at .dev visibility in this cycle (06: R150) -/
  shown : List Nat
  media : Memory
  /-- what the media themselves hold, without the controllers' buffers (13: R240) -/
  mediaOld : Memory
  /-- what the controllers have accepted and not yet written to media, oldest first (13: R237) -/
  accepted : List Accepted
  wbmax : Nat
  holdupNs : Nat
  pages : List Page
  lines : List Line
  /-- migrations that wait for pinned lines: tenant and request (21: R358) -/
  deferred : List (Nat × SvcReq)
  framesUsed : List Nat
  retiredFrames : List Nat
  -- cores
  poolQueue : SMap (List PoolReq)
  fencedGranules : SMap Nat
  copies : SMap (List Copy)
  watchRegs : SMap (List WatchReg)
  /-- pre-emption requests under way to a core: arrival cycle and launch (08: R182) -/
  preempts : List (Nat × Nat × Nat)
  /-- fills and spills that each core's fill/spill engine has started in this cycle (08: R174) -/
  engineUsed : SMap Nat
  /-- cores that have written or loaded a wave's header in this cycle (08: R182) -/
  headersUsed : List Nat
  /-- when each core's evictions are over (08: R182) -/
  evictFree : SMap Nat
  -- device
  heldWakes : List HeldWake
  mailboxes : SMap Mailbox
  episodes : SMap Episode
  /-- run queues of the field cores (27: R402) -/
  runQueues : SMap (List Nat)
  groups : List Group
  windows : List CollWindow
  collectives : List Collective
  injections : List Injection
  /-- units fused off: kind (0 core, 1 quadrant, 2 field core, 3 L2 slice, 4 HBM stack, 5 durable stack, 6 port) and number
  (00: R2; 20: R337) -/
  absent : List (Nat × Nat)
  /-- until when each tenant's launch table is being checked (17: R297) -/
  checking : SMap Nat
  raspol : BitVec 4
  fenced : List (Nat × Nat)
  /-- ways of L2 that are disabled: die, set and way (16: R280) -/
  l2Off : List (Nat × Nat × Nat)
  /-- units that read as uncorrectable: unit kind and location (16: R276; 17: R286) -/
  marked : List (Nat × Nat)
  journal : List JEntry
  seqJournal : List SeqEntry
  landed : List Landed
  /-- outcomes of CALLBs that a replay delivers again (04: R101) -/
  outcomes : List CasOutcome
  /-- messages received in the window: cycle of issue, wave, pipe, message -/
  taken : List (Nat × Nat × Nat × List Word)
  recovery : List RecoveryEntry
  epoch : Nat
  pfcyc : Nat
  clean : Bool
  incomplete : Bool
  power : Power
  powerCap : Nat
  thermal : Bool
  chartLog : List Record
  answers : List Answer
  /-- the last value a host read returned (12: R229) -/
  hostData : List Byte
  gazetteer : SMap (List Word)
  gazetteerSeq : SMap Nat
  -- the model's own (log entries 1 and 2)
  cur : Nat
  curLanes : LaneMask
  curBlock : Nat
  inputs : List (Nat × Instr)
  fresh : Nat
  issuedQ : List Nat
deriving DecidableEq, Repr

/-- The machine right after module reset (20: R337, R338): nothing loaded, no tenant, memory empty. -/
def State.reset : State :=
  { cyc := 0, waves := [], blocks := [], launches := [], carts := [], tenants := [], pipes := []
    groupStates := [], headSince := [], tasks := [], view0 := [], view1 := [], own0 := [], own1 := []
    clock00 := 0, clock01 := 0, clock10 := 0, clock11 := 0, reqs := [], coreWrites := [], linkWrites := []
    atomics := [], durQueue := [], hostQueue := [], shown := [], media := [], mediaOld := [], accepted := []
    wbmax := 67108864, holdupNs := 2000000, pages := [], lines := [], deferred := [], framesUsed := []
    retiredFrames := [], poolQueue := [], fencedGranules := [], copies := [], watchRegs := [], preempts := []
    engineUsed := [], headersUsed := [], evictFree := [], heldWakes := [], mailboxes := [], episodes := []
    runQueues := [], groups := [], windows := [], collectives := [], injections := [], absent := []
    checking := [], raspol := 0, fenced := [], l2Off := [], marked := [], journal := [], seqJournal := []
    landed := [], outcomes := [], taken := [], recovery := [], epoch := 1, pfcyc := 0, clean := true
    incomplete := false, power := .on, powerCap := 0, thermal := false, chartLog := [], answers := []
    hostData := [], gazetteer := [], gazetteerSeq := [], cur := 0, curLanes := 0, curBlock := 0, inputs := []
    fresh := 0, issuedQ := [] }

end Sys2Proof.Machine
end

