-- ==== Sys2Proof/Machine/Flags.lean ====
section
/-! DEFINITION. The flags of a lane: its predicates (01: R17; 04: R83) and the twelve counts of results under way
(01: R19). The status events of floating point (03: R67) are bits that Float.lean computes and that an issue ORs
into FSTAT. -/

namespace Sys2Proof.Machine

/-! ### Predicates -/

/-- p7 reads 1 (01: R17). -/
def Lane.pred (l : Lane) (n : Nat) : Bool := if n = 7 then true else l.preds.getLsbD n
/-- A write of p7 is discarded (04: R83). -/
def Lane.setPred (l : Lane) (n : Nat) (b : Bool) : Lane :=
  if n < 7 then { l with preds := BitVec.ofNat 7 ((l.preds.toNat &&& (127 - 2 ^ n)) ||| (if b then 2 ^ n else 0)) } else l

/-! ### Counts -/

/-- Results of a flag that a lane still waits for. -/
def Lane.count (l : Lane) (n : Nat) : Nat := SMap.get 0 l.counts n
def Lane.bumpCount (l : Lane) (f : Option (Fin 12)) : Lane :=
  match f with
  | none => l
  | some n => { l with counts := SMap.set 0 l.counts n.val (l.count n.val + 1) }
def Lane.dropCount (l : Lane) (f : Option (Fin 12)) : Lane :=
  match f with
  | none => l
  | some n => { l with counts := SMap.set 0 l.counts n.val (l.count n.val - 1) }
def Lane.countsZero (l : Lane) : Bool := l.counts.isEmpty

end Sys2Proof.Machine
end

