-- ==== Sys2Proof/Config.lean ====
section
/-! DEFINITION. What an implementation fixes and the manual leaves open. Every value here is an opaque
constant with no body: nothing proved in Lean can rest on a value of it (log entry 2). -/

namespace Sys2Proof.Config

/-- Until when a core's L1 copy of line `n`, filled at a cycle, serves loads: reuse distance and eviction decide
(12: R220). -/
opaque copyUntil : Nat → Nat → Nat → Nat
/-- Cycles beyond the minimum of R410 (10), for the n-th time the device chooses one. -/
opaque freeDelay : Nat → Nat
/-- A free choice of the L2 slice and set of a line address (21: R345). -/
opaque l2Set : Nat → Nat
/-- The way mask that the chart core sets for a partition, 1 to 31, in a slice of L2, 0 to 255 (21: R350). -/
opaque partitionMask : Nat → Nat → BitVec 24
/-- The bits a sensor of telemetry item `i` shows at the n-th reading (20: R336). -/
opaque telemetry : Nat → Nat → Word
/-- Byte `k` of the digests of the boot ROM, the chart firmware, the field firmware and the translator, 64 bytes each
(20: R335). -/
opaque measurement : Nat → Byte
/-- The serial number of the module (20: R335). -/
opaque serialNumber : List Byte
/-- The 32 bytes of the module's private device key (20: R335). -/
opaque deviceKey : Nat → Byte
/-- Under a power cap, a quadrant, as 4 core + quadrant, skips the issue cycle of a value of CYC (20: R339). -/
opaque capSkips : Nat → Nat → Bool
/-- Byte `k` of gazetteer entry bodies that name the part, its vendor and its certificates (20: R333). -/
opaque gazetteerByte : Nat → Nat → Byte

/-- The pool granule that holds granule `g` of the frame of wave `w` (08: R168). -/
opaque granule : Nat → Nat → Nat
/-- A line's place in L1 is in a granule that the n-th grant takes (08: R163; 21: R345). -/
opaque leavesL1 : Nat → Nat → Bool
/-- Byte `a` of another device's memory at the n-th reading (20: R326). -/
opaque remoteByte : Nat → Nat → Nat → Byte
/-- Byte `k` of the n-th image byte run that the layouts of 08: R168 and R169 and of 14: R244 do not name. -/
opaque imageByte : Nat → Nat → Byte
/-- Byte `k` of what a granule holds after the n-th test with patterns (16: R280). -/
opaque lostByte : Nat → Nat → Byte
/-- The pool granule that holds granule `index` of a region (by its unit kind) of block `b`. -/
opaque regionGranule : Nat → Nat → Nat → Nat
/-- Byte `k` of the n-th observation that an environment posts (27: R404). -/
opaque obsByte : Nat → Nat → Byte
/-- Which 64-byte lines reached the durable media before a drain that did not finish (13: R240). -/
opaque lineReached : Nat → Nat → Bool

/-- Bytes of the failing row of a faulted copy that have been written (06: R148). -/
opaque partRow : Nat → Nat
/-- The order in which the n-th unit that a copy writes byte by byte is written (12: R214). -/
opaque byteOrder : Nat → List Nat
/-- This device's number in its group (20: R333). -/
opaque deviceNumber : Nat
/-- Which of the fields DST, ROWBYTES, ROWS, DSTRIDE and its flags another member gives otherwise in instance `k` of a window of
group `g`; none where all agree (20: R329). -/
opaque disagrees : Nat → Nat → Nat → Option Nat
/-- Element `i` of device `d`'s source in the n-th collective instance, in FP32 (20: R329). -/
opaque contribution : Nat → Nat → Nat → BitVec 32

/-- The load that the translator makes, for the n-th time, for a name that no loaded object defines: the words of its
request; none where it knows of no such object (19: R314). -/
opaque objectFor : Nat → String → Option (List Word)
/-- Byte `k` of what the n-th translation makes of an object's words (19: R313). -/
opaque translatedByte : Nat → Nat → Byte
/-- How many bytes the n-th translation writes (19: R313). -/
opaque translatedSize : Nat → Nat
/-- Where the n-th translation places an address of its file, as an offset in the destination (19: R313). -/
opaque translatedPlace : Nat → Nat → Nat
/-- How far behind `.rodata` the n-th translation places its k-th cartouche, in units of 64 bytes (19: R313). -/
opaque cartouchePlace : Nat → Nat → Nat
/-- Nanoseconds of hold-up beyond 2 ms, as each power-up measures it (13: R237). -/
opaque holdupExtra : Nat → Nat

/-- The device groups and their members that power-up forms (20: R338). -/
opaque formedGroups : List (Nat × List Nat)

end Sys2Proof.Config
end

