-- ==== Sys2Proof/Machine/Memory.lean ====
section
/-! DEFINITION. Memory: bytes, the two die views and the die link, durable writes, page tables, cached lines
and the translation of an access (12: R219 to R226; 13: R231; 21: R340 to R352). -/

namespace Sys2Proof.Machine

/-! ### Bytes -/

def Memory.get (m : Memory) (a : Nat) : Byte := SMap.get 0 m a
def Memory.set (m : Memory) (a : Nat) (b : Byte) : Memory := SMap.set 0 m a b
/-- The canonical form of a memory. -/
def Memory.wf (m : Memory) : Bool := SMap.wf (0 : Byte) m

/-- The `n` bytes from an address. -/
def Memory.read (m : Memory) (a n : Nat) : List Byte := (List.range n).map fun i => Memory.get m (a + i)
/-- Writes bytes from an address upward. -/
def Memory.write (m : Memory) (a : Nat) : List Byte → Memory
  | [] => m
  | b :: rest => Memory.write (Memory.set m a b) (a + 1) rest

/-- A little-endian number (00: R5). -/
def leNat : List Byte → Nat
  | [] => 0
  | b :: rest => b.toNat + 256 * leNat rest
/-- The `n` low bytes of a number, little-endian. -/
def natLe : Nat → Nat → List Byte
  | 0, _ => []
  | n + 1, x => BitVec.ofNat 8 (x % 256) :: natLe n (x / 256)

/-! ### The physical map (log entry 7) -/

/-- Durable stack `k` begins at 2^44 + k 2^38; HBM stack `k` at k 2^36; host memory at 2^48. -/
def durBase : Nat := 2 ^ 44
def hostBase : Nat := 2 ^ 48
def isDurable (pa : Nat) : Bool := decide (durBase ≤ pa ∧ pa < durBase + 2 ^ 40)
def isHost (pa : Nat) : Bool := decide (hostBase ≤ pa)
def durStack (pa : Nat) : Nat := (pa - durBase) / 2 ^ 38
/-- The home die of a location (12: R224). -/
def homeDie (pa : Nat) : Nat :=
  if isHost pa then 0 else if isDurable pa then (if durStack pa < 2 then 0 else 1)
  else if pa / 2 ^ 36 < 6 then 0 else 1
/-- Clusters 0 to 2 lie on die 0 (00: R2). -/
def dieOfCore (core : Nat) : Nat := if core / 64 < 3 then 0 else 1

/-! ### Views -/

def State.view (s : State) (die : Nat) : Memory := if die = 0 then s.view0 else s.view1
def State.setView (s : State) (die : Nat) (m : Memory) : State :=
  if die = 0 then { s with view0 := m } else { s with view1 := m }
/-- The writes of die `d` that die `at_` has applied (12: R225). -/
def State.clock (s : State) (at_ d : Nat) : Nat :=
  match at_, d with
  | 0, 0 => s.clock00 | 0, _ => s.clock01 | _, 0 => s.clock10 | _, _ => s.clock11
def State.tick1 (s : State) (at_ d : Nat) : State :=
  match at_, d with
  | 0, 0 => { s with clock00 := s.clock00 + 1 }
  | 0, _ => { s with clock01 := s.clock01 + 1 }
  | _, 0 => { s with clock10 := s.clock10 + 1 }
  | _, _ => { s with clock11 := s.clock11 + 1 }
def State.own (s : State) (die a : Nat) : Nat := SMap.get 0 (if die = 0 then s.own0 else s.own1) a

/-- A fresh identifier, and the index of a free value (log entry 2). -/
def State.bump (s : State) : State := { s with fresh := s.fresh + 1 }
/-- A time of R410 (10): its minimum and the device's own addition. -/
def State.delay (s : State) (minimum : Nat) : Nat := minimum + Config.freeDelay s.fresh

/-- The byte of a core's view: the die view overlaid with the core's writes that L2 has not accepted
(12: R219). -/
def State.coreByte (s : State) (core a : Nat) : Byte :=
  match (s.coreWrites.reverse.find? fun w => decide (w.core = core ∧ w.pa ≤ a ∧ a < w.pa + w.bytes.length)) with
  | some w => w.bytes.getD (a - w.pa) 0
  | none => Memory.get (s.view (dieOfCore core)) a

/-- Records the own writes of a die byte by byte. -/
def markOwn (m : SMap Nat) (a c : Nat) : Nat → SMap Nat
  | 0 => m
  | n + 1 => markOwn (SMap.set 0 m (a + n) c) a c n

/-- What a write that has reached its home needs still: a write of a durable location is on its way to its controller
(13: R231), one of host memory to the host (12: R221). -/
def State.sendDurable (s : State) (id pa : Nat) (bytes : List Byte) (dur : Option DurTag) : State :=
  if isDurable pa then
    { s.bump with durQueue := s.durQueue ++ [⟨id, durStack pa, pa, bytes, s.cyc + s.delay 100, dur, none⟩] }
  else if isHost pa then { s.bump with hostQueue := s.hostQueue ++ [(id, s.cyc + s.delay 100)] }
  else s

/-- Write `id`, which originates on a die, enters its view and is forwarded with the die's clock
(12: R219, R225). -/
def State.enterView (s : State) (id die pa : Nat) (bytes : List Byte) (dur : Option DurTag) (result : Option (Nat × Nat)) : State :=
  let lw : LinkWrite := ⟨id, 1 - die, pa, bytes, s.clock die 0, s.clock die 1, s.cyc + s.delay 60, dur, result⟩
  let c := s.clock die die + 1
  let s1 := s.setView die (Memory.write (s.view die) pa bytes)
  let s2 := if die = 0 then { s1 with own0 := markOwn s1.own0 pa c bytes.length }
    else { s1 with own1 := markOwn s1.own1 pa c bytes.length }
  let s3 := { (s2.tick1 die die).bump with linkWrites := s2.linkWrites ++ [lw] }
  if homeDie pa = die then s3.sendDurable id pa bytes dur else s3

/-- The bytes a remote write changes: on the die that is not their home, not those the die has written
itself since (12: R226). -/
def remoteMerge (s : State) (die : Nat) (clock : Nat) (m : Memory) (a : Nat) : List Byte → Memory
  | [] => m
  | b :: rest =>
    let m := if homeDie a ≠ die ∧ clock < s.own die a then m else Memory.set m a b
    remoteMerge s die clock m (a + 1) rest

/-- A forwarded write may be applied: every write its clock counts has been (12: R225). -/
def State.linkReady (s : State) (w : LinkWrite) : Bool :=
  decide (w.due ≤ s.cyc ∧ w.clock0 ≤ s.clock w.toDie 0 ∧ w.clock1 ≤ s.clock w.toDie 1)

/-- The bytes of a lane's watch and of a CALLB wait see a write once it is visible device-wide
(06: R151; 04: R101). -/
def Lane.seeWrite (l : Lane) (line : Nat) : Lane :=
  let l := match l.watch with
    | some w => if w.line = line then { l with watch := some { w with hit := true } } else l
    | none => l
  match l.status with
  | .blocked (.callb k) => if k = line then { l with status := .ready } else l
  | _ => l

/-- The 64-byte lines a write touches. -/
def linesOf (pa n : Nat) : List Nat := (List.range ((pa + n - 1) / 64 - pa / 64 + 1)).map (pa / 64 + ·)

/-- A write reaches .dev visibility: every watch on its lines sees it, of lanes and of traverse engines
(06: R151; 24: R377). -/
def State.wakeLines (s : State) (pa n : Nat) : State :=
  let ls := linesOf pa n
  { s with
    shown := s.shown ++ ls
    waves := s.waves.map fun w => { w with lanes := w.lanes.map fun l => ls.foldl Lane.seeWrite l }
    watchRegs := s.watchRegs.map fun e =>
      (e.1, e.2.map fun r => if ls.contains r.line then { r with hit := true } else r) }

/-! ### Page tables -/

/-- Bits [63:57] equal bit 56 (21: R340). -/
def canonical (va : Nat) : Bool :=
  decide (va / 2 ^ 56 % 2 ^ 8 = 0 ∨ va / 2 ^ 56 % 2 ^ 8 = 255) && decide (va < 2 ^ 64)

/-- The leaf that covers an address (21: R341). -/
def State.page? (s : State) (asid va : Nat) : Option Page :=
  if canonical va then s.pages.find? fun p => decide (p.asid = asid ∧ p.va ≤ va ∧ va < p.va + p.size)
  else none

/-- The permission an access needs (21: R343). -/
def permits (r w x u sw : Bool) (kind : Nat) (acc : Acc) (slevel : Bool) : Bool :=
  decide (kind ≠ 2) && (slevel || u) &&
    match acc with
    | .load => r
    | .store => w || (sw && slevel)
    | .atomic => r && (w || (sw && slevel))
    | .fetch => x

def Page.permits (p : Page) (acc : Acc) (slevel : Bool) : Bool :=
  Machine.permits p.r p.w p.x p.u p.sw p.kind acc slevel

/-- D2 of a permission fault (21: R356). -/
def Page.permBits (p : Page) : Nat :=
  if p.kind = 2 then 0
  else (if p.r then 1 else 0) + (if p.w then 2 else 0) + (if p.x then 4 else 0) + (if p.u then 8 else 0)
    + (if p.sw then 16 else 0)

/-- Why a translation refuses: cause, fault address, page permissions. -/
structure Refuse where
  cause : Nat
  addr : Nat
  perms : Nat
deriving DecidableEq, Repr

/-- An address in a granted page: its physical address, or the refusal (21: R351). -/
def State.walk1 (s : State) (asid : Nat) (slevel : Bool) (va : Nat) (acc : Acc) : Except Refuse Nat :=
  let cause := fun (c : Nat) => if acc = .fetch then 0x10 else c
  match s.page? asid va with
  | none => .error ⟨cause 0x11, va, 0⟩
  | some p =>
    if p.permits acc slevel then .ok (p.pa + (va - p.va)) else .error ⟨cause 0x12, va, p.permBits⟩

/-- The first addresses of an access in each 4 KiB page it touches. -/
def pageStarts (va len : Nat) : List Nat :=
  (List.range ((va % 4096 + (len - 1)) / 4096 + 1)).map fun i =>
    if i = 0 then va else (va / 4096 + i) * 4096

/-- Translates every page an access covers; the refusal is that of the lowest page (21: R412). The answer
is the physical address of each page's first byte of the access. -/
def State.walkAll (s : State) (asid : Nat) (slevel : Bool) (acc : Acc) : List Nat → Except Refuse (List Nat)
  | [] => .ok []
  | va :: rest =>
    match s.walk1 asid slevel (va % 2 ^ 64) acc with
    | .error r => .error r
    | .ok pa =>
      match s.walkAll asid slevel acc rest with
      | .error r => .error r
      | .ok pas => .ok (pa :: pas)

def State.walk (s : State) (asid : Nat) (slevel : Bool) (va len : Nat) (acc : Acc) : Except Refuse (List Nat) :=
  s.walkAll asid slevel acc (pageStarts va len)

/-- The physical address of byte `i` of an access translated page by page. -/
def paOf (va : Nat) (pas : List Nat) (i : Nat) : Nat :=
  let k := (va % 4096 + i) / 4096
  pas.getD k 0 + (if k = 0 then i else (va + i) % 4096)

/-- The pieces of an access of `n` more bytes from byte `i`: runs up to the next 8-byte boundary, none of
which crosses a page. -/
def piecesFrom (va : Nat) (pas : List Nat) : Nat → Nat → List Byte → List (Nat × List Byte)
  | 0, _, _ => []
  | _, _, [] => []
  | n + 1, i, bs =>
    let k := 8 - (va + i) % 8
    (paOf va pas i, bs.take k) :: piecesFrom va pas n (i + k) (bs.drop k)

/-! ### Frames (21: R353, R357) -/

def State.dropFrames (s : State) (pa bytes : Nat) : State :=
  { s with framesUsed := s.framesUsed.filter fun u => !decide (pa / 4096 ≤ u ∧ u < (pa + bytes) / 4096) }
/-- The lines still to pull of a migrating page. -/
def Page.pulled (p : Page) (line : Nat) : Page :=
  match p.mig with
  | none => p
  | some (old, ls) =>
    let rest := ls.filter fun k => decide (k ≠ line)
    { p with mig := if rest.isEmpty then none else some (old, rest) }
/-- A line of a migrating page becomes valid in its new frame; with the last the old frame is free. None where it is no
line still to pull. -/
def State.pullLine (s : State) (p : Page) (line : Nat) : Option State :=
  match p.mig with
  | none => none
  | some (old, ls) =>
    if ls.contains line then
      let s1 : State := { s with pages := s.pages.map fun q => if q.kind = 0 ∧ q.pa = p.pa then q.pulled line else q }
      some (if ls = [line] ∧ isDurable old = false then s1.dropFrames old p.size else s1)
    else none

/-! ### Cached lines (21: R345 to R350) -/

/-- A line answers an access of an ASID of its tenant. -/
def Line.hits (l : Line) (l1 : Bool) (unit va asid tenant : Nat) : Bool :=
  decide (l.l1 = l1 ∧ l.unit = unit ∧ l.va = va / 64 ∧ (l.asid = asid ∨ (l.asid = 0 ∧ l.tenant = tenant)))

def State.line? (s : State) (l1 : Bool) (unit va asid tenant : Nat) : Option Line :=
  s.lines.find? fun l => l.hits l1 unit va asid tenant

def Line.grants (l : Line) (acc : Acc) (slevel : Bool) : Bool :=
  Machine.permits l.r l.w l.x l.u l.sw l.kind acc slevel

/-- Confirmation of an access by a line of its core's L1 or its die's L2: its physical address
(21: R352). -/
def State.confirmLine (s : State) (core asid tenant va : Nat) (acc : Acc) (slevel : Bool) : Option Nat :=
  let ok := fun (o : Option Line) => match o with
    | some l => if l.grants acc slevel then some (l.pa * 64 + va % 64) else none
    | none => none
  match ok (s.line? true core va asid tenant) with
  | some pa => some pa
  | none => ok (s.line? false (dieOfCore core) va asid tenant)

/-- RRPV of a new line in a class (21: R349). -/
def insertRrpv (l1 : Bool) (res field : Nat) : Nat :=
  match res with
  | 1 => min field 2
  | 2 => if l1 then min field 2 else 0
  | 3 => 6
  | _ => field
/-- RRPV after a hit. -/
def hitRrpv (res field cur : Nat) : Nat :=
  match res with
  | 1 | 2 => 0
  | 3 => cur
  | _ => if field = 7 then cur else min cur field

/-- The slice and set of a line in its die's L2: 128 slices of 1.5 MiB, which are 1024 sets of 24 ways of 64 bytes
(00: R1; 21: R345, R350). Which of them a line has is free (log entry 35). -/
def l2Set (line : Nat) : Nat := Config.l2Set line % (128 * 1024)
/-- Lines of one set: L2 has sets; the L1's lines are its granules' and are not divided. -/
def sameSet (l1 : Bool) (unit va : Nat) (l : Line) : Bool :=
  decide (l.l1 = l1 ∧ l.unit = unit) && (l1 || decide (l2Set l.va = l2Set (va / 64)))
/-- The ways of a set that are disabled (16: R280). -/
def State.waysOff (s : State) (l1 : Bool) (unit va : Nat) : List Nat :=
  if l1 then [] else (s.l2Off.filter fun x => decide (x.1 = unit ∧ x.2.1 = l2Set (va / 64))).map (·.2.2)

/-- Ages the lines of a set until one that may be evicted has RRPV 6 (21: R349). -/
def ageSet (sel : Line → Bool) : Nat → List Line → List Line
  | 0, ls => ls
  | n + 1, ls =>
    if ls.any fun l => sel l && !l.pinned && decide (l.rrpv = 6) then ls
    else ageSet sel n (ls.map fun l => if sel l && !l.pinned then { l with rrpv := min 6 (l.rrpv + 1) } else l)

/-- The lowest of some ways that a list of lines does not use. -/
def freeWay (ls : List Line) (ways : List Nat) : Option Nat :=
  ways.find? fun k => !(ls.any fun l => decide (l.way = k))

/-- Makes room in the ways of a set that an allocation may take: the line in the lowest way that may go is evicted. -/
def evictFrom (sel : Line → Bool) (ways : List Nat) (ls : List Line) : List Line :=
  if (freeWay (ls.filter sel) ways).isSome then ls
  else
    let here := fun (l : Line) => sel l && ways.contains l.way
    let ls := ageSet here 7 ls
    let can := fun (l : Line) => here l && !l.pinned && decide (l.rrpv = 6)
    match ways.findSome? fun k => ls.find? fun l => can l && decide (l.way = k) with
    | some v => ls.erase v
    | none => ls

/-- The core view's bytes of a line. -/
def State.lineCopy (s : State) (core line : Nat) : SMap Byte :=
  (List.range 64).foldl (fun m i => SMap.set 0 m i (s.coreByte core (64 * line + i))) []

/-- A core's L1 copies of some bytes take what its view holds now. -/
def State.renewCopies (s : State) (core pa n : Nat) : State :=
  { s with lines := s.lines.map fun l =>
      if l.l1 && decide (l.unit = core) then
        { l with
          copy := (List.range n).foldl (fun m i =>
            if (pa + i) / 64 = l.pa then SMap.set 0 m ((pa + i) % 64) (s.coreByte core (pa + i)) else m) l.copy
          filled := if 64 * l.pa = pa ∧ n = 64 then s.cyc else l.filled }
      else l }

/-- Puts a line into its cache, evicting where its set is full (21: R349). Where a line of its address stands there
already the access hits it, which changes its value only (06: R136). -/
def State.insertLine (s : State) (l : Line) (ways : List Nat) (hit : Nat → Nat) : State :=
  let same := fun (x : Line) => decide (x.l1 = l.l1 ∧ x.unit = l.unit ∧ x.va = l.va ∧ x.asid = l.asid)
  if s.lines.any same then
    { s with lines := s.lines.map fun x => if same x then { x with rrpv := hit x.rrpv } else x }
  else
    let sel := sameSet l.l1 l.unit (64 * l.va)
    let ways := ways.filter fun k => !(s.waysOff l.l1 l.unit (64 * l.va)).contains k
    let kept := evictFrom sel ways s.lines
    match freeWay (kept.filter sel) ways with
    | none => s
    | some way => { s with lines := kept ++ [{ l with way := way }] }

/-- A further line of a set may be held pinned: all but one of the partition's ways at most are (21: R349). -/
def State.mayPin (s : State) (unit va : Nat) (ways : List Nat) : Bool :=
  decide ((s.lines.filter fun l => sameSet false unit va l && l.pinned && ways.contains l.way).length + 1 < ways.length)
/-- Fills a line into an L1 or an L2, with the translation that filled it (21: R345, R349). -/
def State.fillLine (s : State) (l1 : Bool) (unit va tenant : Nat) (p : Page) (field : Nat) (ways : List Nat) : State :=
  if field = 7 ∨ p.kind = 2 then s
  else
    let pa := (p.pa + (va - p.va)) / 64
    let pin := !l1 && decide (p.res = 2) && s.mayPin unit va ways
    let s := if l1 && (s.line? true unit va p.asid tenant).isNone then s.renewCopies unit (64 * pa) 64 else s
    s.insertLine {
      l1 := l1, unit := unit, va := va / 64, asid := if p.g then 0 else p.asid, tenant := tenant, pa := pa
      r := p.r, w := p.w, x := p.x, u := p.u, sw := p.sw, res := p.res, kind := p.kind
      rrpv := if p.res = 2 ∧ !l1 ∧ !pin then min field 2 else insertRrpv l1 p.res field, way := 0, pinned := pin, filled := s.cyc
      copy := if l1 then s.lineCopy unit pa else [] } ways (hitRrpv p.res field)
/-- A load that finds its line in L2 only brings it into L1. -/
def State.fillFromL2 (s : State) (core field : Nat) (ways : List Nat) (l : Line) : State :=
  if field = 7 then s
  else
    let s := s.renewCopies core (64 * l.pa) 64
    s.insertLine { l with
      l1 := true, unit := core, rrpv := insertRrpv true l.res field, pinned := false, filled := s.cyc, copy := s.lineCopy core l.pa } ways (hitRrpv l.res field)

/-- A write that leaves a core updates that core's L1 copies (12: R219). -/
def Line.overlay (l : Line) (core pa : Nat) (bytes : List Byte) : Line :=
  if l.l1 && decide (l.unit = core) then
    { l with copy := ((List.range bytes.length).foldl (fun m i =>
        if (pa + i) / 64 = l.pa then SMap.set 0 m ((pa + i) % 64) (bytes.getD i 0) else m) l.copy) }
  else l

/-- Write `id` leaves its core: it joins the core view and waits for L2 (12: R215, R219). -/
def State.leaveCore (s : State) (id core pa : Nat) (bytes : List Byte) (dur : Option DurTag) : State :=
  { s.bump with
    coreWrites := s.coreWrites ++ [⟨id, core, pa, bytes, s.cyc + s.delay 20, dur⟩]
    lines := s.lines.map fun l => l.overlay core pa bytes }

/-! ### What a load reads -/

/-- The byte of a store that still ages, if the lane has one: its latest (12: R220). -/
def State.ageingByte (s : State) (wave lane a : Nat) : Option Byte :=
  s.reqs.reverse.findSome? fun r =>
    if r.wave = wave ∧ r.lanes.getLsbD lane then
      match r.kind with
      | .store pa bytes _ => if pa ≤ a ∧ a < pa + bytes.length then some (bytes.getD (a - pa) 0) else none
      | _ => none
    else none

/-- The byte of a block's commit buffer, if a thread of the block has stored it (06: R139). -/
def bufferedByte (buf : List Buffered) (a : Nat) : Option Byte :=
  buf.reverse.findSome? fun b =>
    match b with
    | .store _ _ _ pa bytes => if pa ≤ a ∧ a < pa + bytes.length then some (bytes.getD (a - pa) 0) else none
    | .pbar _ _ => none

/-- A discarded page reads zero (21: R359). -/
def State.discarded (s : State) (asid va : Nat) : Bool :=
  match s.page? asid va with
  | some p => p.disc.isSome
  | none => false

/-- One byte of a load: the lane's own ageing store, the commit buffer, an L1 copy filled since the lane's
latest acquire while it is in use, or the core view (12: R220). -/
def State.loadByte (s : State) (w : Wave) (wi lane va pa : Nat) (acquired : Nat) : Byte :=
  match s.ageingByte wi lane pa with
  | some b => b
  | none =>
    match (match s.blocks[w.block]? with | some b => bufferedByte b.commit pa | none => none) with
    | some b => b
    | none =>
      if s.discarded w.asid va then 0
      else
        match s.line? true w.core va w.asid w.tenant with
        | some l =>
          let now := s.coreByte w.core pa
          let copy := SMap.get 0 l.copy (pa % 64)
          if copy = now then now
          else if l.pa = pa / 64 ∧ acquired ≤ l.filled ∧ s.cyc < Config.copyUntil w.core l.pa l.filled then copy
          else now
        | none => s.coreByte w.core pa

/-- A load of a line's bytes would take some of them from an L1 copy that a visible write has passed by. -/
def State.copyStale (s : State) (w : Wave) (va pa acquired : Nat) : Bool :=
  match s.line? true w.core va w.asid w.tenant with
  | some l => decide (l.pa = pa / 64 ∧ acquired ≤ l.filled ∧ s.cyc < Config.copyUntil w.core l.pa l.filled) &&
      (List.range 64).any fun i => decide (SMap.get 0 l.copy i ≠ s.coreByte w.core (pa / 64 * 64 + i))
  | none => false
/-- The bytes of an aligned load. -/
def State.loadBytes (s : State) (w : Wave) (wi lane va pa n acquired : Nat) : List Byte :=
  (List.range n).map fun i => s.loadByte w wi lane (va + i) (pa + i) acquired

/-- Bytes the device reads for a tenant from a die's view, through its page tables (24: R416). -/
def State.readVirt (s : State) (die va : Nat) (pas : List Nat) (n : Nat) : List Byte :=
  (List.range n).map fun i => Memory.get (s.view die) (paOf va pas i)

/-- Bytes the device writes for a tenant. -/
def State.writeVirt (s : State) (die va : Nat) (pas : List Nat) (bytes : List Byte) : State :=
  (piecesFrom va pas bytes.length 0 bytes).foldl (fun s p => s.bump.enterView s.fresh die p.1 p.2 none none) s

/-- The `k`-th 8-byte word of a byte list. -/
def wordAt (bs : List Byte) (k : Nat) : Word := BitVec.ofNat 64 (leNat ((bs.drop (8 * k)).take 8))

/-- A hit changes the line's RRPV, and pins a line of a pinned page whose set has room for it in the partition's ways
(21: R349). -/
def State.touch (s : State) (l1 : Bool) (unit va asid tenant field : Nat) (ways : List Nat) : State :=
  let pin := !l1 && s.mayPin unit va ways
  { s with lines := s.lines.map fun l =>
      if l.hits l1 unit va asid tenant then
        { l with rrpv := hitRrpv l.res field l.rrpv, pinned := l.pinned || (pin && decide (l.res = 2)) }
      else l }

end Sys2Proof.Machine
end

