-- ==== Sys2Proof/Machine/Ops.lean ====
section
/-! DEFINITION. The operations every meaning shares: waves, lanes and registers, the issue of an instruction,
records and reports, taking a trap (17: R283 to R285) and returning from one (17: R294). -/

namespace Sys2Proof.Machine

/-! ### Waves and lanes -/

/-- A lane at a PC, as a new wave has it (10: R190). -/
def Lane.start (pc : Nat) : Lane :=
  { pc := pc, prevPc := 0, preds := 0, fstat := 0, counts := [], status := .ready, held := false, stopped := false
    starve := 0, passed := 0, told := false, lastIssue := none, watch := none, dropped := 0, credit := [], ahead := []
    insn := none, owed := none, acquired := 0, pbars := 0, elem := none, woken := false, readyAt := 0 }

def Lane.dead : Lane := { Lane.start 0 with status := .exited }

def State.wave? (s : State) (i : Nat) : Option Wave := s.waves[i]?
def State.setWave (s : State) (i : Nat) (w : Wave) : State := { s with waves := s.waves.set i w }
def State.modWave (s : State) (i : Nat) (f : Wave → Wave) : State := { s with waves := s.waves.modify i f }
def State.modBlock (s : State) (i : Nat) (f : Block → Block) : State := { s with blocks := s.blocks.modify i f }
def State.modLaunch (s : State) (i : Nat) (f : Launch → Launch) : State := { s with launches := s.launches.modify i f }
def Wave.lane (w : Wave) (l : Nat) : Lane := w.lanes.getD l Lane.dead
def Wave.modLane (w : Wave) (l : Nat) (f : Lane → Lane) : Wave := { w with lanes := w.lanes.modify l f }
/-- Applies a function to the lanes of a mask. -/
def Wave.modLanes (w : Wave) (m : LaneMask) (f : Lane → Lane) : Wave :=
  { w with lanes := w.lanes.mapIdx fun i l => if m.getLsbD i then f l else l }
/-- The lanes that satisfy a test. -/
def Wave.lanesWhere (w : Wave) (f : Lane → Bool) : LaneMask := maskOf fun i => f (w.lane i)
def Lane.isReady (l : Lane) : Bool := decide (l.status = .ready) && !l.held && !l.stopped
def Lane.isExited (l : Lane) : Bool := decide (l.status = .exited)

def Tenant.absent : Tenant :=
  { live := false, asids := [], tvec := 0, ctlq := .off, flog := .off, waitrep := true, wdlog := 20
    poolsaveBase := 0, poolsaveSize := 0, recbase := 0, qmax := [], floors := [], nextLaunch := 1, keys := []
    partitions := [], partitionOf := [], frames := [], objects := [], ctlCart := 0
    ctlWave := none, svcRing := .off, bindRing := .off, svcHead := 0, bindHead := 0 }
def State.tenant (s : State) (t : Nat) : Tenant := SMap.get Tenant.absent s.tenants t
def State.setTenant (s : State) (t : Nat) (v : Tenant) : State :=
  { s with tenants := SMap.set Tenant.absent s.tenants t v }
def State.modTenant (s : State) (t : Nat) (f : Tenant → Tenant) : State := s.setTenant t (f (s.tenant t))

def Block.barrier (b : Block) (k : Nat) : Barrier := SMap.get ⟨32 * b.waves.length, 0⟩ b.barriers k
def Block.setBarrier (b : Block) (k : Nat) (v : Barrier) : Block :=
  { b with barriers := SMap.set ⟨32 * b.waves.length, 0⟩ b.barriers k v }
def Block.slot (b : Block) (n : Nat) : Slot := SMap.get Slot.free b.slots n
def Block.setSlot (b : Block) (n : Nat) (v : Slot) : Block := { b with slots := SMap.set Slot.free b.slots n v }

def State.launchOf (s : State) (w : Wave) : Option Launch := s.launches[w.launch]?
def State.cartOf (s : State) (w : Wave) : Option Cartouche := (s.launchOf w).map (·.cart)
def State.compat16 (s : State) (w : Wave) : Bool := ((s.cartOf w).map (·.compat16)).getD false
def State.contained (s : State) (w : Wave) : Bool := ((s.cartOf w).map (·.contained)).getD false

/-! ### Registers -/

/-- A thread register of a lane; a register at or above F does not exist (04: R105). -/
def Wave.vcell (w : Wave) (n l : Nat) : RegCell := SMap.get RegCell.zero w.frame (32 * n + l)
/-- What a reader of a lane's register sees: zero and RAW when dead or exited (01: R23; 05: R127). -/
def Wave.vread (w : Wave) (n l : Nat) : Word × Tag :=
  let c := w.vcell n l
  if (w.lane l).isExited || !c.live then (0, .raw) else (c.val, c.tag)
def Wave.vcap (w : Wave) (n l : Nat) : Bool := (w.vcell n l).cap
def Wave.wcell (w : Wave) (n : Nat) : RegCell := SMap.get RegCell.zero w.wregs n
def Wave.wread (w : Wave) (n : Nat) : Word × Tag :=
  let c := w.wcell n
  if c.live then (c.val, c.tag) else (0, .raw)

def Wave.setV (w : Wave) (n l : Nat) (c : RegCell) : Wave :=
  { w with frame := SMap.set RegCell.zero w.frame (32 * n + l) c }
def Wave.setW (w : Wave) (n : Nat) (c : RegCell) : Wave :=
  { w with wregs := SMap.set RegCell.zero w.wregs n c }

/-- A write of either register of a pair clears the pair's capability bit (04: R108). -/
def Wave.clearPairV (w : Wave) (n l : Nat) : Wave :=
  if n % 2 = 1 then w.setV (n - 1) l { w.vcell (n - 1) l with cap := false } else w
def Wave.clearPairW (w : Wave) (n : Nat) : Wave :=
  if n % 2 = 1 then w.setW (n - 1) { w.wcell (n - 1) with cap := false } else w

/-- Writes a thread register of a lane, discarded at or above F (04: R105). -/
def Wave.writeV (w : Wave) (n l : Nat) (v : Word) (t : Tag) (cap : Bool) : Wave :=
  if n < w.frameSize then (w.setV n l ⟨v, t, true, cap, false⟩).clearPairV n l else w
/-- Writes a wave-uniform register. -/
def Wave.writeW (w : Wave) (n : Nat) (v : Word) (t : Tag) (cap : Bool) : Wave :=
  if n < 256 then (w.setW n ⟨v, t, true, cap, false⟩).clearPairW n else w
/-- The least recently used of some entries. -/
def oldestEntry (es : List CacheEntry) : Option CacheEntry :=
  es.foldl (fun (b : Option CacheEntry) x =>
    match b with | none => some x | some y => if x.lastUse < y.lastUse then some x else b) none
/-- A result enters the operand cache: valid and dirty in the written lanes; `keep` are the sources of the wave's next
instruction, which no victim is (08: R175). Where every entry is one of those or the target of a fill in flight, no entry
is taken and the value stands in the frame (log entry 83). The opening program of 07 begins its trace with an empty
cache after 41 loads and calls v3 not yet live, where R175 and R190 (10) have results fill the cache and every register
live; the model follows the rules (log entry 83). -/
def Wave.cacheWrite (w : Wave) (keep : List Nat) (n l cyc : Nat) : Wave :=
  let bit : LaneMask := BitVec.ofNat 32 (2 ^ l)
  if w.ocache.any fun e => e.reg = n then
    { w with ocache := w.ocache.map fun e =>
        if e.reg = n then { e with valid := e.valid ||| bit, dirty := e.dirty ||| bit, lastUse := cyc } else e }
  else
    let e : CacheEntry := ⟨n, bit, bit, none, 0, [], cyc⟩
    if w.ocache.length < 8 then { w with ocache := w.ocache ++ [e] }
    else
      match oldestEntry (w.ocache.filter fun x => x.fill.isNone && !keep.contains x.reg) with
      | some v => { w with ocache := (w.ocache.erase v) ++ [e] }
      | none => w

/-- One value of a result lands. A lane that has exited takes none (04: R98). -/
def Wave.landWrite (keep : List Nat) (cyc : Nat) (w : Wave) (r : RegWrite) : Wave :=
  match r.target with
  | .v n => if (w.lane r.lane).isExited then w else (w.writeV n r.lane r.val r.tag r.cap).cacheWrite keep n r.lane cyc
  | .w n => w.writeW n r.val r.tag r.cap
  | .p n => w.modLane r.lane fun l => l.setPred n (r.val.getLsbD 0)

/-- One value that the array writes: in every lane, exited or not, and discarded at or above F (14: R246). -/
def Wave.arrayWrite (keep : List Nat) (cyc : Nat) (w : Wave) (r : RegWrite) : Wave :=
  match r.target with
  | .v n => if n < w.frameSize then (w.writeV n r.lane r.val r.tag r.cap).cacheWrite keep n r.lane cyc else w
  | .w _ | .p _ => w
/-- A write to the injected register before its first read: the error is gone (15: R262). -/
def Injection.overwritten (wi : Nat) (ws : List RegWrite) (j : Injection) : Injection :=
  if j.done = 3 ∧ j.wave = some wi ∧ (ws.any fun r => decide (r.lane = j.lane ∧ r.target = .v j.reg)) = true then { j with done := 1 } else j
/-- Two values go to one register or predicate of one lane. -/
def RegWrite.same (x y : RegWrite) : Bool :=
  decide (x.target = y.target) && (match x.target with | .w _ => true | _ => decide (x.lane = y.lane))
/-- A value of a result is held by an earlier result to the same register or predicate of its lane (10: R204). -/
def Wave.holdsWrite (w : Wave) (b : WriteBack) (r : RegWrite) : Bool :=
  w.wbs.any fun x => decide (x.id < b.id) && x.writes.any r.same
/-- What of a result is held when the rest of it lands: a wave-uniform value keeps every lane of the result. -/
def Wave.heldPart (w : Wave) (b : WriteBack) : WriteBack :=
  let rest := b.writes.filter (w.holdsWrite b)
  let wide := rest.any fun r => match r.target with | .w _ => true | _ => false
  { b with writes := rest, lanes := if wide then b.lanes else b.lanes &&& maskOf fun l => rest.any fun r => decide (r.lane = l) }
/-- A result lands: the values that no earlier result holds are written, and the counts of the lanes that have all of
theirs fall (01: R19; 10: R204). -/
def Wave.land (w : Wave) (keep : List Nat) (cyc : Nat) (b : WriteBack) : Wave :=
  let rest := w.heldPart b
  let w1 := (b.writes.filter fun r => !w.holdsWrite b r).foldl (Wave.landWrite keep cyc) w
  let w2 := w1.modLanes (b.lanes &&& ~~~rest.lanes) fun l => l.dropCount b.flag
  { w2 with wbs := if rest.writes = [] then w.wbs.filter fun x => decide (x.id ≠ b.id)
                   else w.wbs.map fun x => if x.id = b.id then rest else x }

/-- A result that a lane owes and will not produce is withdrawn, with its count. -/
def Wave.cancelOwed (w : Wave) (l : Nat) : Wave :=
  match (w.lane l).owed with
  | none => w
  | some id =>
    match w.wbs.find? fun b => b.id = id with
    | none => w.modLane l fun x => { x with owed := none }
    | some b =>
      { w with wbs := w.wbs.filter fun b => decide (b.id ≠ id) }.modLane l fun x => { x.dropCount b.flag with owed := none }

/-- Some of a result may land: its time has come, and not every value of it is held by an earlier result
(10: R204). -/
def Wave.canLand (w : Wave) (cyc : Nat) (b : WriteBack) : Bool :=
  (match b.due with | some d => decide (d ≤ cyc) | none => false) &&
    (decide (b.writes = []) || b.writes.any fun r => !w.holdsWrite b r)

/-! ### Records and reports (17: R286, R287) -/

def bitIf (b : Bool) (n : Nat) : Nat := if b then 2 ^ n else 0

/-- The words of a record about a wave. -/
def State.record (s : State) (w : Wave) (cause : Nat) (report : Bool) (pc : Nat) (lanes : LaneMask)
    (details : List Word) (appendix : List Word) : Record :=
  let launch := ((s.launchOf w).map (·.id)).getD 0
  let blk := ((s.blocks[w.block]?).map (·.index)).getD 0
  let w0 := cause + bitIf report 8 + bitIf w.level 11 + (if appendix.isEmpty then 1 else 3) * 2 ^ 12
    + w.tenant % 64 * 2 ^ 16 + w.asid % 65536 * 2 ^ 32
  let w2 := blk % 2 ^ 32 + w.number % 32 * 2 ^ 32 + w.core / 64 % 8 * 2 ^ 37 + w.core % 64 * 2 ^ 40
  { words := [BitVec.ofNat 64 w0, BitVec.ofNat 64 launch, BitVec.ofNat 64 w2, BitVec.ofNat 64 pc,
      BitVec.ofNat 64 lanes.toNat, BitVec.ofNat 64 s.cyc, 0, 0] ++ (details ++ List.replicate 8 0).take 8
    appendix := appendix }

/-- Sets flag bits of a record's first word. -/
def Record.flag (r : Record) (bit : Nat) : Record := { r with words := r.words.modify 0 fun w => w ||| BitVec.ofNat 64 (2 ^ bit) }
/-- Sets detail word `n`. -/
def Record.detail (r : Record) (n : Nat) (v : Word) : Record := { r with words := r.words.set (8 + n) v }
def Record.cause (r : Record) : Nat := (r.words.headD 0).toNat % 256

/-- A record of no wave, for a tenant (13: R240; 20: R328; 27: R408). -/
def State.tenantRecord (s : State) (t cause : Nat) (launch pc : Word) (details : List Word) : Record :=
  { words := [BitVec.ofNat 64 (cause + 2 ^ 8 + 2 ^ 12 + t % 64 * 2 ^ 16), launch, 0, pc, 0, BitVec.ofNat 64 s.cyc, 0, 0]
      ++ (details ++ List.replicate 8 0).take 8, appendix := [] }

/-- A tenant's ring. -/
def Tenant.ring (t : Tenant) (toFlog : Bool) : Ring := if toFlog then t.flog else t.ctlq
def Tenant.setRing (t : Tenant) (toFlog : Bool) (r : Ring) : Tenant :=
  if toFlog then { t with flog := r } else { t with ctlq := r }

/-- The bytes of a record's slots. -/
def Record.bytes (r : Record) : List Byte := (r.words ++ r.appendix).flatMap fun w => natLe 8 w.toNat

/-- Writes the slots of a record one after another, skipping slot 0 at the wrap (17: R287). -/
def ringSlots (s : State) (r : Ring) (n h : Nat) : Nat → List Byte → Except Refuse State
  | 0, _ => .ok s
  | fuel + 1, bs =>
    if bs.isEmpty then .ok s
    else
      let va := r.base + 128 * (1 + h % (n - 1))
      match s.walk r.asid true va 128 .store with
      | .error e => .error e
      | .ok pas => ringSlots (s.writeVirt (homeDie (pas.headD 0)) va pas (bs.take 128)) r n (h + 1) fuel (bs.drop 128)

/-- Puts a record into a tenant's ring, or into the chart core's log (17: R287). -/
def State.ringRecord (s : State) (t : Nat) (toFlog : Bool) (rec_ : Record) : State :=
  let tn := s.tenant t
  let r := tn.ring toFlog
  let keep := { s with chartLog := s.chartLog ++ [rec_] }
  if r.log2n = 0 ∨ r.rfault then keep
  else
    let n := 2 ^ r.log2n
    let bad := { (s.setTenant t (tn.setRing toFlog { r with rfault := true })) with chartLog := s.chartLog ++ [rec_] }
    match s.walk r.asid true r.base 24 .store with
    | .error _ => bad
    | .ok pas =>
      let pa := pas.headD 0
      let d := homeDie pa
      let word := fun (k : Nat) => leNat (Memory.read (s.view d) (pa + 8 * k) 8)
      let len := if rec_.appendix.isEmpty then 1 else 3
      if n - 1 - (word 0 - word 1) < len then s.writeVirt d (r.base + 16) [pa + 16] (natLe 8 (word 2 + 1))
      else
        match ringSlots s r n (word 0) 4 rec_.bytes with
        | .error _ => bad
        | .ok s => s.writeVirt d r.base [pa] (natLe 8 (word 0 + len))

/-- A report that ages with the instruction that raised it (17: R287). -/
def State.reportLater (s : State) (wi : Nat) (w : Wave) (toFlog : Bool) (r : Record) : State :=
  { s.bump with reqs := s.reqs ++ [⟨s.fresh, wi, 0, w.core, s.cyc, none, none, 3, [], .report toFlog r, none, 0⟩] }

/-- A report that no instruction raised: a request that ages as any other and that no rewind discards (06: R132; 17: R287). -/
def State.notice (s : State) (t : Nat) (toFlog : Bool) (r : Record) : State :=
  { s.bump with reqs := s.reqs ++ [⟨s.fresh, 0, 0, 0, s.cyc, none, none, 3, [], .notice t toFlog r, none, 0⟩] }
/-- A report about a wave to its tenant's fault log. -/
def State.waveLog (s : State) (w : Wave) (cause pc : Nat) (lanes : LaneMask) (details : List Word) : State :=
  s.notice w.tenant true (s.record w cause true pc lanes details [])

/-! ### Units that read as uncorrectable (08: R172; 16: R276) -/

/-- Unit kind and location, as detail words (17: R286). -/
def unitWords (u : Nat × Nat) : List Word := [BitVec.ofNat 64 u.1, BitVec.ofNat 64 u.2]
/-- Cluster, core and pool granule, as a location (17: R286). -/
def granuleLoc (core granule : Nat) : Nat := core / 64 * 2 ^ 16 + core % 64 * 2 ^ 10 + granule % 1024
/-- Where granule `g` of a wave lies: of its frame, or 64 its header (08: R168). -/
def Wave.granuleLoc (w : Wave) (wi g : Nat) : Nat := Machine.granuleLoc w.core (Config.granule wi g)
/-- The location of the frame granule that holds a register. -/
def frameLoc (wi : Nat) (w : Wave) (reg : Nat) : Word := BitVec.ofNat 64 (w.granuleLoc wi (reg / 16))
/-- What a reader of a register of a lane consumes: the cache's entry where it is dirty there, else the frame. -/
def Wave.lostV (w : Wave) (wi n l : Nat) : Option (Nat × Nat) :=
  let c := w.vcell n l
  if c.bad && c.live && !(w.lane l).isExited then
    some (if w.ocache.any fun e => decide (e.reg = n) && e.dirty.getLsbD l then 0 else 1, w.granuleLoc wi (n / 16))
  else none
/-- The same of a wave-uniform register, whose granule is the header's. -/
def Wave.lostW (w : Wave) (wi n : Nat) : Option (Nat × Nat) :=
  if (w.wcell n).bad && (w.wcell n).live then some (1, w.granuleLoc wi 64) else none

/-- A marked line of memory among the bytes of an access. -/
def State.memMark (s : State) (pa n : Nat) : Option (Nat × Nat) :=
  s.marked.find? fun m => decide (5 ≤ m.1 ∧ m.1 ≤ 7) && (linesOf pa n).contains (m.2 / 64)
/-- Where granule `index` of a region of a block lies. -/
def State.regionLoc (s : State) (bi kind index : Nat) : Nat :=
  granuleLoc (((s.blocks[bi]?).map (·.core)).getD 0) (Config.regionGranule bi kind index)
def State.regionMark (s : State) (bi kind index : Nat) : Option (Nat × Nat) :=
  s.marked.find? fun m => decide (m = (kind, s.regionLoc bi kind index))
/-- The granule of a block's region of a kind that lies at a location. -/
def State.regionAt (s : State) (bi kind loc : Nat) : Option Nat := (List.range 768).find? fun g => decide (s.regionLoc bi kind g = loc)
/-- The granules of a block that go back to the pool are no longer marked. -/
def State.clearMarks (s : State) (bi : Nat) : State :=
  { s with marked := s.marked.filter fun m => !(decide (2 ≤ m.1 ∧ m.1 ≤ 4) && (s.regionAt bi m.1 m.2).isSome) }
/-- A contained block that has consumed a unit is to be killed before anything else. -/
def State.doom (s : State) (bi : Nat) (u : Nat × Nat) : State := s.modBlock bi fun b => { b with doomed := some u }

/-! ### Taking a trap (17: R283 to R285) -/

/-- A trap about to be taken: the lanes, the cause, whether TEPC is the next instruction, detail words. -/
structure Trap where
  lanes : LaneMask
  cause : Nat
  next : Bool
  details : List Word
deriving DecidableEq, Repr

/-- Every lane that has not exited is held, and the wave stops (17: R285). -/
def Wave.stopAll (w : Wave) : Wave :=
  { w with stoppedTrap := true, lanes := w.lanes.map fun l => if l.isExited then l else { l with held := true } }

/-- The chart core restarts a control wave at its entry with every register zero (17: R285). Drop marks stay: they belong
to the block (11: R211). -/
def Wave.restart (w : Wave) (entry : Nat) : Wave :=
  { w with frame := [], wregs := [], lanes := w.lanes.map fun l => { Lane.start entry with dropped := l.dropped }, wbs := [], ocache := []
           inHandler := false, level := true, scratch := [], stoppedTrap := false, fair := none, yielding := none
           sweep := none, trapCyc := none }

/-- Enters the handler (17: R283): the record, the resume PC, the trapping lanes, SCRATCH zero, the other
lanes held, S level, and the trapping lanes at TVEC. -/
def Wave.enterHandler (w : Wave) (t : Trap) (pc : Nat) (tvec : Word) (r : Record) (cyc : Nat) : Wave :=
  { w with
    trec := r.words, tappendix := r.appendix, tepc := BitVec.ofNat 64 (if t.next then pc + 12 else pc)
    tlanes := t.lanes, scratch := [], inHandler := true, level := true, trapCyc := some cyc
    lanes := w.lanes.mapIdx fun i l =>
      if t.lanes.getLsbD i then { l with pc := tvec.toNat, lastIssue := none }
      else if l.isExited then l else { l with held := true } }

/-- The control wave's own trap outside the rule: CONTROL_FAULT to the fault log, and a restart
(17: R285). -/
def State.controlFault (s : State) (wi : Nat) (w : Wave) (inner : Record) (pc cause : Nat) : State :=
  let r := { inner with words := inner.words.modify 0 fun x => BitVec.ofNat 64 (x.toNat - x.toNat % 256 + 0x08) }
  let r := (r.detail 6 (BitVec.ofNat 64 pc)).detail 7 (BitVec.ofNat 64 cause)
  let entry := ((s.cartOf w).map (·.entry)).getD 0
  (s.setWave wi (w.restart entry)).reportLater wi w true r

/-- Takes a trap raised for lanes of a wave at `pc`. -/
def State.takeTrapAt (s : State) (wi : Nat) (w : Wave) (t : Trap) (pc : Nat) : State :=
  let r := s.record w t.cause false pc t.lanes t.details []
  let tvec := (s.tenant w.tenant).tvec
  if w.inHandler || decide (tvec = 0) then
    if w.control then s.controlFault wi w r pc t.cause
    else
      let outer : Record := if w.inHandler then { words := w.trec, appendix := w.tappendix } else r
      let rep := if w.inHandler
        then ((outer.flag 9).detail 6 (BitVec.ofNat 64 pc)).detail 7 (BitVec.ofNat 64 t.cause)
        else outer.flag 10
      (s.setWave wi { w.stopAll with trapCyc := some s.cyc }).reportLater wi w false rep
  else s.setWave wi (w.enterHandler t pc tvec r s.cyc)

/-- The PC of the lowest lane of a mask. -/
def Wave.pcOf (w : Wave) (m : LaneMask) : Nat := (w.lane ((lowest m).getD 0)).pc

/-- Takes a trap at the PC of the lanes it names. -/
def State.takeTrap (s : State) (wi : Nat) (t : Trap) : State :=
  match s.wave? wi with
  | none => s
  | some w => s.takeTrapAt wi w t (w.pcOf t.lanes)

/-! ### Retiring threads (04: R98; 06: R152) -/

/-- A lane as it waits: while a MATRIX_FREEZE or MATRIX_THAW handler runs on wave 0's lanes, as it stood when the handler
began (16: R268). -/
def Wave.waiting (w : Wave) (l : Nat) : Lane := if w.savedLanes = [] then w.lane l else { w.savedLanes.getD l Lane.dead with dropped := (w.lane l).dropped }
/-- A thread retires: its write-backs are discarded, its barrier arrivals withdrawn, E lowered. A write-back to a
wave-uniform register, which is the wave's and not the thread's, still lands (log entry 84). An element that the thread held keeps its cell as it
was (24: R376). -/
def Wave.exitLanes (w : Wave) (m : LaneMask) : Wave :=
  { w with
    lanes := w.lanes.mapIdx fun i l => if m.getLsbD i then { l with status := .exited, held := false, stopped := false, elem := none, woken := false } else l
    wbs := w.wbs.map fun b => { b with writes := b.writes.filter fun r =>
      match r.target with | .w _ => true | _ => !m.getLsbD r.lane } }

def Block.exitLane (b : Block) (l : Lane) : Block :=
  (List.range 8).foldl (fun b k =>
    let x := b.barrier k
    let e := if l.dropped.getLsbD k then x.expected else x.expected - 1
    let a := if l.status = .inside (.bar k) then x.arrived - 1 else x.arrived
    b.setBarrier k ⟨e, a⟩) b

/-- A wave arrival of NBARRIVE j: every live lane has issued its instance (16: R265). -/
def Wave.nbArrived (w : Wave) (j : Nat) : Bool :=
  (w.lanes.any fun l => !l.isExited) && w.lanes.all fun l => l.isExited || decide (1 ≤ SMap.get 0 l.ahead j)

def Wave.nbArrive (w : Wave) (j : Nat) : Wave :=
  { w with lanes := w.lanes.map fun l =>
      if l.isExited then l
      else
        let l := { l with ahead := SMap.set 0 l.ahead j (SMap.get 0 l.ahead j - 1) }
        if l.status = .blocked (.ahead j) then { l with status := .ready } else l }

/-- Makes every wave arrival of barriers that is due, and counts it for the block: several of one barrier may be, when the
last lane behind exits (06: R153). -/
def State.nbSettle (s : State) (wi : Nat) : State :=
  ((List.range 64).map (· / 4)).foldl (fun s j =>
    match s.wave? wi with
    | none => s
    | some w =>
      if w.nbArrived j then
        (s.setWave wi (w.nbArrive j)).modBlock w.block fun b =>
          { b with arr := SMap.set 0 b.arr j (min (2 ^ 32 - 1) (SMap.get 0 b.arr j + 1)), arrIds := SMap.set 0 b.arrIds j s.fresh }
      else s) s

/-- Lanes of a wave retire. -/
def State.exitLanes (s : State) (wi : Nat) (m : LaneMask) : State :=
  match s.wave? wi with
  | none => s
  | some w =>
    let m := m &&& w.lanesWhere fun l => !l.isExited
    let s := s.modBlock w.block fun b => (lanesOf m).foldl (fun b i => b.exitLane (w.waiting i)) b
    (s.setWave wi (w.exitLanes m)).nbSettle wi

/-! ### Returning from a trap (17: R294) -/

/-- A handler lane leaves whatever it waits in. -/
def Lane.abandon (l : Lane) : Lane := if l.isExited then l else { l with status := .ready, insn := none, owed := none }

/-- An arrival a handler lane made at a block barrier is withdrawn (17: R294). -/
def State.withdrawArrivals (s : State) (w : Wave) (m : LaneMask) : State :=
  s.modBlock w.block fun b => (lanesOf m).foldl (fun b i =>
    match (w.lane i).status with
    | .inside (.bar k) => let x := b.barrier k; b.setBarrier k ⟨x.expected, x.arrived - 1⟩
    | _ => b) b

/-- Lanes resume at TEPC; the others become ready; the level falls. -/
def Wave.leaveHandler (w : Wave) (resume : LaneMask) : Wave :=
  { w with
    inHandler := false, level := w.control
    lanes := w.lanes.mapIdx fun i l =>
      if l.isExited then l
      else if resume.getLsbD i then { l with pc := w.tepc.toNat, prevPc := l.pc, held := false }
      else { l with held := false } }

end Sys2Proof.Machine
end

