-- ==== Sys2Proof/Machine/Operands.lean ====
section
/-! DEFINITION. The operand forms (01: R26 to R31), the checks every instruction makes at issue in the order
of 04: R413, and the issue itself: releases, counts, status events, pending results (01: R17 to R23;
10: R204 to R206). -/

namespace Sys2Proof

/-- The type of a position. -/
def Kind.ty : Kind → PosTy
  | .val t => t
  | .srcRun t _ | .rwRun t _ | .valSpan t _ => t
  | _ => .untyped

/-- How many registers an operand position names. -/
def Kind.len : Kind → Nat
  | .dstRun n | .dstSpan n | .rwRun _ n | .srcRun _ n | .valSpan _ n => n
  | .pairDst | .pair | .pairOpt => 2
  | _ => 1

/-- The positions with their codes in the order d, a, b, x (03: R76). -/
def View.positions (v : View) : List (Nat × Kind × Operand) := [(3, v.dk, v.d), (0, v.ak, v.a), (1, v.bk, v.b), (2, v.xk, v.x)]

/-- Whether a position is read as a value: its type and run length. -/
def Kind.reads : Kind → Option (PosTy × Nat)
  | .val t => some (t, 1)
  | .srcRun t n | .rwRun t n | .valSpan t n => some (t, n)
  | .dstRW => some (.untyped, 1)
  | .pair | .pairOpt => some (.untyped, 2)
  | _ => none

/-- The run lengths of an op whose runs are fixed. -/
def View.lens (v : View) : List Nat := [v.dk.len, v.ak.len, v.bk.len, v.xk.len]

end Sys2Proof

namespace Sys2Proof.Machine

/-- What a meaning answers. -/
abbrev Out := Host.Outcome State Fault Refusal

/-- The issue under way: the wave, the cohort, the lanes whose guard holds, the word. -/
structure Cx where
  wi : Nat
  w : Wave
  all : LaneMask
  ex : LaneMask
  pc : Nat
  v : View
  i : Instr

/-- The lanes of the cohort whose guard holds (01: R17). -/
def Wave.executing (w : Wave) (all : LaneMask) (h : Hdr) : LaneMask :=
  maskOf fun l => all.getLsbD l && ((w.lane l).pred h.guard.toNat ^^ h.guardNeg)

/-! ### Values of operands -/

/-- A block's coordinates in its launch (10: R189). -/
def Launch.coords (L : Launch) (index : Nat) : Nat × Nat × Nat :=
  (index % L.bx, index / L.bx % L.by_, index / (L.bx * L.by_))

/-- The special operands (01: R30). -/
def State.special (s : State) (w : Wave) (ex : LaneMask) (l : Nat) (sp : Special) : Word :=
  let idx := ((s.blocks[w.block]?).map (·.index)).getD 0
  let c := ((s.launchOf w).map fun L => L.coords idx).getD (0, 0, 0)
  match sp with
  | .lane => BitVec.ofNat 64 l
  | .wave => BitVec.ofNat 64 w.number
  | .blkx => BitVec.ofNat 64 c.1
  | .blky => BitVec.ofNat 64 c.2.1
  | .blkz => BitVec.ofNat 64 c.2.2
  | .core => BitVec.ofNat 64 (w.core % 8 * 16 + w.core % 64 / 8)
  | .cyc => BitVec.ofNat 64 s.cyc
  | .active => BitVec.ofNat 64 ex.toNat

/-- A small integer in the format of a position (01: R29). -/
def smallVal (ty : PosTy) (k : Int) : Word :=
  match ty with
  | .int t => eachSub t.width fun _ => wrap t.width k
  | .flt t => eachSub t.width fun _ => fpSmall t k
  | _ => BitVec.ofInt 64 k
def smallTag (ty : PosTy) : Tag := match ty with | .int t => t.tag | .flt t => t.tag | _ => .s64
/-- An FP constant in the format of a position (01: R29, R31). -/
def fpcVal (ty : PosTy) (i : Nat) : Word := match ty with | .flt t => eachSub t.width fun _ => fpConst t i | _ => 0
def fpcTag (ty : PosTy) : Tag := match ty with | .flt t => t.tag | _ => .raw

/-- The value and tag of a source operand in a lane, `k` registers into a run. An operand that is no register has its
value whether or not the lane has exited: R127's (05) zero is for a register of that lane's frame (log entry 82). -/
def Cx.readAt (cx : Cx) (s : State) (ty : PosTy) (o : Operand) (k l : Nat) : Word × Tag :=
  match o with
  | .v n => cx.w.vread (n.toNat + k) l
  | .w n => cx.w.wread (n.toNat + k)
  | .special sp => (s.special cx.w cx.ex l sp, .s64)
  | .small n => (smallVal ty n.toInt, smallTag ty)
  | .fpc i => (fpcVal ty i.toNat, fpcTag ty)
  | .p _ | .none => (0, .raw)

/-- The value of an untyped operand that an instruction works on in sub-elements of a width: a small integer stands
in every sub-element (01: R29). -/
def Cx.packedAt (cx : Cx) (s : State) (width : Nat) (o : Operand) (l : Nat) : Word :=
  match o with
  | .small n => eachSub width fun _ => wrap width n.toInt
  | _ => (cx.readAt s .untyped o 0 l).1
/-- Operand a of a lane, and so on. -/
def Cx.a (cx : Cx) (s : State) (l : Nat) : Word := (cx.readAt s cx.v.ak.ty cx.v.a 0 l).1
def Cx.b (cx : Cx) (s : State) (l : Nat) : Word := (cx.readAt s cx.v.bk.ty cx.v.b 0 l).1
def Cx.x (cx : Cx) (s : State) (l : Nat) : Word := (cx.readAt s cx.v.xk.ty cx.v.x 0 l).1
/-- Operand d where the op reads it. -/
def Cx.d (cx : Cx) (s : State) (l : Nat) : Word := (cx.readAt s .untyped cx.v.d 0 l).1
/-- A predicate source: class 11 reads as p7 (01: R27). -/
def Cx.pred (cx : Cx) (o : Operand) (l : Nat) : Bool :=
  match o with
  | .p n => (cx.w.lane l).pred n.toNat
  | _ => true
/-- The capability bit of a pair operand. -/
def Cx.cap (cx : Cx) (o : Operand) (k l : Nat) : Bool :=
  match o with
  | .v n => cx.w.vcap (n.toNat + k) l && (cx.w.vcell (n.toNat + k) l).live
  | .w n => (cx.w.wcell (n.toNat + k)).cap && (cx.w.wcell (n.toNat + k)).live
  | _ => false
/-- The immediate, sign-extended from its field (01: R24). -/
def Cx.simm (cx : Cx) (bits : Nat) : Int := sext bits cx.v.imm
/-- The lowest executing lane. -/
def Cx.low (cx : Cx) : Nat := (lowest cx.ex).getD 0

/-! ### The checks at issue -/

/-- The first trap of a list of checks in order. -/
def firstTrap : List (Option Trap) → Option Trap
  | [] => none
  | none :: rest => firstTrap rest
  | some t :: _ => some t

/-- One check over all executing lanes: the lanes that fail, with the detail words of the lowest
(04: R413). -/
def Cx.check (cx : Cx) (cause : Nat) (f : Nat → Option (List Word)) : Option Trap :=
  let m := maskOf fun l => cx.ex.getLsbD l && (f l).isSome
  match lowest m with
  | none => none
  | some l => some ⟨m, cause, false, (f l).getD []⟩

/-- FRAME_RANGE (01: R28): a thread register of the run at or above F. An empty run names no register (04: R413). -/
def rangeDetail (F : Nat) (lens : List Nat) : List (Nat × Kind × Operand) → Option (List Word)
  | [] => none
  | (code, _, o) :: rest =>
    let tail := rangeDetail F lens.tail rest
    match o with
    | .v n =>
      if lens.headD 1 ≠ 0 ∧ F < n.toNat + lens.headD 1 then some [BitVec.ofNat 64 code, BitVec.ofNat 64 (max n.toNat F), BitVec.ofNat 64 F]
      else tail
    | _ => tail

/-- The first register of a run whose tag its position does not accept (03: R75). -/
def Cx.badTag (cx : Cx) (s : State) (ty : PosTy) (o : Operand) (n l : Nat) : Option Tag :=
  if o.isReg then (((List.range n).map fun k => (cx.readAt s ty o k l).2).find? fun t => !ty.accepts t) else none

/-- FORMAT_MISMATCH in one lane (03: R76). -/
def Cx.formatDetail (cx : Cx) (s : State) (l : Nat) : List (Nat × Kind × Operand) → Option (List Word)
  | [] => none
  | (code, k, o) :: rest =>
    match k.reads with
    | some (ty, n) =>
      (match cx.badTag s ty o n l with
      | some t => some [BitVec.ofNat 64 code, BitVec.ofNat 64 ty.expectedCode, BitVec.ofNat 64 t.code]
      | none => cx.formatDetail s l rest)
    | none => cx.formatDetail s l rest

/-- The targets a position reads, for the checking scoreboard: `n` registers from its operand. -/
def readTargets (k : Kind) (o : Operand) (n : Nat) : List Target :=
  match k, o with
  | .psrc, .p n => [.p n.toNat]
  | k, o =>
    match k.reads, o with
    | some _, .v m => (List.range n).map fun j => .v (m.toNat + j)
    | some _, .w m => (List.range n).map fun j => .w (m.toNat + j)
    | _, _ => []

/-- A pending result that makes a read of a target short (10: R207): the detail and remaining cycles. A write
to p7 is no write (04: R83). -/
def WriteBack.short (b : WriteBack) (cyc : Nat) (wait : BitVec 12) (l : Nat) (t : Target) : Option (Nat × Nat) :=
  if b.writes.any fun r => decide (r.target = t ∧ t ≠ .p 7) && (match t with | .w _ => true | _ => decide (r.lane = l)) then
    if b.flagClass then
      (match b.flag with
      | some n => if wait.getLsbD n.val then none else some (1, 0)
      | none => some (1, 0))
    else
      (match b.due with
      | some d => if cyc < d then some (0, d - cyc) else none
      | none => none)
  else none

/-- Whether an instruction reads a position in its executing lanes: MOVW reads a in the lane it names (04: R104;
10: R207). -/
def readsOwn : Instr → Nat → Bool
  | .movw _ _ _ _, code => decide (code ≠ 0)
  | _, _ => true
/-- STALL_SHORT in one lane: guard, then d, a, b, x (10: R207). -/
def Cx.shortDetail (cx : Cx) (cyc : Nat) (lens : List Nat) (l : Nat) : Option (List Word) :=
  let g : List (Nat × Word × List Target) := [(4, BitVec.ofNat 64 cx.v.hdr.guard.toNat, [.p cx.v.hdr.guard.toNat])]
  let ops := (cx.v.positions.zip lens).map fun p => (p.1.1, BitVec.ofNat 64 p.1.2.2.encode,
    if readsOwn cx.i p.1.1 then readTargets p.1.2.1 p.1.2.2 p.2 else [])
  (g ++ ops).findSome? fun p => p.2.2.findSome? fun t =>
    cx.w.wbs.findSome? fun b =>
      (b.short cyc cx.v.hdr.wait l t).map fun r => [BitVec.ofNat 64 p.1, p.2.1, BitVec.ofNat 64 r.1, BitVec.ofNat 64 r.2]

/-- The source element of destination sub-element `k` of a lane: lane and sub-element; `n` lanes from
`base` on (05: R128). -/
def shflSource (mode : ShMode) (c n base L k sel : Nat) : Nat × Nat :=
  let e := (L - base) * c + k
  let dl := sel % 1024
  let at_ := fun x => (base + x / c, x % c)
  match mode with
  | .idx => (base + sel % n, (k + sel / 32 % 32) % c)
  | .up => at_ (if e < dl then e else e - dl)
  | .down => at_ (if n * c ≤ e + dl then e else e + dl)
  | .xor => at_ (e ^^^ (dl % (n * c)))
  | .rot => at_ ((e + dl) % (n * c))

/-- The same in a wave of 32 lanes or in the lane's half of 16 (18: R302). -/
def shflFrom (compat : Bool) (m : ShMod) (l k sel : Nat) : Nat × Nat :=
  shflSource m.mode (64 / m.width.bits) (if compat then 16 else 32) (if compat then l / 16 * 16 else 0) l k sel
/-- The lane MOVW names: b[4:0] of the lowest executing lane. -/
def Cx.namedLane (cx : Cx) (s : State) : Nat := (cx.b s cx.low).toNat % 32
/-- The lanes whose registers an executing lane reads as an operand: its own, but for the operands that an instruction
reads across lanes (04: R104; 05: R124 to R128, R130; 14: R258, R259), which stay in the lane's half in the 16-lane mode
(18: R302). -/
def Cx.readLanes (cx : Cx) (s : State) (code l : Nat) : List Nat :=
  let half := if s.compat16 cx.w then maskOf fun k => decide (k / 16 = l / 16) else BitVec.allOnes 32
  let shuffled := fun (m : ShMod) (sel : Nat) =>
    if code = 0 then (List.range (64 / m.width.bits)).map fun k => (shflFrom (s.compat16 cx.w) m l k sel).1 else [l]
  match cx.i with
  | .shfl _ m _ _ _ => shuffled m (cx.b s l).toNat
  | .shfli _ m _ _ imm => shuffled m imm.toNat
  | .red _ _ _ _ | .scan _ _ _ _ | .scanx _ _ _ _ => lanesOf (cx.ex &&& half)
  | .movw _ _ _ _ => if code = 0 then [cx.namedLane s] else [l]
  | .packk _ _ _ _ | .ckcmp _ _ _ _ | .ckfix _ _ _ _ _ => List.range 32
  | .unpkk _ m _ _ _ => if code = 1 then List.range m.fmt.blocks else [l]
  | _ => [l]
/-- The thread registers, with their lanes, that an executing lane reads. -/
def Cx.cellsRead (cx : Cx) (s : State) (lens : List Nat) (l : Nat) : List (Nat × Nat) :=
  (cx.v.positions.zip lens).flatMap fun p => match p.1.2.1.reads, p.1.2.2 with
    | some _, .v n => (cx.readLanes s p.1.1 l).flatMap fun j => (List.range p.2).map fun i => (n.toNat + i, j)
    | _, _ => []
/-- The lost unit that an executing lane reads, if any: of thread registers before wave-uniform ones (16: R276). -/
def Cx.lost (cx : Cx) (s : State) (lens : List Nat) (l : Nat) : Option (Nat × Nat) :=
  ((cx.cellsRead s lens l).findSome? fun c => cx.w.lostV cx.wi c.1 c.2).or
    ((cx.v.positions.zip lens).findSome? fun p => match p.1.2.1.reads, p.1.2.2 with
      | some _, .w n => (List.range p.2).findSome? fun i => cx.w.lostW cx.wi (n.toNat + i)
      | _, _ => none)

/-- The checks common to every instruction, after the decode checks (04: R413): FRAME_RANGE over the run
lengths of each lane, FORMAT_MISMATCH, PRIV_INSTRUCTION, STALL_SHORT; then the registers are read, and a lane that reads
a lost one consumes it (16: R276; log entry 59). -/
def Cx.commonTrap (cx : Cx) (s : State) (lens : Nat → List Nat) (priv : Option (List Word)) : Option Trap :=
  firstTrap [
    cx.check 0x20 fun l => rangeDetail cx.w.frameSize (lens l) cx.v.positions,
    cx.check 0x01 fun l => cx.formatDetail s l cx.v.positions,
    cx.check 0x02 fun _ => priv,
    if cx.w.scoreboard then cx.check 0x03 fun l => cx.shortDetail s.cyc (lens l) l else none,
    cx.check 0x51 fun l => (cx.lost s (lens l) l).map unitWords]

/-! ### The issue -/

/-- Applies a function to every lane. -/
def Wave.mapLanes (w : Wave) (f : Nat → Lane → Lane) : Wave := { w with lanes := w.lanes.mapIdx f }

/-- A last-use release of a thread register (01: R23; 04: R108). -/
def Wave.releaseV (w : Wave) (n l : Nat) : Wave :=
  if n < w.frameSize then (w.setV n l ⟨0, .raw, false, false, false⟩).clearPairV n l else w
def Wave.releaseW (w : Wave) (n : Nat) : Wave := (w.setW n ⟨0, .raw, false, false, false⟩).clearPairW n

/-- A release drops the operand-cache entry's lanes without a spill (08: R175). -/
def Wave.cacheDrop (w : Wave) (n : Nat) (m : LaneMask) : Wave :=
  { w with ocache := (w.ocache.map fun e =>
      if e.reg = n then { e with valid := e.valid &&& ~~~m, dirty := e.dirty &&& ~~~m } else e).filter fun e =>
        decide (e.valid ≠ 0) || e.fill.isSome }

/-- The registers `n` to `n + k - 1` of the executing lanes are released. -/
def Wave.releaseOp (w : Wave) (ex : LaneMask) (o : Operand) (k : Nat) : Wave :=
  match o with
  | .v n => (List.range k).foldl (fun w j =>
      ((lanesOf ex).foldl (fun w l => w.releaseV (n.toNat + j) l) w).cacheDrop (n.toNat + j) ex) w
  | .w n => if ex = 0 then w else (List.range k).foldl (fun w j => w.releaseW (n.toNat + j)) w
  | _ => w

/-- The last-use releases of an instruction (01: R23). -/
def Wave.releases (w : Wave) (ex : LaneMask) (v : View) : Wave :=
  let w := if v.hdr.lastA then w.releaseOp ex v.a v.ak.len else w
  let w := if v.hdr.lastB then w.releaseOp ex v.b v.bk.len else w
  if v.hdr.lastX then w.releaseOp ex v.x v.xk.len else w

/-- The thread registers an instruction reads as sources. -/
def viewSources (v : View) : List Nat :=
  v.positions.flatMap fun p => match p.2.1.reads, p.2.2 with
    | some (_, n), .v m => (List.range n).map fun k => m.toNat + k
    | _, _ => []
/-- The cached sources of an issued instruction have been used (08: R175). -/
def Wave.touch (w : Wave) (ns : List Nat) (cyc : Nat) : Wave :=
  { w with ocache := w.ocache.map fun e => if ns.contains e.reg then { e with lastUse := cyc } else e }

/-- A cohort's lanes as an issue leaves them (10: R198). -/
def Lane.issued (cyc : Nat) (l : Lane) : Lane :=
  { l with lastIssue := some cyc, starve := 0, passed := 0, told := false, insn := none }

/-- The wave's counts and run after an issue (01: R21; 10: R195, R198). -/
def Wave.account (w : Wave) (all : LaneMask) (h : Hdr) (cyc : Nat) : Wave :=
  { w with
    effClass := w.baseClass, age := 0, lastIssue := some cyc, idle := 0, owner := some all, replay := w.replay.drop 1
    fair := match w.fair with
      | some (_, n) => if h.yield || decide (15 ≤ n) then none else some (all, n + 1)
      | none => none
    yielding := if h.yield then some all else none }

/-- The wave as an issue leaves it: releases, status events of the executing lanes, scheduler counts. -/
def Cx.issuedWave (cx : Cx) (cyc : Nat) (ev : Nat → Events) : Wave :=
  ((((cx.w.releases cx.ex cx.v).touch (viewSources cx.v) cyc).mapLanes fun l x =>
    let x := if cx.all.getLsbD l then x.issued cyc else x
    if cx.ex.getLsbD l then { x with fstat := x.fstat ||| ev l } else x)).account cx.all cx.v.hdr cyc

/-- Ready lanes at the PC of the lowest lane of a mask. -/
def Wave.cohortOf (w : Wave) (m : LaneMask) : LaneMask := w.lanesWhere fun l => l.isReady && decide (l.pc = w.pcOf m)
/-- A journal entry of the wave and block as they stand (16: R273). -/
def State.journalEntry (s : State) (wi : Nat) (w : Wave) (lanes : LaneMask) : JEntry :=
  ⟨s.fresh, s.cyc, wi, lanes, w, s.blocks[w.block]?, 0⟩
def State.journalise (s : State) (wi : Nat) (w : Wave) (lanes : LaneMask) : State :=
  { s.bump with journal := s.journal ++ [s.journalEntry wi w lanes] }

/-- A change of a block that no rewind takes back: the block as the journals hold it changes too (16: R273). -/
def State.blockStands (s : State) (bi : Nat) (f : Block → Block) : State :=
  { s.modBlock bi f with
    journal := s.journal.map fun e => if e.wave.block = bi then { e with block := e.block.map f } else e
    seqJournal := s.seqJournal.map fun e => if e.blockIx = bi then { e with block := f e.block } else e }

/-- The instruction issues: the journal, the wave, and the quadrant's slot of this cycle. -/
def Cx.issue (cx : Cx) (s : State) (ev : Nat → Events) : State :=
  let s1 := (s.journalise cx.wi cx.w cx.all).setWave cx.wi (cx.issuedWave s.cyc ev)
  { s1 with issuedQ := s1.issuedQ ++ [4 * cx.w.core + cx.w.quadrant] }

/-- No status event. -/
def noEvents : Nat → Events := fun _ => 0

/-- Every lane of the cohort goes on at PC + 12. -/
def Lane.next (l : Lane) : Lane := { l with pc := (l.pc + 12) % 2 ^ 64 }
def Cx.advance (cx : Cx) (s : State) : State :=
  s.modWave cx.wi fun w => w.modLanes cx.all Lane.next

/-- Puts a result under way for the executing lanes and raises their counts (01: R19). -/
def State.pend (s : State) (wi : Nat) (lanes : LaneMask) (flag : Option (Fin 12)) (due : Option Nat) (flagClass : Bool)
    (writes : List RegWrite) : State :=
  if lanes = 0 then s
  else
    let b : WriteBack := ⟨s.fresh, s.cyc, due, lanes, flag, flagClass, writes⟩
    s.bump.modWave wi fun w => { (w.modLanes lanes fun l => l.bumpCount flag) with wbs := w.wbs ++ [b] }

/-- The writes of a result to a destination operand, `k` registers into a run: every executing lane for a
thread register or a predicate, the lowest executing lane for a wave-uniform one (04: R82). -/
def Cx.writes (cx : Cx) (o : Operand) (k : Nat) (f : Nat → Word × Tag) (cap : Bool) : List RegWrite :=
  match o with
  | .v n => (lanesOf cx.ex).map fun l => ⟨l, .v (n.toNat + k), (f l).1, (f l).2, cap⟩
  | .w n => match lowest cx.ex with
    | some l => [⟨l, .w (n.toNat + k), (f l).1, (f l).2, cap⟩]
    | none => []
  | _ => []

/-- The writes of a predicate result. -/
def Cx.predWrites (cx : Cx) (o : Operand) (f : Nat → Bool) : List RegWrite :=
  match o with
  | .p n => (lanesOf cx.ex).map fun l => ⟨l, .p n.toNat, if f l then 1 else 0, .raw, false⟩
  | _ => []

/-- The wave at a trap at issue: where no wave of its quadrant issues in this cycle, the cohort owns it and passes over
the other ready lanes (10: R414). -/
def Wave.trapsAtIssue (w : Wave) (m : LaneMask) : Wave :=
  { w with replay := w.replay.drop 1, passedOver := (w.lanesWhere Lane.isReady) &&& ~~~(w.cohortOf m) }
/-- A trap raised at issue takes no slot; its entry is journaled (10: R414; 17: R284). In a contained kernel a
consumption kills the block, and no lane traps (16: R276). -/
def State.raise (s : State) (wi : Nat) (t : Trap) : State :=
  match s.wave? wi with
  | none => s
  | some w =>
    if t.cause = 0x51 ∧ s.contained w = true then s.doom w.block ((t.details.getD 0 0).toNat, (t.details.getD 1 0).toNat)
    else ((s.journalise wi w (if wi = s.cur then s.curLanes else 0)).setWave wi (w.trapsAtIssue t.lanes)).takeTrap wi t

/-- The context of the instruction the selected cohort is at; none when there is no such wave. -/
def Cx.of (s : State) (i : Instr) : Option Cx :=
  match s.wave? s.cur, i.view with
  | some w, some v =>
    some { wi := s.cur, w := w, all := s.curLanes, ex := w.executing s.curLanes v.hdr, pc := w.pcOf s.curLanes, v := v, i := i }
  | _, _ => none

/-- Runs an instruction: the common checks, its own checks in order, then its effect. -/
def startWith (s : State) (i : Instr) (lens : Cx → Nat → List Nat) (priv : Cx → Option (List Word)) (own : Cx → List (Option Trap))
    (k : Cx → State) : Out :=
  match Cx.of s i with
  | none => .fault (.notEnabled "ISSUE")
  | some cx =>
    match cx.commonTrap s (lens cx) (priv cx) with
    | some t => .next (s.raise cx.wi t)
    | none =>
      match firstTrap (own cx) with
      | some t => .next (s.raise cx.wi t)
      | none => .next (k cx)

/-- An instruction with no checks of its own. -/
def start (s : State) (i : Instr) (k : Cx → State) : Out :=
  startWith s i (fun cx _ => cx.v.lens) (fun _ => none) (fun _ => []) k
/-- An instruction with checks of its own. -/
def startOwn (s : State) (i : Instr) (own : Cx → List (Option Trap)) (k : Cx → State) : Out :=
  startWith s i (fun cx _ => cx.v.lens) (fun _ => none) own k
/-- An instruction of S level (17: R282). -/
def startPriv (s : State) (i : Instr) (own : Cx → List (Option Trap)) (k : Cx → State) : Out :=
  startWith s i (fun cx _ => cx.v.lens) (fun cx => if cx.w.level then none else some [0]) own k

/-! ### Results computed at issue -/

/-- The effect of an instruction whose result is written after a fixed latency: value, tag and status
events of each executing lane (10: R204, R205). -/
def Cx.result (cx : Cx) (s : State) (lat : Nat) (f : Nat → Word × Tag × Events) : State :=
  let s1 := cx.issue s fun l => (f l).2.2
  cx.advance (s1.pend cx.wi cx.ex cx.v.hdr.setFlag (some (s.cyc + lat)) false
    (cx.writes cx.v.d 0 (fun l => ((f l).1, (f l).2.1)) false))

/-- The effect of an instruction with a predicate result (04: R83). -/
def Cx.predResult (cx : Cx) (s : State) (lat : Nat) (f : Nat → Bool) : State :=
  let s1 := cx.issue s noEvents
  cx.advance (s1.pend cx.wi cx.ex cx.v.hdr.setFlag (some (s.cyc + lat)) false (cx.predWrites cx.v.d f))

/-- The effect of an instruction whose result is flag-class, no sooner than a minimum (10: R206, R410). -/
def Cx.flagResult (cx : Cx) (s : State) (minimum : Nat) (f : Nat → Word × Tag × Events) : State :=
  let s1 := cx.issue s fun l => (f l).2.2
  cx.advance (s1.pend cx.wi cx.ex cx.v.hdr.setFlag (some (s.cyc + s1.delay minimum)) true
    (cx.writes cx.v.d 0 (fun l => ((f l).1, (f l).2.1)) false))

/-- A result with no status event. -/
def plain (v : Word) (t : Tag) : Word × Tag × Events := (v, t, 0)

/-- A computed instruction. -/
def compute (s : State) (i : Instr) (lat : Nat) (f : Cx → Nat → Word × Tag × Events) : Out :=
  start s i fun cx => cx.result s lat (f cx)

end Sys2Proof.Machine
end

