-- ==== Sys2Proof/Machine/Cohorts.lean ====
section
/-! DEFINITION. Fetching a word (01: R13 to R15), the cohorts of a wave and their selection (10: R197; 09: R183), and the
sources of a wave's next instruction (08: R174, R175). -/

namespace Sys2Proof.Machine

/-! ### Fetch -/

/-- The 96 bits at an address, or why the fetch is refused (01: R13; 21: R343). -/
def State.fetchWord (s : State) (core asid : Nat) (slevel : Bool) (pc : Nat) : Except Refuse Nat :=
  match s.walk asid slevel pc 12 .fetch with
  | .error r => .error r
  | .ok pas => .ok (leNat ((List.range 12).map fun i =>
      if s.discarded asid ((pc + i) % 2 ^ 64) then 0 else Memory.get (s.view (dieOfCore core)) (paOf pc pas i)))
/-- What a wave fetches at an address. -/
def State.waveWord (s : State) (w : Wave) (pc : Nat) : Except Refuse Nat := s.fetchWord w.core w.asid w.level pc
/-- The instruction at an address carries the safe-point bit (01: R22). -/
def State.safeAt (s : State) (w : Wave) (pc : Nat) : Bool :=
  match s.waveWord w pc with | .ok x => decide (pc % 4 = 0) && x.testBit 54 | .error _ => false

/-! ### Cohorts (10: R197) -/

/-- Ready lanes at the PC of a lane. -/
def Wave.cohortAt (w : Wave) (pc : Nat) : LaneMask := w.lanesWhere fun l => l.isReady && decide (l.pc = pc)
def Wave.readyLanes (w : Wave) : LaneMask := w.lanesWhere Lane.isReady
/-- The lowest PC among lanes of a mask. -/
def Wave.minPc (w : Wave) (m : LaneMask) : Option Nat :=
  (lanesOf m).foldl (fun (b : Option Nat) l => match b with
    | some p => some (min p (w.lane l).pc)
    | none => some (w.lane l).pc) none
def Wave.starvation (w : Wave) (m : LaneMask) : Nat := ((lanesOf m).map fun l => (w.lane l).starve).foldl max 0
/-- The most-starved cohort among ready lanes of a mask; at a tie the one with the lower PC. -/
def Wave.mostStarved (w : Wave) (m : LaneMask) : LaneMask :=
  (lanesOf m).foldl (fun (b : LaneMask) l =>
    let c := w.cohortAt (w.lane l).pc
    if b = 0 then c
    else if w.starvation b < w.starvation c ∨ (w.starvation b = w.starvation c ∧ (w.lane l).pc < w.pcOf b) then c else b) 0
/-- Ready lanes of cohorts that hold none of a mask. Where the cohort that yielded has split or others have merged with it,
every cohort that holds one of its lanes counts as the yielding one (log entry 85). -/
def Wave.otherCohorts (w : Wave) (m : LaneMask) : LaneMask :=
  maskOf fun l => (w.lane l).isReady && decide (w.cohortAt (w.lane l).pc &&& m = 0)

/-- The part of a fairness run that goes on: the ready part with the lowest PC, with those that merged. -/
def Wave.runCohort (w : Wave) : Option LaneMask :=
  match w.fair with
  | none => none
  | some (m, _) => (w.minPc (m &&& w.readyLanes)).map w.cohortAt
/-- The cohort a yield gives the next slot to. -/
def Wave.yieldCohort (w : Wave) : Option LaneMask :=
  match w.yielding with
  | none => none
  | some m => let o := w.otherCohorts m; if o = 0 then none else some (w.mostStarved o)

/-- The cohort a strike replay issues next: none while its lanes are not ready together (10: R200). -/
def Wave.replayCohort (w : Wave) : Option LaneMask :=
  match w.replay with
  | [] => none
  | (_, m) :: _ => some (if (w.cohortAt (w.pcOf m)) &&& m = m then m else 0)
/-- The replay cannot go on as it was recorded. -/
def Wave.replayBroken (w : Wave) : Bool :=
  match w.replay with
  | [] => false
  | (_, m) :: _ => (lanesOf m).any fun l => (w.lane l).isExited || decide ((w.lane l).pc ≠ w.pcOf m) ||
      (match (w.lane l).status with | .parked _ | .wsync _ => true | _ => false)

/-- The cohort with the lowest PC. -/
def Wave.minCohort (w : Wave) : LaneMask := ((w.minPc w.readyLanes).map w.cohortAt).getD 0
/-- The selected cohort; minimum-PC issue gives a slot that has been passed on (09: R183). -/
def Wave.select (w : Wave) : LaneMask :=
  match w.replayCohort with
  | some m => m
  | none =>
  if w.slotPassed then w.minCohort
  else match w.runCohort, w.yieldCohort with
  | some m, _ => m
  | none, some m => m
  | none, none => w.minCohort

/-- A cohort takes no slot: a fairness run of it and a yield's claim end, and minimum-PC issue gives the slot
(09: R183). -/
def Wave.passSlot (w : Wave) : Wave := { w with fair := none, yielding := none, slotPassed := true }

/-! ### The next instruction -/

/-- The instruction that a cohort stands at, if its word is one. -/
def State.nextInstr (s : State) (w : Wave) (m : LaneMask) : Option Instr :=
  if m = 0 then none
  else match s.waveWord w (w.pcOf m) with
    | .error _ => none
    | .ok x => match decodeWave x with | .ok i => some i | .illegal _ => none
/-- The sources of the wave's next instruction, which no victim of the operand cache is (08: R175). -/
def State.nextSources (s : State) (w : Wave) : List Nat := (((s.nextInstr w w.select).bind Instr.view).map viewSources).getD []

end Sys2Proof.Machine
end

