-- ==== Sys2Proof/Machine/Pool.lean ====
section
/-! DEFINITION. The pool of a core: granules held, the grantable count, the pool queue (08: R162 to R167), and
lanes that become blocked before an instruction (10: R191; 09: R183). -/

namespace Sys2Proof.Machine

/-- The block's regions stand on its core. -/
def Block.holds (b : Block) : Bool :=
  match b.state with
  | .reserved | .resident | .switchedOut => true
  | _ => false
def Block.granules (b : Block) : Nat := b.gScratch + b.gTiles + b.gCommit + b.gWaves
/-- Granules of an evicted block whose images have not left yet: one image every 18 cycles (08: R182). -/
def Block.left (b : Block) (cyc : Nat) : Nat :=
  match b.leaving with
  | some (n, start) => n - (cyc - start) / 18
  | none => 0
/-- Granules that a restore under way has taken, and those it is still promised. -/
def Block.got (b : Block) : Nat := (b.restore.map (·.got)).getD 0
def Block.promised (b : Block) : Nat := (b.restore.map fun r => r.need - r.got).getD 0
/-- Granules of the block's core that it holds in a cycle. -/
def Block.held (b : Block) (cyc : Nat) : Nat := (if b.holds then b.granules else b.left cyc) + b.got

def State.blockTenant (s : State) (b : Block) : Nat := ((s.launches[b.launch]?).map (·.tenant)).getD 0

/-- Granules that regions other than L1 hold on a core, fenced ones among them (08: R162; 16: R280). -/
def State.poolUsed (s : State) (core : Nat) : Nat :=
  ((s.blocks.filter fun b => decide (b.core = core)).map fun b => b.held s.cyc).sum + SMap.get 0 s.fencedGranules core
/-- L1 granules above the floor of 96. -/
def State.poolFree (s : State) (core : Nat) : Nat := 928 - s.poolUsed core
/-- H of a tenant on a core, with what has been granted to its restores (08: R164). -/
def State.poolHeld (s : State) (core t : Nat) : Nat :=
  ((s.blocks.filter fun b => decide (b.core = core ∧ s.blockTenant b = t)).map fun b => b.held s.cyc + b.promised).sum
def State.qmax (s : State) (core t : Nat) : Nat := SMap.get 0 (s.tenant t).qmax core
/-- Granules promised to restores under way on a core (08: R165). -/
def State.promisedTo (s : State) (core : Nat) : Nat :=
  ((s.blocks.filter fun b => decide (b.core = core)).map Block.promised).sum
/-- The L1 granules above the floor that no restore under way has been promised: the L1 term of R165 (08). -/
def State.l1Term (s : State) (core : Nat) : Nat := s.poolFree core - s.promisedTo core
/-- G (08: R165). -/
def State.grantable (s : State) (core t : Nat) : Nat := min (s.l1Term core) (s.qmax core t - s.poolHeld core t)

def State.queue (s : State) (core : Nat) : List PoolReq := SMap.get [] s.poolQueue core
def State.setQueue (s : State) (core : Nat) (q : List PoolReq) : State := { s with poolQueue := SMap.set [] s.poolQueue core q }

/-- Withdraws waiting requests of the pool queues. -/
def State.withdraw (s : State) (f : PoolReq → Bool) : State :=
  { s with poolQueue := (s.poolQueue.map fun q : Nat × List PoolReq => (q.1, q.2.filter fun r => !f r)).filter fun q => !q.2.isEmpty }

/-- A waiting request holds back one of a tenant (08: R166). -/
def State.holdsBack (s : State) (core : Nat) (r : PoolReq) (t : Nat) : Bool :=
  decide (r.tenant = t) || decide (s.l1Term core < r.n)

/-- The granules a wave needs for `regs` more registers, doubled when it is mirrored (08: R167). -/
def Wave.growNeed (w : Wave) (target : Nat) : Nat := (target - w.frameSize) / 16 * (if w.mirrored then 2 else 1)

/-- The granules a wave holds: its frame and its header, with their mirrors. -/
def Wave.granules (w : Wave) : Nat := (w.frameSize / 16 + 1) * (if w.mirrored then 2 else 1)

/-- A GROW request that can never be met (08: R167); granules put by for the wave are its own. -/
def State.growNever (s : State) (w : Wave) (n : Nat) : Bool :=
  decide (s.qmax w.core w.tenant - (s.poolHeld w.core w.tenant - (w.granules + w.granted)) < n)

/-- The grant of a GROW now: none ahead of it that holds it back (08: R165, R166). -/
def State.growFits (s : State) (w : Wave) (n : Nat) : Bool :=
  decide (n ≤ s.grantable w.core w.tenant)
    && !((s.queue w.core).any fun r => decide (r.rank = 1) && s.holdsBack w.core r w.tenant)

/-- The size GROW and SHRINK bring a frame to: 16 ceil(n / 16). -/
def roundUp16 (n : Nat) : Nat := (n + 15) / 16 * 16

/-- A frame of a new size: registers at or above it are zero and RAW when they come to exist (04: R105). -/
def Wave.resize (w : Wave) (target : Nat) : Wave :=
  { w with
    frameSize := target
    frame := w.frame.filter fun e => decide (e.1 < 32 * min target w.frameSize)
    ocache := w.ocache.filter fun e => decide (e.reg < target) }

/-- Granules leave the L1 of a core: the lines in them are invalidated. Which lines a granule holds is a free value
(08: R163; 21: R345; log entry 86). -/
def State.takeFromL1 (s : State) (core n : Nat) : State :=
  if n = 0 then s
  else { s.bump with lines := s.lines.filter fun e => !(e.l1 && decide (e.unit = core) && Config.leavesL1 s.fresh e.va) }

/-- Lanes of a wave that wait for a grant try again. -/
def Wave.wakeGrow (w : Wave) : Wave :=
  { w with lanes := w.lanes.map fun l => if l.status = .blocked .grow then { l with status := .ready } else l }

/-- The cohort without some of its lanes. -/
def Cx.narrow (cx : Cx) (w : Wave) (m : LaneMask) : Cx := { cx with w := w, all := cx.all &&& ~~~m, ex := cx.ex &&& ~~~m }

/-- Some lanes become blocked before the instruction; the rest of the cohort issues it in this slot, and
when all are blocked the cohort takes no slot (09: R183). -/
def Cx.block (cx : Cx) (s : State) (m : LaneMask) (k : Blocked) (rest : Cx → State → State) : State :=
  let w := cx.w.modLanes m fun l => { l with status := .blocked k }
  if cx.all &&& ~~~m = 0 then s.setWave cx.wi w.passSlot
  else rest (cx.narrow w m) (s.setWave cx.wi w)

end Sys2Proof.Machine
end

