-- ==== Sys2Proof/Machine/Moves.lean ====
section
/-! DEFINITION. Group 0x4: moves, frame size, capabilities (04: R103 to R113). -/

namespace Sys2Proof.Machine

/-! ### Moves (04: R103, R104) -/

def execMov (h : Hdr) (d a : Operand) (s : State) : Out :=
  compute s (.mov h d a) 4 fun cx l => let r := cx.readAt s .untyped a 0 l; (r.1, r.2, 0)

/-- MOVW reads a in the lane it names, so the scoreboard, which looks at executing lanes, does not look at
position a (10: R207). -/
def execMovw (h : Hdr) (d a b : Operand) (s : State) : Out :=
  start s (.movw h d a b) fun cx => cx.result s 6 fun _ =>
    let r := cx.readAt s .untyped a 0 (cx.namedLane s)
    (r.1, r.2, 0)
def execMovi (h : Hdr) (d : Operand) (imm : BitVec 27) (s : State) : Out :=
  compute s (.movi h d imm) 4 fun _ _ => (imm.signExtend 64, .s64, 0)
def execMovl (h : Hdr) (m : MovlMod) (d : Operand) (imm : BitVec 32) (s : State) : Out :=
  compute s (.movl h m d imm) 4 fun cx l =>
    match m with
    | .sext => (imm.signExtend 64, .s64, 0)
    | .zext => (imm.zeroExtend 64, .u64, 0)
    | .hi =>
      let r := cx.readAt s .untyped d 0 l
      (BitVec.ofNat 64 (r.1.toNat % 2 ^ 32 + imm.toNat * 2 ^ 32), r.2, 0)

/-! ### GROW and SHRINK (04: R105, R106; 08: R167) -/

/-- n of GROW, unsigned. -/
def Cx.growN (cx : Cx) (s : State) : Nat := (cx.a s cx.low).toNat
def Cx.growTarget (cx : Cx) (s : State) : Nat := roundUp16 (cx.growN s)
/-- The granules a GROW still needs beyond what a grant has put by. -/
def Cx.growAsk (cx : Cx) (s : State) : Nat := cx.w.growNeed (cx.growTarget s) - cx.w.granted

/-- The FRAME_GROW_FAIL record: F, target, granules asked, granules free. -/
def Cx.growFail (cx : Cx) (s : State) : Option (List Word) :=
  some [BitVec.ofNat 64 cx.w.frameSize, BitVec.ofNat 64 (cx.growTarget s), BitVec.ofNat 64 (cx.growAsk s),
    BitVec.ofNat 64 (s.grantable cx.w.core cx.w.tenant)]

/-- The traps of GROW: FRAME_LIMIT; then FRAME_GROW_FAIL, for .WAIT when the request can never be met. -/
def Cx.growTraps (cx : Cx) (s : State) (m : GrowMod) : List (Option Trap) :=
  [cx.check 0x21 (fun _ => if cx.w.maxframe < cx.growN s
      then some [BitVec.ofNat 64 (cx.growN s), BitVec.ofNat 64 cx.w.maxframe] else none),
   cx.check 0x22 (fun _ =>
      if cx.growAsk s = 0 then none
      else match m with
        | .trap => if s.growFits cx.w (cx.growAsk s) then none else cx.growFail s
        | .wait => if s.growNever cx.w (cx.w.growNeed (cx.growTarget s)) then cx.growFail s else none)]

/-- The frame grows, with granules that have been put by, and every lane of the wave that waits for a grant tries again. -/
def Cx.growNow (cx : Cx) (s : State) : State :=
  let target := cx.growTarget s
  let s1 := cx.issue s noEvents
  let s2 :=
    if cx.w.frameSize < target then
      (s1.modWave cx.wi fun w => { (w.resize target).wakeGrow with granted := w.granted - w.growNeed target }).setQueue cx.w.core
        ((s1.queue cx.w.core).filter fun r => !decide (r.rank = 1 ∧ r.who = cx.wi))
    else s1
  let F := max cx.w.frameSize target
  cx.advance (s2.pend cx.wi cx.ex cx.v.hdr.setFlag (some (s.cyc + 4)) false
    (cx.writes cx.v.d 0 (fun _ => (BitVec.ofNat 64 F, .u64)) false))

/-- Granules are put by for a wave's GROW, which issues when they have left L1, 4 cycles for each, after those put by
before (08: R163). -/
def State.putBy (s : State) (wi n : Nat) : State :=
  match s.wave? wi with
  | none => s
  | some w =>
    ((s.modWave wi fun w => { w with granted := w.granted + n, grantDue := max w.grantDue s.cyc + 4 * n }).modBlock w.block fun b =>
      { b with gWaves := b.gWaves + n }).takeFromL1 w.core n
/-- All that a GROW needs has been put by, and has left L1. -/
def Cx.growReady (cx : Cx) (s : State) : Bool :=
  decide (cx.growAsk s = 0 ∧ (cx.growTarget s ≤ cx.w.frameSize ∨ cx.w.grantDue ≤ s.cyc))
/-- A GROW that the pool grants at its issue, or for which enough is on its way: its lanes wait until the granules have
left L1. -/
def Cx.growTake (cx : Cx) (s : State) : State :=
  (cx.block s cx.ex .grow fun c s => c.advance (c.issue s noEvents)).putBy cx.wi (cx.growAsk s)
/-- A GROW.WAIT not granted blocks its lanes and stands in the pool queue (08: R166). -/
def Cx.growWait (cx : Cx) (s : State) : State :=
  let r : PoolReq := ⟨s.fresh, 1, cx.w.tenant, cx.growAsk s, cx.wi, 0⟩
  let q := s.queue cx.w.core
  let s1 := if q.any fun x => decide (x.rank = 1 ∧ x.who = cx.wi ∧ x.n = r.n) then s
    else (s.bump).setQueue cx.w.core (q ++ [r])
  cx.block s1 cx.ex .grow fun c s => c.advance (c.issue s noEvents)

def execGrow (h : Hdr) (m : GrowMod) (d a : Operand) (s : State) : Out :=
  startOwn s (.grow h m d a) (fun cx => cx.growTraps s m) fun cx =>
    if cx.ex = 0 then cx.advance (cx.issue s noEvents)
    else if cx.growReady s then cx.growNow s
    else if cx.growAsk s = 0 || s.growFits cx.w (cx.growAsk s) then cx.growTake s
    else cx.growWait s

/-- The size SHRINK brings the frame to; n is signed (04: R105). -/
def shrinkTarget (F : Nat) (n : Int) : Nat := min F (if n ≤ 16 then 16 else roundUp16 n.toNat)

/-- A value goes to a register that exists in a frame of a size. -/
def RegWrite.below (r : RegWrite) (F : Nat) : Bool := match r.target with | .v n => decide (n < F) | _ => true
/-- Results under way to registers that have ceased to exist are discarded (04: R105). -/
def Wave.dropAbove (w : Wave) (F : Nat) : Wave :=
  { w with wbs := w.wbs.map fun b => { b with writes := b.writes.filter fun r => r.below F } }
/-- The same of what operations of the array will write in a wave (14: R246). -/
def Block.dropAbove (b : Block) (wi F : Nat) : Block :=
  { b with seqOps := b.seqOps.map fun o => if o.wave = some wi then { o with writes := o.writes.filter fun r => r.below F } else o }

/-- SHRINK: the registers cease to exist; their granules go back when the journal entry ages out. A result of its own for
a register at or above the new size is discarded (04: R105). -/
def execShrink (h : Hdr) (d a : Operand) (s : State) : Out :=
  start s (.shrink h d a) fun cx =>
    if cx.ex = 0 then cx.advance (cx.issue s noEvents)
    else
      let target := shrinkTarget cx.w.frameSize (cx.a s cx.low).toInt
      let freed := (cx.w.frameSize - target) / 16 * (if cx.w.mirrored then 2 else 1)
      let s1 := cx.issue s noEvents
      let s2 := { s1 with journal := s1.journal.map fun (e : JEntry) => if e.id = s.fresh then { e with granules := freed } else e }
      let s3 := if target < cx.w.frameSize then (s2.modWave cx.wi fun w => (w.resize target).dropAbove target).modBlock cx.w.block
        (fun b => b.dropAbove cx.wi target) else s2
      let writes := (cx.writes cx.v.d 0 (fun _ => (BitVec.ofNat 64 target, .u64)) false).filter fun r => r.below target
      cx.advance (s3.pend cx.wi cx.ex cx.v.hdr.setFlag (some (s.cyc + 4)) false writes)

/-! ### Capabilities (04: R107 to R113) -/

def capBase (w0 : Word) : Nat := w0.toNat % 2 ^ 57
def capFmt (w0 : Word) : Nat := w0.toNat / 2 ^ 57 % 16
def capCtx (w0 : Word) : Bool := w0.getLsbD 61
def capCell16 (w0 : Word) : Bool := w0.getLsbD 62
def capLen (w1 : Word) : Nat := w1.toNat % 2 ^ 40
def capStride (w1 : Word) : Nat := w1.toNat / 2 ^ 40 % 2 ^ 20
/-- R in bit 0, W in bit 1, A in bit 2. -/
def capPerms (w1 : Word) : Nat := w1.toNat / 2 ^ 60 % 8
/-- BASE as an address: bit 56 sign-extended. -/
def capAddr (w0 : Word) : Nat := wrap 64 (sext 57 w0.toNat)

/-- The two words of a capability operand in a lane. -/
def Cx.cap0 (cx : Cx) (s : State) (o : Operand) (l : Nat) : Word := (cx.readAt s .untyped o 0 l).1
def Cx.cap1 (cx : Cx) (s : State) (o : Operand) (l : Nat) : Word := (cx.readAt s .untyped o 1 l).1

/-- A CAP_FAULT record in a lane: detail, capability words, operands b and x (04: R110). -/
def Cx.capDetail (_ : Cx) (_ : State) (detail : Nat) (w0 w1 b x : Word) : Option (List Word) :=
  some [BitVec.ofNat 64 detail, w0, w1, b, x]

/-- The pair of a capability result: word 1 first, so that the write of word 0 leaves the bit set. -/
def Cx.pairWrites (cx : Cx) (o : Operand) (w0 w1 : Nat → Word) : List RegWrite :=
  cx.writes o 1 (fun l => (w1 l, .raw)) false ++ cx.writes o 0 (fun l => (w0 l, .raw)) true

/-- The effect of an instruction that writes a capability. -/
def Cx.capResult (cx : Cx) (s : State) (w0 w1 : Nat → Word) : State :=
  let s1 := cx.issue s noEvents
  cx.advance (s1.pend cx.wi cx.ex cx.v.hdr.setFlag (some (s.cyc + 4)) false (cx.pairWrites cx.v.d w0 w1))

/-- The field values CAPMK accepts (04: R109). -/
def capOk (w0 w1 : Word) : Bool :=
  !w0.getLsbD 63 && !w1.getLsbD 63 && (!capCell16 w0 || capCtx w0) && decide (capBase w0 + capLen w1 ≤ 2 ^ 57)

def execCapmk (h : Hdr) (d a b : Operand) (s : State) : Out :=
  startPriv s (.capmk h d a b)
    (fun cx => [cx.check 0x15 fun l =>
      if capOk (cx.a s l) (cx.b s l) then none else cx.capDetail s 5 (cx.a s l) (cx.b s l) (cx.b s l) 0])
    fun cx => cx.capResult s (cx.a s) (cx.b s)

/-- Word 0 and word 1 of a narrowed capability (04: R111). -/
def narrow0 (w0 b : Word) : Word :=
  BitVec.ofNat 64 (w0.toNat / 2 ^ 57 * 2 ^ 57 + (capBase w0 + b.toNat) % 2 ^ 57)
def narrow1 (w1 x : Word) : Word :=
  let stride := if capStride x = 0 then capStride w1 else capStride x
  BitVec.ofNat 64 (capLen x + stride * 2 ^ 40 + (capPerms w1 &&& capPerms x) * 2 ^ 60)

def execCapnrw (h : Hdr) (d a b x : Operand) (s : State) : Out :=
  startOwn s (.capnrw h d a b x)
    (fun cx =>
      let rec_ := fun (n l : Nat) => cx.capDetail s n (cx.cap0 s a l) (cx.cap1 s a l) (cx.b s l) (cx.x s l)
      [cx.check 0x15 fun l => if cx.cap a 0 l then none else rec_ 1 l,
       cx.check 0x15 fun l => if (cx.x s l).getLsbD 63 then rec_ 5 l else none,
       cx.check 0x15 fun l =>
        if capLen (cx.cap1 s a l) < (cx.b s l).toNat + capLen (cx.x s l) then rec_ 4 l else none])
    fun cx => cx.capResult s (fun l => narrow0 (cx.cap0 s a l) (cx.b s l)) (fun l => narrow1 (cx.cap1 s a l) (cx.x s l))

def execCapchk (h : Hdr) (m : BitVec 3) (d a b x : Operand) (s : State) : Out :=
  start s (.capchk h m d a b x) fun cx => cx.predResult s 2 fun l =>
    cx.cap a 0 l && decide ((cx.b s l).toNat + capLen (cx.x s l) ≤ capLen (cx.cap1 s a l))
      && decide (m.toNat &&& capPerms (cx.cap1 s a l) = m.toNat)

/-- The field CAPRD decodes, with its tag (04: R113). -/
def capField (w0 w1 : Word) (bit : Bool) (sel : Nat) : Word × Tag :=
  match sel with
  | 0 => (BitVec.ofNat 64 (capAddr w0), .u64)
  | 1 => (BitVec.ofNat 64 (capLen w1), .u64)
  | 2 => (BitVec.ofNat 64 (capStride w1 * 16), .u64)
  | 3 => (BitVec.ofNat 64 (capFmt w0), .u64)
  | 4 => (BitVec.ofNat 64 (capPerms w1), .u64)
  | 5 => (if bit then 1 else 0, .u64)
  | 6 => (BitVec.ofNat 64 ((if capCtx w0 then 1 else 0) + (if capCell16 w0 then 2 else 0)), .u64)
  | _ => (0, .raw)

def execCaprd (h : Hdr) (d a b : Operand) (s : State) : Out :=
  compute s (.caprd h d a b) 4 fun cx l =>
    let r := capField (cx.cap0 s a l) (cx.cap1 s a l) (cx.cap a 0 l) ((cx.b s l).toNat % 128)
    (r.1, r.2, 0)

end Sys2Proof.Machine
end

