-- ==== Sys2Proof/Machine/Access.lean ====
section
/-! DEFINITION. How an access is confirmed and performed (21: R351, R352; 12: R215, R220), results that
land later, requests, and lanes that wait inside an instruction (10: R191; 06: R131 to R133). -/

namespace Sys2Proof.Machine

/-! ### Results that are resolved later -/

/-- The placeholder of a result to a destination operand in one lane; a wave-uniform destination takes the
leading lane's (04: R82). -/
def destOf (o : Operand) (k l : Nat) (lead : Bool) (t : Tag) : List RegWrite :=
  match o with
  | .v n => [⟨l, .v (n.toNat + k), 0, t, false⟩]
  | .w n => if lead then [⟨l, .w (n.toNat + k), 0, t, false⟩] else []
  | .p n => [⟨l, .p n.toNat, 0, t, false⟩]
  | .special _ | .small _ | .fpc _ | .none => []

/-- Gives a result its values and the cycle from which it may land. -/
def State.resolveWith (s : State) (wi id due : Nat) (f : RegWrite → Word) : State :=
  s.modWave wi fun w => { w with wbs := w.wbs.map fun b =>
    if b.id = id then { b with due := some due, writes := b.writes.map fun r => { r with val := f r } } else b }
/-- The same value in every write of a result. -/
def State.resolve (s : State) (wi id due : Nat) (v : Word) : State := s.resolveWith wi id due fun _ => v

/-- The mask of one lane. -/
def bitMask (l : Nat) : LaneMask := BitVec.ofNat 32 (2 ^ l)

/-- Puts a result of one lane under way whose time is not known; its identifier is the state's `fresh`. -/
def State.owe (s : State) (wi l : Nat) (flag : Option (Fin 12)) (writes : List RegWrite) : State :=
  s.pend wi (bitMask l) flag none true writes

/-! ### Lanes inside an instruction -/

/-- A lane begins to wait inside an instruction, owing a result. -/
def State.enterInside (s : State) (wi l : Nat) (i : Instr) (k : Inside) (writes : List RegWrite) (flag : Option (Fin 12)) : State :=
  (s.owe wi l flag writes).modWave wi fun w => w.modLane l fun x =>
    { x with status := .inside k, insn := some i, owed := some s.fresh }

/-- The lane goes on after the instruction inside which it waited. -/
def Lane.goOn (l : Lane) : Lane := { l.next with status := .ready, insn := none, owed := none, stopped := false }

/-- A lane leaves the instruction inside which it waits, and its result gets its values. -/
def State.leaveInside (s : State) (wi l : Nat) (f : RegWrite → Word) : State :=
  match s.wave? wi with
  | none => s
  | some w =>
    let s1 := match (w.lane l).owed with
      | some id => s.resolveWith wi id s.cyc f
      | none => s
    s1.modWave wi fun w => w.modLane l Lane.goOn

/-- A lane of a freeze or thaw handler's wave goes on, when the handler is over, from an instruction inside which it waited
before; its result gets its values now. -/
def State.leaveSaved (s : State) (wi l : Nat) (f : RegWrite → Word) : State :=
  match s.wave? wi with
  | none => s
  | some w =>
    let s1 := match (w.savedLanes.getD l Lane.dead).owed with
      | some id => s.resolveWith wi id s.cyc f
      | none => s
    s1.modWave wi fun w => { w with savedLanes := w.savedLanes.modify l Lane.goOn }

/-! ### Requests -/

/-- Requests from an identifier on are those of an instruction that was issued earlier: they age from then (06: R132). -/
def State.issuedAt (s : State) (from_ cyc : Nat) : State :=
  { s with reqs := s.reqs.map fun r => if from_ ≤ r.id then { r with issued := cyc } else r }
/-- When the instruction at which a lane waits was issued. -/
def State.issueOf (s : State) (wi l : Nat) : Nat := (((s.wave? wi).bind fun w => (w.lane l).lastIssue).getD s.cyc)

/-- Where a request's release stands when it is made: one without a release has none to complete, and a
FENCE always waits for its lanes' own accesses. -/
def ReqKind.firstStage (k : ReqKind) (rel : Option Scope) : Nat :=
  match k with
  | .fence | .barFence _ => 0
  | _ => if rel.isNone then 3 else 0
/-- Makes a request; its identifier is the state's `fresh`. -/
def State.request (s : State) (wi : Nat) (lanes : LaneMask) (core : Nat) (rel acq : Option Scope) (k : ReqKind)
    (flag : Option (Fin 12) := none) (wait : BitVec 12 := 0) : State :=
  { s.bump with reqs := s.reqs ++ [⟨s.fresh, wi, lanes, core, s.cyc, rel, acq, k.firstStage rel, [], k, flag, wait⟩] }

/-- A report that no instruction raised: it is no wave's (17: R287). -/
def ReqKind.isNotice : ReqKind → Bool | .notice _ _ _ => true | _ => false
/-- A request of the kinds that the threads' own accesses make. -/
def ReqKind.isAccess : ReqKind → Bool
  | .store _ _ _ | .scratchStore _ _ _ | .atomic _ _ _ _ _ _ _ _ | .callb _ _ _ _ => true
  | _ => false
def ReqKind.isAtomic : ReqKind → Bool
  | .atomic _ _ _ _ _ _ _ _ | .callb _ _ _ _ => true
  | _ => false

/-- Requests of some lanes before `id` that have not left. -/
def State.reqsBefore (s : State) (wi : Nat) (m : LaneMask) (id : Nat) (f : ReqKind → Bool) : Bool :=
  s.reqs.any fun r => decide (r.id < id ∧ r.wave = wi ∧ r.lanes &&& m ≠ 0) && f r.kind
/-- Atomics of some lanes before `id` whose outcome is not known, or not yet applied in their die's view
(12: R223). -/
def State.atomicsBefore (s : State) (wi : Nat) (m : LaneMask) (id : Nat) : Bool :=
  (s.atomics.any fun a => decide (a.id < id ∧ a.wave = wi) && m.getLsbD a.lane)
    || (s.linkWrites.any fun w => w.result.isSome && (match w.dur with
        | some t => decide (w.id < id ∧ t.wave = wi) && m.getLsbD t.lane | none => false))
/-- Every earlier access of the lanes has performed and is in their core's view (12: R221, scopes .wave
and .blk). A store in the commit buffer of a contained kernel performs when its drain leaves (R215), which a release does
not wait for: only COMMIT or the block's end drains it (log entry 89). -/
def State.quiet (s : State) (wi : Nat) (m : LaneMask) (id : Nat) : Bool :=
  !s.reqsBefore wi m id ReqKind.isAccess && !s.atomicsBefore wi m id

/-- The durable tag of a lane's next store (13: R232). -/
def Wave.durTag (w : Wave) (wi l : Nat) : DurTag := ⟨wi, l, (w.lane l).pbars⟩

/-! ### One lane's access -/

/-- What an instruction does for a lane at a confirmed address. -/
inductive LaneOp where
  /-- bytes, sign extension, reuse distance, whether a watch is armed -/
  | load (n : Nat) (sx : Bool) (rd : Nat) (watch : Bool)
  | store (n rd : Nat)
  | atomic (op : AtomOp) (n : Nat) (scope : Scope) (ord : Ordr) (t : Tag)
deriving DecidableEq, Repr

/-- A lane's access with its address in memory and the operands read at issue. -/
structure Job where
  lane : Nat
  va : Nat
  pa : Nat
  data : List Word
deriving DecidableEq, Repr

/-- The tag of a load (06: R135). -/
def loadTag (n : Nat) (sx : Bool) : Tag := if n = 8 then .raw else if sx then .s64 else .u64
def loadWord (n : Nat) (sx : Bool) (bytes : List Byte) : Word :=
  if sx then BitVec.ofInt 64 (sext (8 * n) (leNat bytes)) else BitVec.ofNat 64 (leNat bytes)

/-- The least time of a load (10: R410). -/
def State.loadCycles (s : State) (w : Wave) (va : Nat) : Nat :=
  if (s.line? true w.core va w.asid w.tenant).isSome then 24
  else if (s.line? false (dieOfCore w.core) va w.asid w.tenant).isSome then 80 else 320
/-- The least time of one result of several lanes. -/
def State.loadTime (s : State) (w : Wave) (jobs : List Job) : Nat := (jobs.map fun j => s.loadCycles w j.va).foldl max 24

/-- The L1's lines: every granule that no other region holds (08: R162). -/
def State.l1Ways (s : State) (core : Nat) : List Nat := List.range (64 * (s.poolFree core + 96))
/-- The ways of L2 in which an ASID's lines are allocated: those of its partition's mask; partition 0 has all 24
(21: R350). -/
def State.l2Ways (s : State) (tenant asid die va : Nat) : List Nat :=
  let p := SMap.get 0 (s.tenant tenant).partitionOf asid
  (List.range 24).filter fun k => decide (p = 0) || (Config.partitionMask p (128 * die + l2Set (va / 64) / 1024)).getLsbD k
/-- Fills the line of an address into L2, and into L1 for a load (21: R349, R351). -/
def State.fill (s : State) (core asid tenant va : Nat) (l1 : Bool) (field : Nat) : State :=
  match s.page? asid va with
  | none => s
  | some p =>
    let die := dieOfCore core
    let s1 := s.fillLine false die va tenant p field (s.l2Ways tenant asid die va)
    if l1 then s1.fillLine true core va tenant p field (s.l1Ways core) else s1
/-- A confirmed access passes through the caches (06: R136; 21: R348, R349): a load that L1 answers through L1; one that
L2 answers through both, and L1 gets the line; a store, which is written through, through both, and L1 gets none. -/
def State.useLine (s : State) (w : Wave) (va field : Nat) (load : Bool) : State :=
  let die := dieOfCore w.core
  let ways := s.l2Ways w.tenant w.asid die va
  let s1 := s.touch true w.core va w.asid w.tenant field []
  match s.line? true w.core va w.asid w.tenant, s.line? false die va w.asid w.tenant with
  | some _, l2 =>
    if load then s1
    else if l2.isSome then s1.touch false die va w.asid w.tenant field ways
    else s1.fill w.core w.asid w.tenant va false field
  | none, some l =>
    let s2 := s.touch false die va w.asid w.tenant field ways
    if load then s2.fillFromL2 w.core field (s.l1Ways w.core) l else s2
  | none, none => s

/-- The block has acted outside its commit buffer since its last COMMIT (16: R278). -/
def State.markEffects (s : State) (b : Nat) : State := s.modBlock b fun b => { b with effects := true }

/-- The loads of some lanes perform: one result for them all (12: R215). A watch is armed as one that a write has reached
where a write has reached its line at .dev visibility in this cycle, or has become visible before and is one that the
load does not see (06: R150). -/
def State.performLoads (s : State) (wi : Nat) (w : Wave) (v : View) (n : Nat) (sx : Bool) (watch : Bool)
    (least : Nat) (jobs : List Job) : State :=
  let lead := (jobs.map (·.lane)).headD 0
  let value := fun (j : Job) => loadWord n sx (s.loadBytes w wi j.lane j.va j.pa n (w.lane j.lane).acquired)
  let tag := fun (j : Job) => match j.data with | [t] => Tag.ofCode t.toNat | _ => loadTag n sx
  let writes := jobs.flatMap fun j => (destOf v.d 0 j.lane (decide (j.lane = lead)) (tag j)).map fun r => { r with val := value j }
  let s1 := s.pend wi (maskOf fun l => jobs.any fun j => decide (j.lane = l)) v.hdr.setFlag (some (s.cyc + s.delay least)) true writes
  if watch then
    jobs.foldl (fun st j => st.modWave wi fun x => x.modLane j.lane fun l =>
      { l with watch := some ⟨j.pa / 64, s.shown.contains (j.pa / 64) || s.copyStale w j.va j.pa (w.lane j.lane).acquired⟩ }) s1
  else s1

/-- The store of one lane: a request, or an entry of the commit buffer (06: R132, R139). -/
def State.performStore (s : State) (wi : Nat) (w : Wave) (v : View) (n : Nat) (j : Job) : State :=
  let bytes := natLe n (j.data.headD 0).toNat
  if s.contained w && !isHost j.pa then
    s.modBlock w.block fun b => { b with commit := b.commit ++ [.store wi j.lane j.va j.pa bytes] }
  else
    (s.request wi (bitMask j.lane) w.core none none (.store j.pa bytes (w.durTag wi j.lane)) v.hdr.setFlag v.hdr.wait).markEffects w.block

/-- The release an ordering attaches before an atomic or fence, and the acquire after it (06: R142). -/
def Ordr.release (o : Ordr) (sc : Scope) : Option Scope := match o with | .rel | .acqrel => some sc | _ => none
def Ordr.acquire (o : Ordr) (sc : Scope) : Option Scope := match o with | .acq | .acqrel => some sc | _ => none

/-- The request of one lane's atomic, whose result is `wb`; with an acquire the lane waits for the outcome. -/
def State.sendAtomic (s : State) (wi : Nat) (w : Wave) (i : Instr) (v : View) (op : AtomOp) (n : Nat) (sc : Scope) (ord : Ordr)
    (wb : Nat) (j : Job) : State :=
  let s1 := (s.request wi (bitMask j.lane) w.core (Ordr.release ord sc) (Ordr.acquire ord sc)
    (.atomic op j.pa n (j.data.headD 0) (j.data.getD 1 0) sc wb (w.durTag wi j.lane)) v.hdr.setFlag v.hdr.wait).markEffects w.block
  if (Ordr.acquire ord sc).isSome then
    s1.modWave wi fun w => w.modLane j.lane fun l => { l with status := .inside (.outcome s.fresh), insn := some i }
  else s1
/-- The atomics of some lanes: the results are owed until the outcomes. A wave-uniform destination is written once, for
the lowest lane, and every lane's atomic completes at that write-back (06: R133). -/
def State.performAtomics (s : State) (wi : Nat) (w : Wave) (i : Instr) (v : View) (op : AtomOp) (n : Nat) (sc : Scope) (ord : Ordr)
    (t : Tag) (jobs : List Job) : State :=
  match v.d with
  | .w _ =>
    let all := maskOf fun l => jobs.any fun j => decide (j.lane = l)
    jobs.foldl (fun st j => st.sendAtomic wi w i v op n sc ord s.fresh j)
      (s.pend wi all v.hdr.setFlag none true (destOf v.d 0 ((lowest all).getD 0) true t))
  | _ =>
    jobs.foldl (fun st j => (st.owe wi j.lane v.hdr.setFlag (destOf v.d 0 j.lane false t)).sendAtomic wi w i v op n sc ord st.fresh j) s

/-- The lanes of some jobs perform; a load takes at least `least` cycles. -/
def State.perform (s : State) (wi : Nat) (w : Wave) (i : Instr) (v : View) (op : LaneOp) (least : Nat) (jobs : List Job) : State :=
  match op with
  | .load n sx _ watch => if jobs.isEmpty then s else s.performLoads wi w v n sx watch least jobs
  | .store n _ => jobs.foldl (fun s j => s.performStore wi w v n j) s
  | .atomic a n sc ord t => if jobs.isEmpty then s else s.performAtomics wi w i v a n sc ord t jobs

/-- The lanes that wait for the outcome of their own atomic stay at it; the others go on. -/
def Lane.nextUnlessInside (l : Lane) : Lane :=
  match l.status with | .inside (.outcome _) => l | _ => l.next

/-- A lane goes on after its access: at an acquiring atomic it waits for the outcome. -/
def LaneOp.onward (op : LaneOp) (l : Lane) : Lane := match op with | .atomic _ _ _ _ _ => l.nextUnlessInside | _ => l.next

/-- The reuse distance of an access, where it has one (06: R136). -/
def LaneOp.rd : LaneOp → Option Nat
  | .load _ _ rd watch => if watch then none else some rd
  | .store _ rd => some rd
  | .atomic _ _ _ _ _ => none
def LaneOp.acc : LaneOp → Acc
  | .load _ _ _ _ => .load
  | .store _ _ => .store
  | .atomic _ _ _ _ _ => .atomic
def LaneOp.bytes : LaneOp → Nat
  | .load n _ _ _ => n
  | .store n _ => n
  | .atomic _ n _ _ _ => n

/-- An atomic of the lane's own on bytes of the access that has not executed, or whose result is on its way
(16: R274; 12: R216). -/
def State.ownAtomic (s : State) (wi l pa n : Nat) : Option Nat :=
  let meets := fun (p k : Nat) => decide (p < pa + n ∧ pa < p + k)
  match s.reqs.findSome? fun r =>
      if r.wave = wi ∧ r.lanes.getLsbD l then
        (match r.kind with | .atomic _ p k _ _ _ _ _ => if meets p k then some r.id else none | _ => none)
      else none with
  | some id => some id
  | none =>
    match s.atomics.findSome? fun a => if a.wave = wi ∧ a.lane = l ∧ meets a.pa a.n then some a.id else none with
    | some id => some id
    | none => s.linkWrites.findSome? fun w =>
        match w.result, w.dur with
        | some _, some t => if t.wave = wi ∧ t.lane = l ∧ meets w.pa w.bytes.length then some w.id else none
        | _, _ => none

/-- A flag is among those waited on. -/
def flagIn (f : Option (Fin 12)) (wait : BitVec 12) : Bool := match f with | some n => wait.getLsbD n.val | none => false
/-- A store of the lane's own that has not left, or an atomic that has not executed, whose flag the instruction waits on
(12: R218). A store in a commit buffer is none (log entry 89). -/
def State.flagOpen (s : State) (wi l : Nat) (wait : BitVec 12) : Option Nat :=
  (s.reqs.findSome? fun r => if r.wave = wi ∧ r.lanes.getLsbD l ∧ flagIn r.flag wait then some r.id else none).or
    (s.atomics.findSome? fun a => if a.wave = wi ∧ a.lane = l ∧ flagIn a.flag wait then some a.id else none)
/-- The executing lanes whose instruction waits on the flag of an access that has not performed are blocked until it has
(12: R218); the others go on. -/
def Cx.flagHold (cx : Cx) (s : State) (k : Cx → State → State) : State :=
  let own := fun l => s.flagOpen cx.wi l cx.v.hdr.wait
  let held := maskOf fun l => cx.ex.getLsbD l && (own l).isSome
  if held = 0 then k cx s else cx.block s held (.atomic ((own ((lowest held).getD 0)).getD 0)) k

/-- The executing lanes whose access is confirmed by a line perform it and go on; the others wait for the
walker (21: R352). -/
def Cx.accessNow (cx : Cx) (s : State) (op : LaneOp) (va : Nat → Nat) (data : Nat → List Word) : State :=
  let w := cx.w
  let conf := fun l => s.confirmLine w.core w.asid w.tenant (va l) op.acc w.level
  let ok := maskOf fun l => cx.ex.getLsbD l && (conf l).isSome
  let miss := cx.ex &&& ~~~ok
  let s1 := { cx with ex := ok }.issue s noEvents
  let jobs := (lanesOf ok).map fun l => (⟨l, va l, (conf l).getD 0, data l⟩ : Job)
  let s2 := s1.perform cx.wi w cx.i cx.v op (s.loadTime w jobs) jobs
  let s3 := match op.rd with
    | some rd => jobs.foldl (fun (s : State) (j : Job) => s.useLine w j.va rd (decide (op.acc = Acc.load))) s2
    | none => s2
  s3.modWave cx.wi fun w => w.mapLanes fun l x =>
    if miss.getLsbD l then { x with status := .inside (.walk (va l) op.bytes op.acc (data l)), insn := some cx.i }
    else if cx.all.getLsbD l then op.onward x else x

/-! ### Units that read as uncorrectable (16: R276) -/

/-- Executing lanes that read a marked unit consume it; the instruction acts in no lane. -/
def Cx.consuming (cx : Cx) (s : State) (f : Nat → Option (Nat × Nat)) (k : State) : State :=
  match cx.check 0x51 fun l => (f l).map unitWords with
  | none => k
  | some t => s.raise cx.wi t

/-- A load whose bytes an atomic of the lane's own is still to write, or that waits on the flag of a store that
has not left, waits, blocked, until that has performed; every other access goes on at once. -/
def Cx.accessWait (cx : Cx) (s : State) (op : LaneOp) (va : Nat → Nat) (data : Nat → List Word) : State :=
  let own := fun l =>
    match op, s.walk1 cx.w.asid cx.w.level (va l) .load with
    | .load n _ _ _, .ok pa =>
      (match s.ownAtomic cx.wi l pa n with | some id => some id | none => s.flagOpen cx.wi l cx.v.hdr.wait)
    | _, _ => none
  let held := maskOf fun l => cx.ex.getLsbD l && (own l).isSome
  if held = 0 then cx.accessNow s op va data
  else cx.block s held (.atomic ((own ((lowest held).getD 0)).getD 0)) fun c s => c.accessNow s op va data

/-- An access of the executing lanes, none of which reads a marked line. -/
def Cx.access (cx : Cx) (s : State) (op : LaneOp) (va : Nat → Nat) (data : Nat → List Word) : State :=
  let bad := fun l => match op.acc, s.walk1 cx.w.asid cx.w.level (va l) op.acc with
    | .store, _ | _, .error _ => none
    | _, .ok pa => s.memMark pa op.bytes
  cx.consuming s bad (cx.accessWait s op va data)

/-- DATA_MISALIGNED (06: R135). -/
def Cx.aligned (cx : Cx) (va : Nat → Nat) (n : Nat) : Option Trap :=
  cx.check 0x14 fun l => if va l % n = 0 then none else some [BitVec.ofNat 64 (va l), BitVec.ofNat 64 n]

/-! ### Accesses confirmed as a whole (21: R415) -/

/-- Executing lanes park at the instruction (10: R203); the lanes whose guard fails go on. -/
def Cx.park (cx : Cx) (s : State) (r : Refuse) (va len : Nat) (acc : Acc) : State :=
  let p : Park := ⟨r.cause, r.addr, va, len, acc, r.perms, cx.ex, s.cyc, false, false⟩
  let w := cx.w.modLanes cx.ex fun x => { x with status := .parked p }
  if cx.all &&& ~~~cx.ex = 0 then s.setWave cx.wi w
  else
    let c := cx.narrow w cx.ex
    c.advance (c.issue (s.setWave cx.wi w) noEvents)

/-- An operand of an instruction that acts once per cohort is confirmed; else its lanes park and the
instruction has had no effect. -/
def Cx.confirm (cx : Cx) (s : State) (va len : Nat) (acc : Acc) (k : List Nat → State) : State :=
  match s.walk cx.w.asid cx.w.level va len acc with
  | .ok pas => k pas
  | .error r => cx.park s r va len acc

end Sys2Proof.Machine
end

