-- ==== Sys2Proof/Machine/LoadStore.lean ====
section
/-! DEFINITION. Group 0x9: loads and stores, scratchpad and capability accesses, PREF (06: R134 to R139). -/

namespace Sys2Proof.Machine

/-- a + b + sext(off15) mod 2^64 (06: R135). -/
def Cx.memAddr (cx : Cx) (s : State) (off : BitVec 15) (l : Nat) : Nat :=
  (BitVec.ofInt 64 ((cx.a s l).toNat + (cx.b s l).toNat + off.toInt)).toNat

/-- Virtual lines of a block's commit buffer. -/
def Block.commitLines (b : Block) : List Nat :=
  (b.commit.filterMap fun e => match e with | .store _ _ va _ _ => some (va / 64) | .pbar _ _ => none).eraseDups

/-- The lanes whose store finds the commit buffer full: lanes in ascending order take entries of 64 bytes
(06: R139). -/
def fullLanes (cap : Nat) (lines : List Nat) : List (Nat × Nat) → List Nat
  | [] => []
  | (l, line) :: rest =>
    if lines.contains line then fullLanes cap lines rest
    else if lines.length < cap then fullLanes cap (lines ++ [line]) rest
    else l :: fullLanes cap lines rest

/-- COMMIT_FULL for a store of a contained kernel; a store to host memory takes no entry (16: R278). -/
def Cx.commitFull (cx : Cx) (s : State) (va : Nat → Nat) : Option Trap :=
  if s.contained cx.w then
    match s.blocks[cx.w.block]? with
    | none => none
    | some b =>
      let host := fun l => match s.page? cx.w.asid (va l) with | some p => decide (p.kind = 1) | none => false
      let full := fullLanes (64 * b.gCommit) b.commitLines
        (((lanesOf cx.ex).filter fun l => !host l).map fun l => (l, va l / 64))
      cx.check 0x28 fun l => if full.contains l then some [BitVec.ofNat 64 (va l)] else none
  else none

def execLd (h : Hdr) (m : LoadMod) (d a b : Operand) (imm : BitVec 15) (s : State) : Out :=
  startOwn s (.ld h m d a b imm) (fun cx => [cx.aligned (cx.memAddr s imm) m.size.bytes]) fun cx =>
    cx.access s (.load m.size.bytes m.sext m.rd.toNat false) (cx.memAddr s imm) fun _ => []
def execSt (h : Hdr) (m : StoreMod) (d a b : Operand) (imm : BitVec 15) (s : State) : Out :=
  startOwn s (.st h m d a b imm)
    (fun cx => [cx.aligned (cx.memAddr s imm) m.size.bytes, cx.commitFull s (cx.memAddr s imm)]) fun cx =>
    cx.access s (.store m.size.bytes m.rd.toNat) (cx.memAddr s imm) fun l => [cx.d s l]

/-! ### Scratchpad (06: R137; 21: R344) -/

/-- The core at an offset in the cluster's grid. -/
def placeCore (core : Nat) (dx dy : Int) : Option Nat :=
  let x := (core % 8 : Nat) + dx
  let y := (core % 64 / 8 : Nat) + dy
  if 0 ≤ x ∧ x ≤ 7 ∧ 0 ≤ y ∧ y ≤ 7 then some (core / 64 * 64 + 8 * y.toNat + x.toNat) else none

/-- The block a local address names: the wave's own at place (0, 0), else the launch's block on the named
core of its rectangle. -/
def State.placeBlock (s : State) (launch core block : Nat) (a : Nat) : Option Nat :=
  let dx := sext 4 (a / 2 ^ 28)
  let dy := sext 4 (a / 2 ^ 24)
  if dx = 0 ∧ dy = 0 then some block
  else if ((s.launches[launch]?).bind (·.rect)).isNone then none
  else
    match placeCore core dx dy with
    | none => none
    | some c => (List.range s.blocks.length).find? fun i =>
        match s.blocks[i]? with
        | some b => decide (b.launch = launch ∧ b.core = c) && b.holds
        | none => false

/-- The byte offset of a local access. -/
def Cx.localOff (cx : Cx) (s : State) (off : BitVec 15) (l : Nat) : Int :=
  ((cx.a s l).toNat % 2 ^ 24 : Nat) + (cx.b s l).toInt + off.toInt
def Cx.place (cx : Cx) (s : State) (l : Nat) : Option Nat :=
  s.placeBlock cx.w.launch cx.w.core cx.w.block ((cx.a s l).toNat % 2 ^ 32)
/-- The scratchpad bytes of a block. -/
def State.scratchBytes (s : State) (b : Nat) : Nat := ((s.blocks[b]?).map fun b => b.gScratch * 4096).getD 0

/-- PLACE_INVALID, LOCAL_RANGE, DATA_MISALIGNED, in the entry's order. -/
def Cx.localTraps (cx : Cx) (s : State) (off : BitVec 15) (n : Nat) : List (Option Trap) :=
  [cx.check 0x17 fun l => if (cx.place s l).isNone then some [cx.a s l] else none,
   cx.check 0x16 fun l =>
     let o := cx.localOff s off l
     if o < 0 ∨ (s.scratchBytes ((cx.place s l).getD 0) : Int) < o + n then some [cx.a s l, BitVec.ofInt 64 o] else none,
   cx.check 0x14 fun l =>
     if cx.localOff s off l % n = 0 then none else some [BitVec.ofInt 64 (cx.localOff s off l), BitVec.ofNat 64 n]]

/-- A scratchpad byte as a lane reads it: its own ageing store first. -/
def State.scratchByte (s : State) (wi l b off : Nat) : Byte :=
  match s.reqs.reverse.findSome? fun r =>
      if r.wave = wi ∧ r.lanes.getLsbD l then
        (match r.kind with
        | .scratchStore b' o bs => if b' = b ∧ o ≤ off ∧ off < o + bs.length then some (bs.getD (off - o) 0) else none
        | _ => none)
      else none with
  | some x => x
  | none => match s.blocks[b]? with | some blk => SMap.get 0 blk.scratch off | none => 0

def execLdl (h : Hdr) (m : LoadMod) (d a b : Operand) (imm : BitVec 15) (s : State) : Out :=
  let n := m.size.bytes
  startOwn s (.ldl h m d a b imm) (fun cx => cx.localTraps s imm n) fun cx =>
    cx.consuming s (fun l => s.regionMark ((cx.place s l).getD 0) 2 ((cx.localOff s imm l).toNat / 4096)) <|
    cx.flagHold s fun cx s => cx.flagResult s 24 fun l =>
    let off := (cx.localOff s imm l).toNat
    let bytes := (List.range n).map fun i => s.scratchByte cx.wi l ((cx.place s l).getD 0) (off + i)
    plain (loadWord n m.sext bytes) (loadTag n m.sext)
def execStl (h : Hdr) (m : StoreMod) (d a b : Operand) (imm : BitVec 15) (s : State) : Out :=
  let n := m.size.bytes
  startOwn s (.stl h m d a b imm) (fun cx => cx.localTraps s imm n) fun cx =>
    cx.advance ((lanesOf cx.ex).foldl (fun st l =>
      st.request cx.wi (bitMask l) cx.w.core none none
        (.scratchStore ((cx.place s l).getD 0) (cx.localOff s imm l).toNat (natLe n (cx.d s l).toNat)) cx.v.hdr.setFlag cx.v.hdr.wait)
      (cx.issue s noEvents))

/-! ### Capability accesses (06: R138) -/

/-- The offset of a capability access, exact. -/
def capOffset (w1 b : Word) (off : BitVec 15) : Int :=
  if capStride w1 = 0 then (b.toNat : Int) + off.toInt
  else ((b.toNat / 2 ^ 32 * (capStride w1 * 16) + b.toNat % 2 ^ 32 : Nat) : Int) + off.toInt
def Cx.capOff (cx : Cx) (s : State) (off : BitVec 15) (l : Nat) : Int := capOffset (cx.cap1 s cx.v.a l) (cx.b s l) off
def Cx.capVa (cx : Cx) (s : State) (off : BitVec 15) (l : Nat) : Nat :=
  (BitVec.ofInt 64 ((capAddr (cx.cap0 s cx.v.a l) : Int) + cx.capOff s off l)).toNat

/-- CAP_FAULT details 1, 2 and 3, then DATA_MISALIGNED; `perm` is the permission's bit. -/
def Cx.capTraps (cx : Cx) (s : State) (off : BitVec 15) (n perm : Nat) : List (Option Trap) :=
  let rec_ := fun (k l : Nat) => cx.capDetail s k (cx.cap0 s cx.v.a l) (cx.cap1 s cx.v.a l) (cx.b s l) 0
  [cx.check 0x15 fun l => if cx.cap cx.v.a 0 l then none else rec_ 1 l,
   cx.check 0x15 fun l =>
     let o := cx.capOff s off l
     if o < 0 ∨ (capLen (cx.cap1 s cx.v.a l) : Int) < o + n then rec_ 2 l else none,
   cx.check 0x15 fun l => if (capPerms (cx.cap1 s cx.v.a l)).testBit perm then none else rec_ 3 l,
   cx.aligned (cx.capVa s off) n]

def execLdt (h : Hdr) (m : LoadMod) (d a b : Operand) (imm : BitVec 15) (s : State) : Out :=
  let n := m.size.bytes
  startOwn s (.ldt h m d a b imm) (fun cx => cx.capTraps s imm n 0) fun cx =>
    cx.access s (.load n m.sext m.rd.toNat false) (cx.capVa s imm) fun l =>
      if n = 8 then [BitVec.ofNat 64 (capFmt (cx.cap0 s a l))] else []
def execStt (h : Hdr) (m : StoreMod) (d a b : Operand) (imm : BitVec 15) (s : State) : Out :=
  let n := m.size.bytes
  startOwn s (.stt h m d a b imm) (fun cx => cx.capTraps s imm n 1 ++ [cx.commitFull s (cx.capVa s imm)]) fun cx =>
    cx.access s (.store n m.rd.toNat) (cx.capVa s imm) fun l => [cx.d s l]

/-! ### PREF (06: R135, R136) -/

/-- One lane's PREF: dropped when the page is absent, not readable or discarded; field 7 fills L2 only. -/
def State.prefetch (s : State) (w : Wave) (va rd : Nat) : State :=
  match s.walk1 w.asid w.level va .load with
  | .error _ => s
  | .ok _ =>
    if s.discarded w.asid va then s
    else if rd = 7 then s.fill w.core w.asid w.tenant va false 6
    else s.fill w.core w.asid w.tenant va true rd

def execPref (h : Hdr) (m : BitVec 3) (a b : Operand) (imm : BitVec 15) (s : State) : Out :=
  start s (.pref h m a b imm) fun cx =>
    cx.advance ((lanesOf cx.ex).foldl (fun st l => st.prefetch cx.w (cx.memAddr s imm l) m.toNat) (cx.issue s noEvents))

end Sys2Proof.Machine
end

