-- ==== Sys2Proof/Machine/Control.lean ====
section
/-! DEFINITION. Group 0x3 without CALLB: branches, calls, EXIT, WSYNC, NOP (04: R96 to R99; 01: R14). -/

namespace Sys2Proof.Machine

/-- A lane's transfer of control to an address. -/
def Lane.jump (t : Nat) (l : Lane) : Lane := { l with pc := t % 2 ^ 64, prevPc := l.pc }

/-- The executing lanes go to their targets; the others go on at PC + 12 (01: R17). -/
def Cx.jump (cx : Cx) (s : State) (target : Nat → Nat) : State :=
  s.modWave cx.wi fun w => w.mapLanes fun l x =>
    if cx.ex.getLsbD l then x.jump (target l) else if cx.all.getLsbD l then x.next else x

/-- PC + 4 sext(imm32) (04: R96). -/
def relTarget (pc : Nat) (imm : BitVec 32) : Nat := (BitVec.ofInt 64 (pc + 4 * imm.toInt)).toNat

def execBra (h : Hdr) (imm : BitVec 32) (s : State) : Out :=
  start s (.bra h imm) fun cx => cx.jump (cx.issue s noEvents) fun _ => relTarget cx.pc imm
def execBrx (h : Hdr) (a : Operand) (s : State) : Out :=
  start s (.brx h a) fun cx => cx.jump (cx.issue s noEvents) fun l => (cx.a s l).toNat

/-- The link result: PC + 12, tag U64, after 4 cycles (10: R205). -/
def Cx.link (cx : Cx) (s : State) : State :=
  s.pend cx.wi cx.ex cx.v.hdr.setFlag (some (s.cyc + 4)) false
    (cx.writes cx.v.d 0 (fun _ => (BitVec.ofNat 64 (cx.pc + 12), .u64)) false)
def execCall (h : Hdr) (d : Operand) (imm : BitVec 32) (s : State) : Out :=
  start s (.call h d imm) fun cx => cx.jump (cx.link (cx.issue s noEvents)) fun _ => relTarget cx.pc imm
def execCallx (h : Hdr) (d a : Operand) (s : State) : Out :=
  start s (.callx h d a) fun cx => cx.jump (cx.link (cx.issue s noEvents)) fun l => (cx.a s l).toNat
def execRet (h : Hdr) (a : Operand) (s : State) : Out :=
  start s (.ret h a) fun cx => cx.jump (cx.issue s noEvents) fun l => (cx.a s l).toNat
def execNop (h : Hdr) (s : State) : Out :=
  start s (.nop h) fun cx => cx.advance (cx.issue s noEvents)
/-- A lane of the wave's running sweep (24: R379). -/
def Wave.isSweepLane (w : Wave) (l : Nat) : Bool :=
  match w.sweep with
  | some k => k.lanes.getLsbD l && !(w.lane l).isExited
  | none => false
/-- EXIT; a sweep lane traps SWEEP_STATE 4 instead (22: R367). -/
def execExit (h : Hdr) (s : State) : Out :=
  startOwn s (.exit h) (fun cx => [cx.check 0x45 fun l => if cx.w.isSweepLane l then some [4] else none]) fun cx => (cx.advance (cx.issue s noEvents)).exitLanes cx.wi cx.ex

/-! ### WSYNC (04: R99) -/

/-- A lane has exited or waits at some WSYNC. -/
def Lane.atSync (l : Lane) : Bool := match l.status with | .exited | .wsync _ => true | _ => false
/-- The lane's release condition holds. -/
def Wave.syncHolds (w : Wave) (l : Lane) : Bool :=
  match l.status with
  | .wsync m => (lanesOf m).all fun n => (w.lane n).atSync
  | _ => false
/-- Every waiting lane whose condition holds is released in the same cycle. -/
def Wave.syncRelease (w : Wave) : Wave :=
  { w with lanes := w.lanes.map fun l => if w.syncHolds l then { l.next with status := .ready, stopped := false } else l }
/-- Some lanes of a wave would be released now. -/
def Wave.syncDue (w : Wave) : Bool := w.lanes.any w.syncHolds

/-- The lanes that execute begin to wait; those released at once and those whose guard fails issue it in
this slot; with none of these the cohort takes no slot (09: R183). -/
def Cx.wsync (cx : Cx) (s : State) (mask : Nat → LaneMask) : State :=
  let arrived := cx.w.mapLanes fun l x => if cx.ex.getLsbD l then { x with status := .wsync (mask l) } else x
  let freed := maskOf fun l => cx.ex.getLsbD l && arrived.syncHolds (arrived.lane l)
  let go := (cx.all &&& ~~~cx.ex) ||| freed
  if go = 0 then s.setWave cx.wi arrived.passSlot
  else
    let cx1 := { cx with w := arrived, all := go, ex := freed }
    let s1 := cx1.issue s noEvents
    s1.modWave cx.wi fun w => (w.modLanes (cx.all &&& ~~~cx.ex) Lane.next).syncRelease

def execWsync (h : Hdr) (a : Operand) (s : State) : Out :=
  start s (.wsync h a) fun cx => cx.wsync s fun l =>
    if a = .none then 0xFFFFFFFF else BitVec.ofNat 32 (cx.a s l).toNat

end Sys2Proof.Machine
end

