-- ==== Sys2Proof/Machine/Atomics.lean ====
section
/-! DEFINITION. Group 0xA: atomics, FENCE, PBAR, PSYNC (06: R140 to R145; 12: R221); and CALLB (04: R100 to
R102), whose compare and swap is an atomic. -/

namespace Sys2Proof.Machine

/-- What an atomic writes (06: R140); ATOMCAS compares with `x` and writes `y`. -/
def atomNew (op : AtomOp) (n old x y : Nat) : Nat :=
  let w := 8 * n
  let a := old % 2 ^ w
  let v := x % 2 ^ w
  match op with
  | .add => (a + v) % 2 ^ w
  | .smin => if sext w a ≤ sext w v then a else v
  | .smax => if sext w a ≤ sext w v then v else a
  | .umin => min a v
  | .umax => max a v
  | .and => a &&& v
  | .or => a ||| v
  | .xor => a ^^^ v
  | .exch => v
  | .fadd => (fAdd (if n = 8 then .f64 else .f32) .rne a v).1
  | .cas => if a = v then y % 2 ^ w else a

/-- COMMIT_CONFLICT: the line has an entry in the block's commit buffer (06: R141). -/
def Cx.commitConflict (cx : Cx) (s : State) : Option Trap :=
  if s.contained cx.w then
    match s.blocks[cx.w.block]? with
    | none => none
    | some b => cx.check 0x29 fun l => if b.commitLines.contains ((cx.a s l).toNat / 64) then some [cx.a s l] else none
  else none

/-- An atomic instruction. -/
def atomic (s : State) (i : Instr) (m : AtomMod) (op : AtomOp) (t : Tag) : Out :=
  startOwn s i (fun cx => [cx.aligned (fun l => (cx.a s l).toNat) m.bytes, cx.commitConflict s]) fun cx =>
    cx.access s (.atomic op m.bytes m.scope m.ord t) (fun l => (cx.a s l).toNat) fun l => [cx.b s l, cx.x s l]

def execAtomAdd (h : Hdr) (m : AtomMod) (d a b : Operand) (s : State) : Out := atomic s (.atomAdd h m d a b) m .add .raw
def execAtomSmin (h : Hdr) (m : AtomMod) (d a b : Operand) (s : State) : Out := atomic s (.atomSmin h m d a b) m .smin .raw
def execAtomSmax (h : Hdr) (m : AtomMod) (d a b : Operand) (s : State) : Out := atomic s (.atomSmax h m d a b) m .smax .raw
def execAtomUmin (h : Hdr) (m : AtomMod) (d a b : Operand) (s : State) : Out := atomic s (.atomUmin h m d a b) m .umin .raw
def execAtomUmax (h : Hdr) (m : AtomMod) (d a b : Operand) (s : State) : Out := atomic s (.atomUmax h m d a b) m .umax .raw
def execAtomAnd (h : Hdr) (m : AtomMod) (d a b : Operand) (s : State) : Out := atomic s (.atomAnd h m d a b) m .and .raw
def execAtomOr (h : Hdr) (m : AtomMod) (d a b : Operand) (s : State) : Out := atomic s (.atomOr h m d a b) m .or .raw
def execAtomXor (h : Hdr) (m : AtomMod) (d a b : Operand) (s : State) : Out := atomic s (.atomXor h m d a b) m .xor .raw
def execAtomExch (h : Hdr) (m : AtomMod) (d a b : Operand) (s : State) : Out := atomic s (.atomExch h m d a b) m .exch .raw
def execAtomFadd (h : Hdr) (m : AtomMod) (d a b : Operand) (s : State) : Out :=
  atomic s (.atomFadd h m d a b) m .fadd m.flt.tag
def execAtomcas (h : Hdr) (m : AtomMod) (d a b x : Operand) (s : State) : Out := atomic s (.atomcas h m d a b x) m .cas .raw

/-! ### FENCE, PBAR, PSYNC -/

/-- The executing lanes wait inside an instruction until its request has left. -/
def Cx.waitRequest (cx : Cx) (s : State) (rel acq : Option Scope) (k : ReqKind) : State :=
  let s1 := cx.issue s noEvents
  let wb := s1.fresh
  let s2 := s1.pend cx.wi cx.ex cx.v.hdr.setFlag none true []
  let id := s2.fresh
  let s3 := s2.request cx.wi cx.ex cx.w.core rel acq k
  s3.modWave cx.wi fun w => w.mapLanes fun l x =>
    if cx.ex.getLsbD l then { x with status := .inside (.proceed id), insn := some cx.i, owed := some wb }
    else if cx.all.getLsbD l then x.next else x

/-- FENCE (06: R143). At .THR a release completes at once, and an acquire when the earlier loads and atomics have their
values (12: R221). -/
def execFence (h : Hdr) (m : FenceMod) (s : State) : Out :=
  start s (.fence h m) fun cx =>
    let rel := if m.scope = .thr then none else Ordr.release m.ord m.scope
    let acq := Ordr.acquire m.ord m.scope
    if cx.ex = 0 ∨ (rel = none ∧ acq = none) then cx.advance (cx.issue s noEvents)
    else cx.waitRequest s rel acq .fence

/-- A lane's PBAR (06: R144; 13: R235). -/
def State.mark (s : State) (wi : Nat) (w : Wave) (l : Nat) : State :=
  let s1 := s.modWave wi fun w => w.modLane l fun x => { x with pbars := x.pbars + 1 }
  if s.contained w then s1.modBlock w.block fun b => { b with commit := b.commit ++ [.pbar wi l] } else s1

def execPbar (h : Hdr) (s : State) : Out :=
  start s (.pbar h) fun cx =>
    cx.advance ((lanesOf cx.ex).foldl (fun st l => st.mark cx.wi cx.w l) (cx.issue s noEvents))

/-- PSYNC (06: R145): the record's request, with the sequence as it is at issue, leaves once the lanes' durable stores
have persisted. -/
def execPsync (h : Hdr) (a : Operand) (s : State) : Out :=
  start s (.psync h a) fun cx =>
    if cx.ex = 0 then cx.advance (cx.issue s noEvents)
    else
      let s1 := cx.waitRequest s none none (.psync (cx.a s cx.low))
      (lanesOf cx.ex).foldl (fun st l => st.mark cx.wi cx.w l) s1

/-! ### CALLB (04: R101) -/

/-- A cell's STATE: 0 bound, 1 unbound, 2 binding, 3 failed. -/
def cellState (c : Word) : Nat := c.toNat % 4
def cellBinding (c : Word) : Word := BitVec.ofNat 64 (c.toNat / 4 * 4 + 2)

/-- What a lane finds at its cell: its place in memory and the cell, read with a .dev acquire, or the
refusal. -/
def Cx.cell (cx : Cx) (s : State) (va l : Nat) : Except Refuse (Nat × Word) :=
  match s.walk1 cx.w.asid cx.w.level va .load with
  | .error r => .error r
  | .ok pa => .ok (pa, BitVec.ofNat 64 (leNat (s.loadBytes cx.w cx.wi l va pa 8 (s.cyc + 1))))

def Cx.cellIs (cx : Cx) (s : State) (va : Nat → Nat) (k l : Nat) : Bool :=
  match cx.cell s (va l) l with | .ok (_, c) => decide (cellState c = k) | .error _ => false
def Cx.cellsIn (cx : Cx) (s : State) (va : Nat → Nat) (k : Nat) : LaneMask :=
  maskOf fun l => cx.ex.getLsbD l && cx.cellIs s va k l

/-- Lanes park for their own refused access; each cause is one sub-group (10: R203). -/
def Cx.parkEach (cx : Cx) (s : State) (m : LaneMask) (va : Nat → Nat) (acc : Acc) : State :=
  let ref_ := fun l => match s.walk1 cx.w.asid cx.w.level (va l) acc with | .error r => some r | .ok _ => none
  let grp := fun c => maskOf fun l => m.getLsbD l && (match ref_ l with | some r => decide (r.cause = c) | none => false)
  let low := fun c => match (lowest (grp c)).bind ref_ with | some r => r | none => ⟨c, 0, 0⟩
  s.modWave cx.wi fun w => w.mapLanes fun l x =>
    if m.getLsbD l then
      match ref_ l with
      | some r => { x with status := .parked ⟨r.cause, (low r.cause).addr, va l, 8, acc, (low r.cause).perms, grp r.cause, s.cyc, false, false⟩ }
      | none => x
    else x

/-- The lanes with a bound cell call through it. -/
def Cx.callBound (cx : Cx) (s : State) (va : Nat → Nat) : State :=
  let target := fun l => match cx.cell s (va l) l with | .ok (_, c) => c.toNat / 4 * 4 | .error _ => 0
  let s1 := cx.issue s noEvents
  let s2 := s1.pend cx.wi cx.ex cx.v.hdr.setFlag (some (s.cyc + s1.delay 24)) true
    (cx.writes cx.v.d 0 (fun _ => (BitVec.ofNat 64 (cx.pc + 12), .u64)) false)
  let s3 := cx.jump s2 target
  s3.modWave cx.wi fun w => w.modLanes cx.ex fun l => { l with acquired := s.cyc }

/-- The cohort after its cells have been read and none had failed. -/
def Cx.callb (cx : Cx) (s : State) (va : Nat → Nat) : State :=
  let bad := maskOf fun l => cx.ex.getLsbD l && (match cx.cell s (va l) l with | .error _ => true | .ok _ => false)
  let s0 := cx.parkEach s bad va .load
  match s0.wave? cx.wi with
  | none => s0
  | some w0 =>
    let cx := cx.narrow w0 bad
    if cx.all = 0 then s0
    else
      match lowest (cx.cellsIn s va 1) with
      | some l =>
        (match s.walk1 cx.w.asid cx.w.level (va l) .atomic, cx.cell s (va l) l with
        | .ok pa, .ok (_, c) =>
          let s1 := { cx with ex := 0 }.issue s0 noEvents
          let cells := (lanesOf cx.ex).map fun k => (k, va k, match cx.cell s (va k) k with | .ok (_, c) => c | .error _ => 0)
          let id := s1.fresh
          let s2 := (s1.request cx.wi (bitMask l) cx.w.core (some .dev) none (.callb pa (va l) c cells) none cx.v.hdr.wait).markEffects cx.w.block
          s2.modWave cx.wi fun w => w.mapLanes fun k x =>
            if cx.ex.getLsbD k then { x with status := .inside (.outcome id), insn := some cx.i }
            else if cx.all.getLsbD k then x.next else x
        | _, _ => cx.parkEach s0 (bitMask l) va .atomic)
      | none =>
        let wait := cx.cellsIn s va 2
        if wait = 0 then cx.callBound s0 va
        else
          let line := fun k => match cx.cell s (va k) k with | .ok (pa, _) => pa / 64 | .error _ => 0
          let w1 := cx.w.mapLanes fun k x => if wait.getLsbD k then { x with status := .blocked (.callb (line k)) } else x
          if cx.all &&& ~~~wait = 0 then s0.setWave cx.wi w1.passSlot
          else (cx.narrow w1 wait).callBound (s0.setWave cx.wi w1) va

def execCallb (h : Hdr) (d a b : Operand) (imm : BitVec 15) (s : State) : Out :=
  startOwn s (.callb h d a b imm)
    (fun cx => [cx.aligned (cx.memAddr s imm) 8,
      cx.check 0x59 fun l => if cx.cellIs s (cx.memAddr s imm) 3 l
        then (match cx.cell s (cx.memAddr s imm l) l with
          | .ok (_, c) => some [BitVec.ofNat 64 (cx.memAddr s imm l), c] | .error _ => none)
        else none])
    fun cx => cx.flagHold s fun cx s => cx.callb s (cx.memAddr s imm)

/-- The outcome of a CALLB's compare and swap for the lanes that wait for it: those that read a bound cell call, the
request lane traps BIND_REQUEST when it won, and every other lane parks on its cell's line unless the cell has
changed already. -/
def State.callbDeliver (s : State) (wi id lane : Nat) (va : Nat) (cell : Word) (cells : List (Nat × Nat × Word)) (won : Bool) : State :=
  match s.wave? wi with
  | none => s
  | some w =>
    let mine := cells.filter fun e => decide ((w.lane e.1).status = .inside (.outcome id))
    match mine with
    | [] => s
    | (l0, _, _) :: _ =>
      match (w.lane l0).insn with
      | none => s
      | some i =>
        match i.view with
        | none => s
        | some v =>
          let bound := maskOf fun l => mine.any fun e => decide (e.1 = l) && decide (cellState e.2.2 = 0)
          let pc := (w.lane l0).pc
          let writes := match v.d with
            | .v n => (lanesOf bound).map fun l => (⟨l, .v n.toNat, BitVec.ofNat 64 (pc + 12), .u64, false⟩ : RegWrite)
            | .w n => (match lowest bound with
              | some l => [⟨l, .w n.toNat, BitVec.ofNat 64 (pc + 12), .u64, false⟩] | none => [])
            | _ => []
          let s1 := (s.modWave wi fun w => w.releases bound v).pend wi bound v.hdr.setFlag (some (s.cyc + s.delay 40)) true writes
          let s2 := s1.modWave wi fun w => w.mapLanes fun l x =>
            match mine.find? fun e => e.1 = l with
            | none => x
            | some (_, a, c) =>
              let x := { x with insn := none }
              if cellState c = 0 then { x.jump (c.toNat / 4 * 4) with status := .ready, acquired := s.cyc }
              else if l = lane ∧ won then { x with status := .ready }
              else
                match s.walk1 w.asid w.level a .load with
                | .ok pa =>
                  let now := leNat ((List.range 8).map fun k => s.coreByte w.core (pa + k))
                  if now % 4 = 2 then { x with status := .blocked (.callb (pa / 64)) } else { x with status := .ready }
                | .error _ => { x with status := .ready }
          if won ∧ bitMask lane &&& (maskOf fun l => mine.any fun e => decide (e.1 = l)) ≠ 0 then
            s2.raise wi ⟨bitMask lane, 0x58, false, [BitVec.ofNat 64 va, cell]⟩
          else s2
/-- The outcome of a CALLB's compare and swap has returned. It is recorded: a replay delivers it again (04: R101). -/
def State.callbOutcome (s : State) (wi id lane : Nat) (va : Nat) (cell : Word) (cells : List (Nat × Nat × Word)) (won : Bool) : State :=
  ({ s with outcomes := s.outcomes ++ [⟨s.cyc, id, wi, lane, va, cell, cells, won⟩] } : State).callbDeliver wi id lane va cell cells won

end Sys2Proof.Machine
end

