-- ==== Sys2Proof/Machine/Integer.lean ====
section
/-! DEFINITION. Groups 0x0 to 0x2: integer and address, logic, shift and bit, compare, predicate and select
(04: R81 to R95), with the latencies of 10: R205. -/

namespace Sys2Proof.Machine

/-! ### Group 0x0 (04: R86) -/

def execIadd (h : Hdr) (m : IntMod) (d a b : Operand) (s : State) : Out :=
  compute s (.iadd h m d a b) 4 fun cx l => plain (int2 m.ty m.sat (fun A B => A + B) (cx.a s l) (cx.b s l)) m.ty.tag
def execIsub (h : Hdr) (m : IntMod) (d a b : Operand) (s : State) : Out :=
  compute s (.isub h m d a b) 4 fun cx l => plain (int2 m.ty m.sat (fun A B => A - B) (cx.a s l) (cx.b s l)) m.ty.tag
def execImul (h : Hdr) (m : IntMod) (d a b : Operand) (s : State) : Out :=
  compute s (.imul h m d a b) 4 fun cx l => plain (int2 m.ty false (fun A B => A * B) (cx.a s l) (cx.b s l)) m.ty.tag
def execImulh (h : Hdr) (m : IntMod) (d a b : Operand) (s : State) : Out :=
  compute s (.imulh h m d a b) 4 fun cx l => plain (int2 m.ty false (mulHigh m.ty) (cx.a s l) (cx.b s l)) m.ty.tag
def execImad (h : Hdr) (m : IntMod) (d a b x : Operand) (s : State) : Out :=
  compute s (.imad h m d a b x) 4 fun cx l =>
    plain (int3 m.ty m.sat (fun A B X => A * B + X) (cx.a s l) (cx.b s l) (cx.x s l)) m.ty.tag
def execImin (h : Hdr) (m : IntMod) (d a b : Operand) (s : State) : Out :=
  compute s (.imin h m d a b) 4 fun cx l =>
    plain (int2 m.ty false (fun A B => if A ≤ B then A else B) (cx.a s l) (cx.b s l)) m.ty.tag
def execImax (h : Hdr) (m : IntMod) (d a b : Operand) (s : State) : Out :=
  compute s (.imax h m d a b) 4 fun cx l =>
    plain (int2 m.ty false (fun A B => if A ≤ B then B else A) (cx.a s l) (cx.b s l)) m.ty.tag
def execIabs (h : Hdr) (m : IntMod) (d a : Operand) (s : State) : Out :=
  compute s (.iabs h m d a) 4 fun cx l => plain (int1 m.ty false (fun A => if A < 0 then -A else A) (cx.a s l)) m.ty.tag
def execIneg (h : Hdr) (m : IntMod) (d a : Operand) (s : State) : Out :=
  compute s (.ineg h m d a) 4 fun cx l => plain (int1 m.ty m.sat (fun A => -A) (cx.a s l)) m.ty.tag

/-- The least time of IDIV and IREM (10: R410). -/
def divCycles (t : IntTy) : Nat := if t.width = 64 then 36 else 20
def execIdiv (h : Hdr) (m : IntMod) (d a b : Operand) (s : State) : Out :=
  start s (.idiv h m d a b) fun cx => cx.flagResult s (divCycles m.ty) fun l =>
    plain (int2 m.ty false divTrunc (cx.a s l) (cx.b s l)) m.ty.tag
def execIrem (h : Hdr) (m : IntMod) (d a b : Operand) (s : State) : Out :=
  start s (.irem h m d a b) fun cx => cx.flagResult s (divCycles m.ty) fun l =>
    plain (int2 m.ty false remTrunc (cx.a s l) (cx.b s l)) m.ty.tag
def execIsad (h : Hdr) (m : IntMod) (d a b x : Operand) (s : State) : Out :=
  compute s (.isad h m d a b x) 4 fun cx l =>
    plain (int3 m.ty false (fun A B X => (if A < B then B - A else A - B) + X) (cx.a s l) (cx.b s l) (cx.x s l)) m.ty.tag
def execIaddi (h : Hdr) (m : IntMod) (d a : Operand) (imm : BitVec 27) (s : State) : Out :=
  compute s (.iaddi h m d a imm) 4 fun cx l => plain (int1 m.ty m.sat (fun A => A + imm.toInt) (cx.a s l)) m.ty.tag
def execImuli (h : Hdr) (m : IntMod) (d a : Operand) (imm : BitVec 27) (s : State) : Out :=
  compute s (.imuli h m d a imm) 4 fun cx l => plain (int1 m.ty false (fun A => A * imm.toInt) (cx.a s l)) m.ty.tag
/-- LEA (04: R88). -/
def execLea (h : Hdr) (m : IntMod) (d a b : Operand) (imm : BitVec 15) (s : State) : Out :=
  compute s (.lea h m d a b imm) 4 fun cx l =>
    plain (BitVec.ofInt 64 ((cx.a s l).toNat + leaIndex m.ty (cx.b s l) + imm.toInt)) .u64
/-- IDOT4 (04: R89). -/
def execIdot4 (h : Hdr) (m : IntMod) (d a b x : Operand) (s : State) : Out :=
  compute s (.idot4 h m d a b x) 6 fun cx l => plain (dot4 m.ty (cx.a s l) (cx.b s l) (cx.x s l)) m.ty.tag

/-! ### Group 0x1 (04: R90 to R92) -/

def execAnd (h : Hdr) (d a b : Operand) (s : State) : Out :=
  compute s (.and h d a b) 4 fun cx l => plain (cx.a s l &&& cx.b s l) .raw
def execOr (h : Hdr) (d a b : Operand) (s : State) : Out :=
  compute s (.or h d a b) 4 fun cx l => plain (cx.a s l ||| cx.b s l) .raw
def execXor (h : Hdr) (d a b : Operand) (s : State) : Out :=
  compute s (.xor h d a b) 4 fun cx l => plain (cx.a s l ^^^ cx.b s l) .raw
def execNot (h : Hdr) (d a : Operand) (s : State) : Out :=
  compute s (.not h d a) 4 fun cx l => plain (~~~cx.a s l) .raw
def execAndn (h : Hdr) (d a b : Operand) (s : State) : Out :=
  compute s (.andn h d a b) 4 fun cx l => plain (cx.a s l &&& ~~~cx.b s l) .raw

/-- A shift by the counts in another register's sub-elements (04: R91). -/
def shift2 (t : IntTy) (f : Nat → Nat → Nat → Nat) (a b : Word) : Word :=
  eachSub t.width fun k => f t.width (sub t.width k a) (sub t.width k b)
/-- A shift of every sub-element by one count. -/
def shiftI (t : IntTy) (f : Nat → Nat → Nat → Nat) (a : Word) (n : Nat) : Word :=
  eachSub t.width fun k => f t.width (sub t.width k a) n

def execShl (h : Hdr) (m : IntMod) (d a b : Operand) (s : State) : Out :=
  compute s (.shl h m d a b) 4 fun cx l => plain (shift2 m.ty shlSub (cx.a s l) (cx.b s l)) m.ty.tag
def execShr (h : Hdr) (m : IntMod) (d a b : Operand) (s : State) : Out :=
  compute s (.shr h m d a b) 4 fun cx l => plain (shift2 m.ty shrSub (cx.a s l) (cx.b s l)) m.ty.tag
def execSar (h : Hdr) (m : IntMod) (d a b : Operand) (s : State) : Out :=
  compute s (.sar h m d a b) 4 fun cx l => plain (shift2 m.ty sarSub (cx.a s l) (cx.b s l)) m.ty.tag
def execRol (h : Hdr) (m : IntMod) (d a b : Operand) (s : State) : Out :=
  compute s (.rol h m d a b) 4 fun cx l => plain (shift2 m.ty rolSub (cx.a s l) (cx.b s l)) m.ty.tag
def execShli (h : Hdr) (m : IntMod) (d a : Operand) (imm : BitVec 27) (s : State) : Out :=
  compute s (.shli h m d a imm) 4 fun cx l => plain (shiftI m.ty shlSub (cx.a s l) imm.toNat) m.ty.tag
def execShri (h : Hdr) (m : IntMod) (d a : Operand) (imm : BitVec 27) (s : State) : Out :=
  compute s (.shri h m d a imm) 4 fun cx l => plain (shiftI m.ty shrSub (cx.a s l) imm.toNat) m.ty.tag
def execSari (h : Hdr) (m : IntMod) (d a : Operand) (imm : BitVec 27) (s : State) : Out :=
  compute s (.sari h m d a imm) 4 fun cx l => plain (shiftI m.ty sarSub (cx.a s l) imm.toNat) m.ty.tag

/-- A function of each sub-element. -/
def bits1 (t : IntTy) (f : Nat → Nat → Nat) (a : Word) : Word := eachSub t.width fun k => f t.width (sub t.width k a)

def execPopc (h : Hdr) (m : IntMod) (d a : Operand) (s : State) : Out :=
  compute s (.popc h m d a) 4 fun cx l => plain (bits1 m.ty popcount (cx.a s l)) m.ty.tag
def execClz (h : Hdr) (m : IntMod) (d a : Operand) (s : State) : Out :=
  compute s (.clz h m d a) 4 fun cx l => plain (bits1 m.ty leadingZeros (cx.a s l)) m.ty.tag
def execCtz (h : Hdr) (m : IntMod) (d a : Operand) (s : State) : Out :=
  compute s (.ctz h m d a) 4 fun cx l => plain (bits1 m.ty trailingZeros (cx.a s l)) m.ty.tag
def execBrev (h : Hdr) (m : IntMod) (d a : Operand) (s : State) : Out :=
  compute s (.brev h m d a) 4 fun cx l => plain (bits1 m.ty bitReverse (cx.a s l)) m.ty.tag
def execBfx (h : Hdr) (m : IntMod) (d a b : Operand) (s : State) : Out :=
  compute s (.bfx h m d a b) 4 fun cx l =>
    plain (eachSub m.ty.width fun k => bfxSub m.ty (sub m.ty.width k (cx.packedAt s m.ty.width a l))
      (sub m.ty.width k (cx.packedAt s m.ty.width b l))) .raw
def execBfi (h : Hdr) (m : IntMod) (d a b x : Operand) (s : State) : Out :=
  compute s (.bfi h m d a b x) 4 fun cx l =>
    plain (eachSub m.ty.width fun k =>
      bfiSub m.ty.width (sub m.ty.width k (cx.packedAt s m.ty.width a l)) (sub m.ty.width k (cx.packedAt s m.ty.width b l))
        (sub m.ty.width k (cx.packedAt s m.ty.width x l))) .raw
def execAndi (h : Hdr) (d a : Operand) (imm : BitVec 27) (s : State) : Out :=
  compute s (.andi h d a imm) 4 fun cx l => plain (cx.a s l &&& imm.signExtend 64) .raw
def execOri (h : Hdr) (d a : Operand) (imm : BitVec 27) (s : State) : Out :=
  compute s (.ori h d a imm) 4 fun cx l => plain (cx.a s l ||| imm.signExtend 64) .raw
def execXori (h : Hdr) (d a : Operand) (imm : BitVec 27) (s : State) : Out :=
  compute s (.xori h d a imm) 4 fun cx l => plain (cx.a s l ^^^ imm.signExtend 64) .raw

/-! ### Group 0x2 (04: R93 to R95) -/

/-- The comparison of sub-element 0 (02: R46). -/
def cmp0 (t : IntTy) (c : Cond) (a b : Word) : Bool := intCond c (intVal t (sub t.width 0 a)) (intVal t (sub t.width 0 b))

def execIsetp (h : Hdr) (m : ICondMod) (d a b x : Operand) (s : State) : Out :=
  start s (.isetp h m d a b x) fun cx => cx.predResult s 2 fun l => cmp0 m.ty m.cond (cx.a s l) (cx.b s l) && cx.pred x l
def execFsetp (h : Hdr) (m : FCondMod) (d a b x : Operand) (s : State) : Out :=
  start s (.fsetp h m d a b x) fun cx => cx.predResult s 2 fun l =>
    fCond m.ty m.cond (sub m.ty.width 0 (cx.a s l)) (sub m.ty.width 0 (cx.b s l)) && cx.pred x l
def execIsetpi (h : Hdr) (m : ICondMod) (d a : Operand) (imm : BitVec 27) (s : State) : Out :=
  start s (.isetpi h m d a imm) fun cx => cx.predResult s 2 fun l =>
    intCond m.cond (intVal m.ty (sub m.ty.width 0 (cx.a s l))) imm.toInt
def execPand (h : Hdr) (d a b : Operand) (s : State) : Out :=
  start s (.pand h d a b) fun cx => cx.predResult s 2 fun l => cx.pred a l && cx.pred b l
def execPor (h : Hdr) (d a b : Operand) (s : State) : Out :=
  start s (.por h d a b) fun cx => cx.predResult s 2 fun l => cx.pred a l || cx.pred b l
def execPxor (h : Hdr) (d a b : Operand) (s : State) : Out :=
  start s (.pxor h d a b) fun cx => cx.predResult s 2 fun l => cx.pred a l ^^ cx.pred b l
def execPnot (h : Hdr) (d a : Operand) (s : State) : Out :=
  start s (.pnot h d a) fun cx => cx.predResult s 2 fun l => !cx.pred a l
def execSel (h : Hdr) (d a b x : Operand) (s : State) : Out :=
  compute s (.sel h d a b x) 4 fun cx l =>
    let r := if cx.pred x l then cx.readAt s .untyped a 0 l else cx.readAt s .untyped b 0 l
    (r.1, r.2, 0)

/-- The lanes' bits of a predicate as the frame holds them; exited lanes give 0 (04: R95). -/
def Cx.predMask (cx : Cx) (o : Operand) : LaneMask := maskOf fun n => !(cx.w.lane n).isExited && cx.pred o n
/-- The mask one lane receives: its own half in bits 15 to 0 in the 16-lane mode. -/
def halfOf (compat : Bool) (m : LaneMask) (l : Nat) : Nat :=
  if compat then (if l < 16 then m.toNat % 2 ^ 16 else m.toNat / 2 ^ 16) else m.toNat

def execPmask (h : Hdr) (d a : Operand) (s : State) : Out :=
  compute s (.pmask h d a) 4 fun cx l => plain (BitVec.ofNat 64 (halfOf (s.compat16 cx.w) (cx.predMask a) l)) .u64
def execPsetm (h : Hdr) (d a : Operand) (s : State) : Out :=
  start s (.psetm h d a) fun cx => cx.predResult s 2 fun l =>
    (cx.a s l).getLsbD (if s.compat16 cx.w then l % 16 else l)

end Sys2Proof.Machine
end

