-- ==== Sys2Proof/Machine/Vector.lean ====
section
/-! DEFINITION. Groups 0x5 to 0x8: floating point, conversion, tags, cross-lane instructions (05: R114 to
R130), and CKCMP and CKFIX (14: R258, R259). -/

namespace Sys2Proof.Machine

/-- A floating-point result with its tag. -/
def tagged (r : Word × Events) (t : Tag) : Word × Tag × Events := (r.1, t, r.2)

/-- The latency of the simple ops of group 0x5 (10: R205). -/
def fpLat (t : FTy) : Nat := match t with | .f64 => 8 | _ => 4

def fpOp1 (s : State) (i : Instr) (lat : Nat) (t : FTy) (f : Nat → FRes) : Out :=
  compute s i lat fun cx l => tagged (flt1 t f (cx.a s l)) t.tag
def fpOp2 (s : State) (i : Instr) (lat : Nat) (t : FTy) (f : Nat → Nat → FRes) : Out :=
  compute s i lat fun cx l => tagged (flt2 t f (cx.a s l) (cx.b s l)) t.tag
def fpOp3 (s : State) (i : Instr) (lat : Nat) (t : FTy) (f : Nat → Nat → Nat → FRes) : Out :=
  compute s i lat fun cx l => tagged (flt3 t f (cx.a s l) (cx.b s l) (cx.x s l)) t.tag
/-- A function op: 12 cycles for .F32, flag-class for .F64 (10: R205, R206, R410). -/
def fpFun1 (s : State) (i : Instr) (t : FTy) (f : Nat → FRes) : Out :=
  match t with
  | .f64 => start s i fun cx => cx.flagResult s 24 fun l => tagged (flt1 t f (cx.a s l)) t.tag
  | _ => fpOp1 s i 12 t f

/-! ### Group 0x5 (05: R116 to R120) -/

def execFadd (h : Hdr) (m : FpMod) (d a b : Operand) (s : State) : Out :=
  fpOp2 s (.fadd h m d a b) (fpLat m.ty) m.ty (fAdd m.ty m.rm)
def execFmul (h : Hdr) (m : FpMod) (d a b : Operand) (s : State) : Out :=
  fpOp2 s (.fmul h m d a b) (fpLat m.ty) m.ty (fMul m.ty m.rm)
def execFfma (h : Hdr) (m : FpMod) (d a b x : Operand) (s : State) : Out :=
  fpOp3 s (.ffma h m d a b x) (fpLat m.ty) m.ty (fFma m.ty m.rm)
def execFmin (h : Hdr) (m : FpMod) (d a b : Operand) (s : State) : Out :=
  fpOp2 s (.fmin h m d a b) (fpLat m.ty) m.ty (fMinMax m.ty false)
def execFmax (h : Hdr) (m : FpMod) (d a b : Operand) (s : State) : Out :=
  fpOp2 s (.fmax h m d a b) (fpLat m.ty) m.ty (fMinMax m.ty true)
def execFabs (h : Hdr) (m : FpMod) (d a : Operand) (s : State) : Out :=
  fpOp1 s (.fabs h m d a) (fpLat m.ty) m.ty (fAbs m.ty)
def execFneg (h : Hdr) (m : FpMod) (d a : Operand) (s : State) : Out :=
  fpOp1 s (.fneg h m d a) (fpLat m.ty) m.ty (fNeg m.ty)
def execFrcp (h : Hdr) (m : FpMod) (d a : Operand) (s : State) : Out := fpFun1 s (.frcp h m d a) m.ty (fRcp m.ty)
def execFsqrt (h : Hdr) (m : FpMod) (d a : Operand) (s : State) : Out := fpFun1 s (.fsqrt h m d a) m.ty (fSqrt m.ty m.rm)
def execFrsq (h : Hdr) (m : FpMod) (d a : Operand) (s : State) : Out := fpFun1 s (.frsq h m d a) m.ty (fRsq m.ty)
def execFexp2 (h : Hdr) (m : FpMod) (d a : Operand) (s : State) : Out := fpFun1 s (.fexp2 h m d a) m.ty (fExp2 m.ty)
def execFlog2 (h : Hdr) (m : FpMod) (d a : Operand) (s : State) : Out := fpFun1 s (.flog2 h m d a) m.ty (fLog2 m.ty)
def execFsin (h : Hdr) (m : FpMod) (d a : Operand) (s : State) : Out := fpFun1 s (.fsin h m d a) m.ty (fSin m.ty)
def execFcos (h : Hdr) (m : FpMod) (d a : Operand) (s : State) : Out := fpFun1 s (.fcos h m d a) m.ty (fCos m.ty)
def execFdiv (h : Hdr) (m : FpMod) (d a b : Operand) (s : State) : Out :=
  match m.ty with
  | .f64 => start s (.fdiv h m d a b) fun cx => cx.flagResult s 32 fun l =>
      tagged (flt2 m.ty (fDiv m.ty m.rm) (cx.a s l) (cx.b s l)) m.ty.tag
  | _ => fpOp2 s (.fdiv h m d a b) 12 m.ty (fDiv m.ty m.rm)
def execFclass (h : Hdr) (m : FpMod) (d a : Operand) (s : State) : Out :=
  compute s (.fclass h m d a) (fpLat m.ty) fun cx l =>
    plain (eachSub m.ty.width fun k => fClass m.ty (sub m.ty.width k (cx.a s l)))
      (match m.ty with | .f64 => .u64 | _ => .u32)

/-! ### CKCMP and CKFIX -/

/-- Register `n` of a class 00 operand. -/
def Operand.vreg (o : Operand) : Nat := match o with | .v n => n.toNat | _ => 0
/-- Element (i, j) of a tile at register `base`: sub-element j mod 2 of register base + j / 2 of lane i
(14: R245). -/
def Wave.tileElem (w : Wave) (base i j : Nat) : Nat := sub 32 (j % 2) (w.vread (base + j / 2) i).1
/-- The checksums of index i at register `base`. -/
def Wave.sumsAt (w : Wave) (base i : Nat) : Sums :=
  let r := (w.vread base i).1
  let c := (w.vread (base + 1) i).1
  ⟨sub 32 0 r, sub 32 1 r, sub 32 0 c, sub 32 1 c⟩

def execCkcmp (h : Hdr) (d a b : Operand) (s : State) : Out :=
  compute s (.ckcmp h d a b) 8 fun cx i =>
    let c := cx.w.sumsAt (Operand.vreg b) i
    let e := residue ((List.range 32).map fun j => cx.w.tileElem (Operand.vreg a) i j) c.rho
    let g := residue ((List.range 32).map fun l => cx.w.tileElem (Operand.vreg a) l i) c.gam
    (pack 32 [e.1, g.1], .f32, e.2 ||| g.2)

/-- The one flagged row and column that CKFIX corrects (14: R259). -/
def Cx.fixPlace (cx : Cx) (s : State) : Option (Nat × Nat) :=
  let tol := sub 32 0 (cx.x s cx.low)
  let res := fun l k => sub 32 k (if (cx.w.lane l).isExited then 0 else cx.a s l)
  let rows := (List.range 32).filter fun i => flagged tol (res i 0) (cx.w.sumsAt (Operand.vreg cx.v.b) i).rhoAbs
  let cols := (List.range 32).filter fun j => flagged tol (res j 1) (cx.w.sumsAt (Operand.vreg cx.v.b) j).gamAbs
  match rows, cols with
  | [i], [j] => if cx.ex.getLsbD i then some (i, j) else none
  | _, _ => none

/-- C[i][j] less its row residue, rounded. -/
def Cx.fixValue (cx : Cx) (s : State) (i j : Nat) : FRes :=
  fAdd .f32 .rne (cx.w.tileElem (Operand.vreg cx.v.d) i j) (fNeg .f32 (sub 32 0 (cx.a s i))).1

def execCkfix (h : Hdr) (d a b x : Operand) (s : State) : Out :=
  start s (.ckfix h d a b x) fun cx =>
    match cx.fixPlace s with
    | none =>
      cx.advance ((cx.issue s noEvents).pend cx.wi cx.ex cx.v.hdr.setFlag (some (s.cyc + 8)) false [])
    | some (i, j) =>
      let n := Operand.vreg d + j / 2
      let r := cx.fixValue s i j
      let old := (cx.w.vread n i).1
      let v := if j % 2 = 0 then pack 32 [r.1, sub 32 1 old] else pack 32 [sub 32 0 old, r.1]
      cx.advance ((cx.issue s fun l => if l = i then r.2 else 0).pend cx.wi cx.ex cx.v.hdr.setFlag (some (s.cyc + 8)) false
        [⟨i, .v n, v, .f32, false⟩])

/-! ### Group 0x6 -/

def execFaddH (h : Hdr) (m : FpMod) (d a b : Operand) (s : State) : Out :=
  fpOp2 s (.faddH h m d a b) 4 m.ty (fAdd m.ty m.rm)
def execFmulH (h : Hdr) (m : FpMod) (d a b : Operand) (s : State) : Out :=
  fpOp2 s (.fmulH h m d a b) 4 m.ty (fMul m.ty m.rm)
def execFfmaH (h : Hdr) (m : FpMod) (d a b x : Operand) (s : State) : Out :=
  fpOp3 s (.ffmaH h m d a b x) 4 m.ty (fFma m.ty m.rm)
def execFminH (h : Hdr) (m : FpMod) (d a b : Operand) (s : State) : Out :=
  fpOp2 s (.fminH h m d a b) 4 m.ty (fMinMax m.ty false)
def execFmaxH (h : Hdr) (m : FpMod) (d a b : Operand) (s : State) : Out :=
  fpOp2 s (.fmaxH h m d a b) 4 m.ty (fMinMax m.ty true)
def execFabsH (h : Hdr) (m : FpMod) (d a : Operand) (s : State) : Out := fpOp1 s (.fabsH h m d a) 4 m.ty (fAbs m.ty)
def execFnegH (h : Hdr) (m : FpMod) (d a : Operand) (s : State) : Out := fpOp1 s (.fnegH h m d a) 4 m.ty (fNeg m.ty)
def execFrcpH (h : Hdr) (m : FpMod) (d a : Operand) (s : State) : Out := fpOp1 s (.frcpH h m d a) 8 m.ty (fRcp m.ty)
def execFexp2H (h : Hdr) (m : FpMod) (d a : Operand) (s : State) : Out := fpOp1 s (.fexp2H h m d a) 8 m.ty (fExp2 m.ty)
def execFdot2 (h : Hdr) (m : FpMod) (d a b x : Operand) (s : State) : Out :=
  compute s (.fdot2 h m d a b x) 6 fun cx l =>
    let A := cx.a s l
    let B := cx.b s l
    tagged (eachF 32 fun k => fDot2 m.ty m.rm (sub 16 (2 * k) A) (sub 16 (2 * k) B) (sub 16 (2 * k + 1) A)
      (sub 16 (2 * k + 1) B) (sub 32 k (cx.x s l))) .f32

/-! ### Group 0x7 -/

/-- One sub-element of CVT (05: R122). -/
def cvtSub (m : CvtMod) (x : Nat) : FRes :=
  match m.src.posTy, m.dst.posTy with
  | .int t, .int u => (fit u m.sat (intVal t x), evNone)
  | .int t, .flt u => intToFloat u m.rm (intVal t x)
  | .flt t, .flt u => floatToFloat t u m.rm x
  | .flt t, .int u => floatToInt t u m.rm x
  | _, _ => (0, evNone)

/-- CVT's result (05: R123): sub-elements beyond the source's count are zero. -/
def cvtWord (m : CvtMod) (a : Word) : Word × Events :=
  let ws := m.src.posTy.width
  let wd := m.dst.posTy.width
  eachF wd fun i => if i < 64 / ws then cvtSub m (sub ws i a) else (0, evNone)

def execCvt (h : Hdr) (m : CvtMod) (d a : Operand) (s : State) : Out :=
  compute s (.cvt h m d a) 4 fun cx l => tagged (cvtWord m (cx.a s l)) m.dst

/-- The blocks PACKK forms from a run of registers of all lanes (05: R124). -/
def Wave.packBlocks (w : Wave) (m : PackMod) (base : Nat) : List PackedBlock :=
  (List.range m.fmt.blocks).map fun k =>
    packBlock m.fmt (m.dist.toNat + 2) ((List.range 32).map fun i => sub 32 (k % 2) (w.vread (base + k / 2) i).1)

def execPackk (h : Hdr) (m : PackMod) (d a : Operand) (s : State) : Out :=
  start s (.packk h m d a) fun cx =>
    let bs := cx.w.packBlocks m (Operand.vreg a)
    let ev := bs.foldl (fun e b => e ||| b.ev) 0
    let elems := fun i => pack (kWidth m.fmt) (bs.map fun b => b.elems.getD i 0)
    let pair := fun i => match bs[i]? with
      | some b => BitVec.ofNat 64 (b.e1 * 256 + b.e0)
      | none => 0
    cx.advance ((cx.issue s fun _ => ev).pend cx.wi cx.ex cx.v.hdr.setFlag (some (s.cyc + 12)) false
      (cx.writes d 0 (fun i => (elems i, .k)) false ++ cx.writes d 1 (fun i => (pair i, .kexp)) false))

/-- Block `k`'s element of UNPKK in a lane, rounded to the destination format (05: R125). -/
def Wave.unpack1 (w : Wave) (m : UnpackMod) (a : Word) (bReg k : Nat) : FRes :=
  let e := (w.vread bReg k).1.toNat
  roundFV m.ty (kValue m.fmt (sub (kWidth m.fmt) k a) (e % 256) (e / 256 % 256))

def execUnpkk (h : Hdr) (m : UnpackMod) (d a b : Operand) (s : State) : Out :=
  start s (.unpkk h m d a b) fun cx =>
    let per := 64 / m.ty.width
    let one := fun l k => cx.w.unpack1 m (cx.a s l) (Operand.vreg b) k
    let reg := fun r l => pack m.ty.width ((List.range per).map fun j => (one l (r * per + j)).1)
    let ev := fun l => (List.range m.fmt.blocks).foldl (fun e k => e ||| (one l k).2) 0
    cx.advance ((cx.issue s ev).pend cx.wi cx.ex cx.v.hdr.setFlag (some (s.cyc + 12)) false
      ((List.range m.run).flatMap fun r => cx.writes d r (fun l => (reg r l, m.ty.tag)) false))

def execFtag (h : Hdr) (d a : Operand) (imm : Tag) (s : State) : Out :=
  compute s (.ftag h d a imm) 4 fun cx l => plain (cx.a s l) imm
def execFtagrd (h : Hdr) (d a : Operand) (s : State) : Out :=
  compute s (.ftagrd h d a) 4 fun cx l => plain (BitVec.ofNat 64 (cx.readAt s .untyped a 0 l).2.code) .u64

/-! ### Group 0x8 -/

/-- SHFL in one lane with its selector. Operand a is read as in the source lane: %lane gives the source lane's number,
where R30 (01) speaks of the executing thread (log entry 82). -/
def Cx.shuffle (cx : Cx) (s : State) (m : ShMod) (l sel : Nat) : Word × Tag × Events :=
  let w := m.width.bits
  let src := fun k => shflFrom (s.compat16 cx.w) m l k sel
  (eachSub w fun k => sub w (src k).2 (cx.packedAt s w cx.v.a (src k).1),
    (cx.readAt s .untyped cx.v.a 0 (src 0).1).2, 0)

def execShfl (h : Hdr) (m : ShMod) (d a b : Operand) (s : State) : Out :=
  compute s (.shfl h m d a b) 4 fun cx l => cx.shuffle s m l (cx.b s l).toNat
def execShfli (h : Hdr) (m : ShMod) (d a : Operand) (imm : BitVec 10) (s : State) : Out :=
  compute s (.shfli h m d a imm) 4 fun cx l => cx.shuffle s m l imm.toNat

/-- The executing lanes whose predicate is 1. -/
def Cx.voteMask (cx : Cx) (o : Operand) : LaneMask := maskOf fun n => cx.ex.getLsbD n && cx.pred o n

/-- VOTE (05: R129), over each half by itself in the 16-lane mode (18). -/
def execVote (h : Hdr) (m : VoteMod) (d a : Operand) (s : State) : Out :=
  start s (.vote h m d a) fun cx =>
    let compat := s.compat16 cx.w
    let yes := fun l => halfOf compat (cx.voteMask a) l
    let all := fun l => halfOf compat cx.ex l
    match m with
    | .all => cx.predResult s 2 fun l => decide (yes l = all l)
    | .any => cx.predResult s 2 fun l => decide (yes l ≠ 0)
    | .uni => cx.predResult s 2 fun l => decide (yes l = all l ∨ yes l = 0)
    | .ballot => cx.result s 4 fun l => plain (BitVec.ofNat 64 (yes l)) .u64

/-- Sub-element `k` of every lane; lanes that do not execute give the identity (03: R78). -/
def Cx.redInputs (cx : Cx) (s : State) (m : RedMod) (k : Nat) : List Nat :=
  (List.range 32).map fun l =>
    if cx.ex.getLsbD l then sub m.ty.posTy.width k (cx.a s l) else redIdentity m.op m.ty.posTy

/-- The lanes of the tree a lane belongs to: its first lane and the tree's levels (03: R79). -/
def treeOf (compat : Bool) (l : Nat) : Nat × Nat := if compat then (l / 16 * 16, 4) else (0, 5)

def Cx.redTree (cx : Cx) (s : State) (m : RedMod) (l k : Nat) : List Nat :=
  let t := treeOf (s.compat16 cx.w) l
  ((cx.redInputs s m k).drop t.1).take (2 ^ t.2)

def RedTy.tag (t : RedTy) : Tag := match t.posTy with | .int u => u.tag | .flt u => u.tag | _ => .raw

def execRed (h : Hdr) (m : RedMod) (d a : Operand) (s : State) : Out :=
  compute s (.red h m d a) 10 fun cx l =>
    tagged (eachF m.ty.posTy.width fun k =>
      redRoot (redNode m.op m.ty.posTy) (treeOf (s.compat16 cx.w) l).2 (cx.redTree s m l k)) (RedTy.tag m.ty)

/-- One sub-element of a scan in a lane; `excl` for SCANX. -/
def Cx.scan1 (cx : Cx) (s : State) (m : RedMod) (excl : Bool) (l k : Nat) : FRes :=
  let t := treeOf (s.compat16 cx.w) l
  let r := scanAll (redNode m.op m.ty.posTy) t.2 (cx.redTree s m l k)
  let i := l - t.1
  (if excl then (if i = 0 then redIdentity m.op m.ty.posTy else r.1.getD (i - 1) 0) else r.1.getD i 0, r.2)

def execScan (h : Hdr) (m : RedMod) (d a : Operand) (s : State) : Out :=
  compute s (.scan h m d a) 10 fun cx l =>
    tagged (eachF m.ty.posTy.width fun k => cx.scan1 s m false l k) (RedTy.tag m.ty)
def execScanx (h : Hdr) (m : RedMod) (d a : Operand) (s : State) : Out :=
  compute s (.scanx h m d a) 10 fun cx l =>
    tagged (eachF m.ty.posTy.width fun k => cx.scan1 s m true l k) (RedTy.tag m.ty)

end Sys2Proof.Machine
end

