-- ==== Sys2Proof/Machine/Sync.lean ====
section
/-! DEFINITION. Group 0xB: copies, SLEEP, watches, barriers, group operations, numbered barriers, pipes and
COMMIT (06: R146 to R157; 16: R265). -/

namespace Sys2Proof.Machine

/-- The executing lanes that do not stay at the instruction go on, with those whose guard fails. -/
def Cx.advanceBut (cx : Cx) (s : State) (stay : LaneMask) : State :=
  s.modWave cx.wi fun w => w.modLanes (cx.all &&& ~~~stay) Lane.next

/-- Some executing lanes begin to wait inside the instruction, each owing its own result. -/
def Cx.waitInside (cx : Cx) (s : State) (m : LaneMask) (k : Nat → Inside) (writes : Nat → List RegWrite) : State :=
  (lanesOf m).foldl (fun st l => st.enterInside cx.wi l cx.i (k l) (writes l) cx.v.hdr.setFlag) s

/-! ### CPY (06: R146) -/

/-- Copies a core's engine has accepted or that are on their way to it. -/
def State.copiesOf (s : State) (core : Nat) : List Copy := SMap.get [] s.copies core
def State.copyLoad (s : State) (core : Nat) : Nat :=
  (s.copiesOf core).length + (s.reqs.filter fun r => decide (r.core = core) && (match r.kind with | .copy _ _ _ => true | _ => false)).length

def Cx.copy (cx : Cx) (s : State) : State :=
  let s1 := cx.issue s noEvents
  let s2 := s1.pend cx.wi cx.ex cx.v.hdr.setFlag none true (cx.writes cx.v.d 0 (fun _ => (0, .u64)) false)
  let s3 := (s2.request cx.wi cx.ex cx.w.core (some .dev) none
    (.copy (cx.a s cx.low).toNat (cx.b s cx.low).toNat s1.fresh)).markEffects cx.w.block
  cx.advance s3

def execCpy (h : Hdr) (d a b : Operand) (s : State) : Out :=
  startOwn s (.cpy h d a b)
    (fun cx => [cx.aligned (fun _ => (cx.a s cx.low).toNat) 64, cx.aligned (fun _ => (cx.b s cx.low).toNat) 16]) fun cx =>
    if cx.ex = 0 then cx.advance (cx.issue s noEvents)
    else if 16 ≤ s.copyLoad cx.w.core then cx.block s cx.ex .copyFull fun c s => c.advance (c.issue s noEvents)
    else cx.copy s

/-! ### SLEEP (06: R149; 21: R415) -/

/-- SLEEP at or after its wake time: the object's STATE is read with a .dev acquire, whatever it holds. -/
def Cx.wakeCheck (cx : Cx) (s : State) : State :=
  let go := cx.advance (cx.issue s noEvents)
  if cx.v.b = .none then go
  else
    let va := (cx.b s cx.low).toNat
    cx.confirm s va 16 .load fun pas =>
      let st := leNat (s.loadBytes cx.w cx.wi cx.low va (pas.headD 0) 8 (s.cyc + 1)) % 4
      let s := s.modWave cx.wi fun w => w.modLanes cx.ex fun l => { l with acquired := s.cyc }
      if st = 0 then s.raise cx.wi ⟨cx.ex, 0x33, true, [cx.a s cx.low, BitVec.ofNat 64 va, BitVec.ofNat 64 s.cyc]⟩
      else go.modWave cx.wi fun w => w.modLanes cx.ex fun l => { l with acquired := s.cyc }

def execSleep (h : Hdr) (a b : Operand) (s : State) : Out :=
  start s (.sleep h a b) fun cx =>
    if cx.ex = 0 then cx.advance (cx.issue s noEvents)
    else if s.cyc < (cx.a s cx.low).toNat then
      cx.block s cx.ex (.sleep (cx.a s cx.low).toNat) fun c s => c.advance (c.issue s noEvents)
    else cx.wakeCheck s

/-! ### MONITOR and MWAIT (06: R150, R151) -/

def execMonitor (h : Hdr) (d a b : Operand) (imm : BitVec 15) (s : State) : Out :=
  startOwn s (.monitor h d a b imm) (fun cx => [cx.aligned (cx.memAddr s imm) 8]) fun cx =>
    cx.access s (.load 8 false 3 true) (cx.memAddr s imm) fun _ => []

/-- Why a lane's MWAIT would continue now: 3 no watch, 0 a write, 1 the timeout. -/
def Lane.mwaitReason (l : Lane) (cyc : Nat) (timeout : Option Nat) : Option Nat :=
  match l.watch with
  | none => some 3
  | some w =>
    if w.hit then some 0
    else match timeout with
      | some t => if t ≤ cyc then some 1 else none
      | none => none

/-- A lane leaves MWAIT with a reason, disarmed. -/
def State.mwaitLeave (s : State) (wi l reason : Nat) : State :=
  (s.leaveInside wi l fun _ => BitVec.ofNat 64 reason).modWave wi fun w => w.modLane l fun x => { x with watch := none }

def execMwait (h : Hdr) (d a : Operand) (s : State) : Out :=
  start s (.mwait h d a) fun cx =>
    let timeout := fun l => if a = .none then none else some (cx.a s l).toNat
    let s1 := cx.issue s noEvents
    let s2 := cx.waitInside s1 cx.ex (fun l => .mwait (timeout l)) fun l => destOf d 0 l (decide (l = cx.low)) .u64
    let s3 := cx.advanceBut s2 cx.ex
    (lanesOf cx.ex).foldl (fun st l =>
      match (cx.w.lane l).mwaitReason s.cyc (timeout l) with
      | some r => st.mwaitLeave cx.wi l r
      | none => st) s3

/-! ### Block barriers (06: R152; 11: R210) -/

/-- BARRIER_OVERARRIVE. -/
def Cx.overarrive (cx : Cx) (k : Nat) : Option Trap :=
  cx.check 0x31 fun l => if (cx.w.lane l).dropped.getLsbD k then some [BitVec.ofNat 64 k] else none

/-- Arrivals at a barrier: the lanes wait; the release test follows at the end of the cycle. -/
def execBar (h : Hdr) (imm : BitVec 3) (s : State) : Out :=
  startOwn s (.bar h imm) (fun cx => [cx.overarrive imm.toNat]) fun cx =>
    let k := imm.toNat
    let s1 := (cx.issue s noEvents).modBlock cx.w.block fun b =>
      b.setBarrier k ⟨(b.barrier k).expected, (b.barrier k).arrived + (lanesOf cx.ex).length⟩
    cx.advanceBut (cx.waitInside s1 cx.ex (fun _ => .bar k) fun _ => []) cx.ex
def execBardrop (h : Hdr) (imm : BitVec 3) (s : State) : Out :=
  startOwn s (.bardrop h imm) (fun cx => [cx.overarrive imm.toNat]) fun cx =>
    let k := imm.toNat
    let s1 := (cx.issue s noEvents).modBlock cx.w.block fun b =>
      b.setBarrier k ⟨(b.barrier k).expected - (lanesOf cx.ex).length, (b.barrier k).arrived⟩
    let s2 := s1.modWave cx.wi fun w => w.modLanes cx.ex fun l => { l with dropped := l.dropped ||| BitVec.ofNat 8 (2 ^ k) }
    cx.advance s2

/-! ### Groups (06: R153; 10: R208; 18: R304) -/

/-- The wave is a member of a group-table entry. -/
def State.isMember (s : State) (w : Wave) (g : Nat) : Bool :=
  match s.cartOf w, s.blocks[w.block]? with
  | some c, some b => c.groups.any fun r =>
      decide (r.entry = g ∧ r.block = b.index ∧ r.wfirst ≤ w.number ∧ w.number ≤ r.wlast)
  | _, _ => false
def Cx.notMember (cx : Cx) (s : State) (g : Nat) : Option Trap :=
  cx.check 0x32 fun _ => if g < 256 ∧ s.isMember cx.w g then none else some [BitVec.ofNat 64 g]

/-- A lane waits in GBAR or GRED at an entry. -/
def Lane.atGroup (g : Nat) (l : Lane) : Bool :=
  match l.status with
  | .inside (.gbar k) => decide (k = g)
  | .inside (.gred k _) => decide (k = g)
  | _ => false
/-- The entry at which a lane waits. -/
def Lane.groupEntry (l : Lane) : Option Nat :=
  match l.status with | .inside (.gbar k) => some k | .inside (.gred k _) => some k | _ => none
/-- Every live lane of the wave has issued the instance. -/
def Wave.groupReady (w : Wave) (g : Nat) : Bool := w.lanes.all fun l => l.isExited || l.atGroup g

/-- The GRED a wave waits in: its operation. -/
def Wave.gredMod (w : Wave) (g : Nat) : Option RedMod :=
  (w.lanes ++ w.savedLanes).findSome? fun l => if l.atGroup g then (match l.insn with | some (.gred _ m _ _ _) => some m | _ => none) else none

/-- Each lane's operand of a GRED; the others give the identity. -/
def Wave.gredInputs (w : Wave) (g : Nat) (m : RedMod) (k : Nat) : List Nat :=
  (List.range 32).map fun l =>
    match (w.lane l).status with
    | .inside (.gred e v) => if e = g then sub m.ty.posTy.width k v else redIdentity m.op m.ty.posTy
    | _ => redIdentity m.op m.ty.posTy

/-- The roots a wave contributes, for each half under the compatibility bit, and their events. -/
def Wave.gredRoots (w : Wave) (compat : Bool) (g : Nat) (m : RedMod) : List Nat × Events :=
  let rs := (if compat then [0, 16] else [0]).flatMap fun base =>
    (List.range (64 / m.ty.posTy.width)).map fun k =>
      let t := treeOf compat base
      redRoot (redNode m.op m.ty.posTy) t.2 (((w.gredInputs g m k).drop base).take (2 ^ t.2))
  (rs.map (·.1), rs.foldl (fun e r => e ||| r.2) 0)

/-- The arrival of a wave has been made at the instance under way. -/
def State.hasArrived (s : State) (wi : Nat) (launch g : Nat) : Bool :=
  (s.reqs.any fun r => decide (r.wave = wi) && (match r.kind with | .arrive e _ _ => decide (e = g) | _ => false))
    || s.groupStates.any fun x => decide (x.launch = launch ∧ x.entry = g) && x.arrived.any fun a => decide (a.1 = wi)

/-- Makes a wave's arrival request once every live lane has issued the instance. -/
def State.groupArrive (s : State) (wi g : Nat) : State :=
  match s.wave? wi with
  | none => s
  | some w =>
    if (w.lanes.any (Lane.atGroup g)) && w.groupReady g && !s.hasArrived wi w.launch g then
      let r := match w.gredMod g with
        | some m => w.gredRoots (s.compat16 w) g m
        | none => ([], 0)
      s.request wi (w.lanesWhere (Lane.atGroup g)) w.core (some .clu) none (.arrive g r.1 r.2)
    else s

/-- The arrivals of a wave that are due: an exit may have left the lanes that wait as the only live ones (06: R153). -/
def State.groupsArrive (s : State) (wi : Nat) : State :=
  match s.wave? wi with
  | none => s
  | some w => (w.lanes.filterMap Lane.groupEntry).eraseDups.foldl (fun st g => st.groupArrive wi g) s

def execGbar (h : Hdr) (imm : BitVec 8) (s : State) : Out :=
  startOwn s (.gbar h imm) (fun cx => [cx.notMember s imm.toNat]) fun cx =>
    let s1 := cx.waitInside (cx.issue s noEvents) cx.ex (fun _ => .gbar imm.toNat) fun _ => []
    (cx.advanceBut s1 cx.ex).groupArrive cx.wi imm.toNat
def execGred (h : Hdr) (m : RedMod) (d a b : Operand) (s : State) : Out :=
  startOwn s (.gred h m d a b) (fun cx => [cx.notMember s (cx.b s cx.low).toNat]) fun cx =>
    let g := (cx.b s cx.low).toNat
    let s1 := cx.waitInside (cx.issue s noEvents) cx.ex (fun l => .gred g (cx.a s l)) fun l =>
      destOf d 0 l (decide (l = cx.low)) (RedTy.tag m.ty)
    (cx.advanceBut s1 cx.ex).groupArrive cx.wi g

/-! ### Numbered barriers (06: R154; 16: R265) -/

def Lane.aheadOf (l : Lane) (j : Nat) : Nat := SMap.get 0 l.ahead j
def Lane.creditOf (l : Lane) (j : Nat) : Nat := SMap.get 0 l.credit j

def Cx.nbArrive (cx : Cx) (s : State) (j : Nat) : State :=
  let s1 := (cx.issue s noEvents).modWave cx.wi fun w => w.modLanes cx.ex fun l =>
    { l with ahead := SMap.set 0 l.ahead j (l.aheadOf j + 1) }
  (cx.advance s1).nbSettle cx.wi
def execNbarrive (h : Hdr) (imm : BitVec 4) (s : State) : Out :=
  start s (.nbarrive h imm) fun cx =>
    let j := imm.toNat
    let full := maskOf fun l => cx.ex.getLsbD l && decide (3 ≤ (cx.w.lane l).aheadOf j)
    if full = 0 then cx.nbArrive s j else cx.block s full (.ahead j) fun c s => c.nbArrive s j

/-- A lane passes NBWAIT j. -/
def Lane.takeCredit (l : Lane) (j : Nat) : Lane := { l with credit := SMap.set 0 l.credit j (l.creditOf j - 1) }
def execNbwait (h : Hdr) (imm : BitVec 4) (s : State) : Out :=
  start s (.nbwait h imm) fun cx =>
    let j := imm.toNat
    let go := maskOf fun l => cx.ex.getLsbD l && decide (0 < (cx.w.lane l).creditOf j)
    let stay := cx.ex &&& ~~~go
    let s1 := cx.issue s noEvents
    let s2 := s1.pend cx.wi go cx.v.hdr.setFlag (some s.cyc) true []
    let s3 := s2.modWave cx.wi fun w => w.modLanes go fun l => l.takeCredit j
    cx.advanceBut (cx.waitInside s3 stay (fun _ => .nbwait j) fun _ => []) stay

/-! ### Pipes (06: R155, R156; 19: R321, R322) -/

/-- The pipe a wave's index is bound to for a role, by its place in the table of pipes. -/
def State.pipeOf (s : State) (w : Wave) (recv : Bool) (i : Nat) : Option Nat :=
  match s.launchOf w with
  | none => none
  | some L =>
    match L.gang, L.cart.pipes.find? fun p => decide (p.index = i) && (p.recv == recv) with
    | some g, some b => (List.range s.pipes.length).find? fun k =>
        match s.pipes[k]? with
        | some p => decide (p.tenant = L.tenant ∧ p.gang = g ∧ p.symbol = b.symbol)
        | none => false
    | _, _ => none
def State.pipe (s : State) (k : Nat) : Pipe := s.pipes.getD k ⟨0, 0, 0, 0, [], none⟩
def State.modPipe (s : State) (k : Nat) (f : Pipe → Pipe) : State := { s with pipes := s.pipes.modify k f }

/-- A launch of the pipe's gang binds it for a role and has a block that has not ended. -/
def State.roleLive (s : State) (p : Pipe) (recv : Bool) : Bool :=
  s.launches.any fun L => decide (L.tenant = p.tenant ∧ L.gang = some p.gang) && !L.ended &&
    (L.cart.pipes.any fun b => decide (b.symbol = p.symbol) && (b.recv == recv)) &&
    decide (L.completed + L.faulted + L.killed < L.bx * L.by_ * L.bz)

/-- Messages queued and on their way. -/
def State.pipeLoad (s : State) (k : Nat) : Nat :=
  (s.pipe k).msgs.length + (s.reqs.filter fun r => match r.kind with | .message p _ _ => decide (p = k) | _ => false).length

/-- A lane in PSEND tries to send: dropped when every consumer has ended, sent when there is room. -/
def State.trySend (s : State) (wi l k : Nat) (msg : List Word) : State :=
  match s.wave? wi with
  | none => s
  | some w =>
    match (w.lane l).owed with
    | none => s
    | some wb =>
      if !s.roleLive (s.pipe k) true then s.leaveInside wi l fun _ => 1
      else if s.pipeLoad k < (s.pipe k).capacity then
        (((s.request wi (bitMask l) w.core (some .dev) none (.message k msg wb)).issuedAt s.fresh (s.issueOf wi l)).modWave wi fun w =>
          w.modLane l Lane.goOn).markEffects w.block
      else s

def execPsend (h : Hdr) (d a b : Operand) (s : State) : Out :=
  startOwn s (.psend h d a b)
    (fun cx => [cx.check 0x40 fun l => if (s.pipeOf cx.w false (cx.b s l).toNat).isNone then some [cx.b s l] else none]) fun cx =>
    let pipe := fun l => (s.pipeOf cx.w false (cx.b s l).toNat).getD 0
    let msg := fun l => (List.range 8).map fun k => (cx.readAt s .untyped a k l).1
    let s1 := cx.issue s noEvents
    let s2 := cx.waitInside s1 cx.ex (fun l => .psend (pipe l) (msg l)) fun l => destOf d 0 l (decide (l = cx.low)) .u64
    (lanesOf cx.ex).foldl (fun st l => st.trySend cx.wi l (pipe l) (msg l)) (cx.advanceBut s2 cx.ex)

/-- A lane in PRECV tries to receive: a message, the end of the pipe, or it goes on waiting. -/
def State.tryRecv (s : State) (wi l k : Nat) : State :=
  let p := s.pipe k
  let base := match (s.wave? wi).bind fun w => (w.lane l).insn with
    | some (.precv _ (.v n) _ _) => n.toNat
    | some (.precv _ (.w n) _ _) => n.toNat
    | _ => 0
  match p.msgs with
  | m :: rest =>
    let s1 := (s.modPipe k fun p => { p with msgs := rest }).leaveInside wi l fun r =>
      match r.target with
      | .p _ => 0
      | .v n | .w n => m.getD (n - base) 0
    let issued := (((s.wave? wi).bind fun w => (w.lane l).owed.bind fun id => w.wbs.find? fun b => b.id = id).map (·.issued)).getD s.cyc
    { (s1.modWave wi fun w => w.modLane l fun x => { x with acquired := s.cyc }) with taken := s1.taken ++ [(issued, wi, k, m)] }
  | [] =>
    if p.poison.isNone && !s.roleLive p false then
      s.leaveInside wi l fun r => match r.target with | .p _ => 1 | _ => 0
    else s

/-- PIPE_POISONED: lanes for which a poisoned pipe is empty once the lanes below them have taken its messages. None of
the cohort's lanes acts. -/
def Cx.poisoned (cx : Cx) (s : State) : Option Trap :=
  let pipe := fun l => s.pipeOf cx.w true (cx.b s l).toNat
  cx.check 0x41 fun l =>
    match pipe l with
    | none => none
    | some k =>
      let below := ((lanesOf cx.ex).filter fun j => decide (j < l ∧ pipe j = some k)).length
      (s.pipe k).poison.bind fun L => if (s.pipe k).msgs.length ≤ below then some [cx.b s l, BitVec.ofNat 64 L] else none

def execPrecv (h : Hdr) (d b x : Operand) (s : State) : Out :=
  startOwn s (.precv h d b x)
    (fun cx => [cx.check 0x40 (fun l => if (s.pipeOf cx.w true (cx.b s l).toNat).isNone then some [cx.b s l] else none),
      cx.poisoned s]) fun cx =>
    let pipe := fun l => (s.pipeOf cx.w true (cx.b s l).toNat).getD 0
    let dest := fun l => (List.range 8).flatMap (fun k => destOf d k l (decide (l = cx.low)) .raw) ++ destOf x 0 l false .raw
    let s2 := cx.waitInside (cx.issue s noEvents) cx.ex (fun l => .precv (pipe l)) dest
    (lanesOf cx.ex).foldl (fun st l => st.tryRecv cx.wi l (pipe l)) (cx.advanceBut s2 cx.ex)

/-! ### COMMIT (06: R157) -/

/-- Every thread of a block has arrived at COMMIT or exited, and some wait there. -/
def State.commitReady (s : State) (b : Block) : Bool :=
  let ws := b.waves.filterMap fun i => s.wave? i
  let ls := ws.flatMap (·.lanes)
  (ls.any fun l => decide (l.status = .inside .commit)) && ls.all fun l => l.isExited || decide (l.status = .inside .commit)

/-- A drain of the block is on its way or under way. -/
def State.draining (s : State) (bi : Nat) (b : Block) : Bool :=
  b.drain.isSome || s.reqs.any fun r => decide (r.kind = .drain) &&
    (match s.wave? r.wave with | some w => decide (w.block = bi) | none => false)

/-- Asks for the drain once every thread has arrived. -/
def State.commitSettle (s : State) (bi : Nat) : State :=
  match s.blocks[bi]? with
  | none => s
  | some b =>
    if s.commitReady b && !s.draining bi b then s.request (b.waves.headD 0) 0 b.core none none .drain else s

def execCommit (h : Hdr) (s : State) : Out :=
  start s (.commit h) fun cx =>
    let s1 := cx.issue s noEvents
    if s.contained cx.w then
      (cx.advanceBut (cx.waitInside s1 cx.ex (fun _ => .commit) fun _ => []) cx.ex).commitSettle cx.w.block
    else cx.advance s1

end Sys2Proof.Machine
end

