-- ==== Sys2Proof/Machine/Matrix.lean ====
section
/-! DEFINITION. Group 0xC, which a block's sequencer runs (14: R247 to R257), what a completing word does,
and MDRAIN (14: R260). -/

namespace Sys2Proof.Machine

/-- Tile slots of a block (14: R243). -/
def State.tilesOf (s : State) (b : Block) : Nat := ((s.launches[b.launch]?).map (·.cart.tiles)).getD 0

/-- Runs a stream word: the block's sequencer stands at it. -/
def startStream (s : State) (k : Block → State) : Out :=
  match s.blocks[s.curBlock]? with
  | none => .fault (.notEnabled "STREAM")
  | some b => if b.seq = .running then .next (k b) else .fault (.notEnabled "STREAM")

/-- The sequencer's journal entry of a word that starts (16: R275). -/
def State.seqJournalise (s : State) (b : Block) : State :=
  { s.bump with seqJournal := s.seqJournal ++ [⟨s.fresh, s.cyc, s.curBlock, b⟩] }

/-- The sequencer goes on behind a word; the words that a replay has it issue again end where they did before
(16: R275). -/
def Block.seqNext (b : Block) : Block :=
  let pc := (b.seqPc + 12) % 2 ^ 64
  { b with seqPc := pc, redo := if b.redo = some pc then none else b.redo }

/-- The sequencer stops at a word (02: R59; 14: R249): `cause`, then the record's details. -/
def Block.seqStop (b : Block) (cause : Nat) (words : List Word) (details : List Word) : Block :=
  { b with
    seq := .stopped, redo := none, faultMark := true
    seqFault := some (BitVec.ofNat 64 cause :: BitVec.ofNat 64 b.seqPc :: (words ++ details)) }
def instrWords (i : Instr) : List Word := (wordsOf ((encode i).getD 0)).map fun n => BitVec.ofNat 64 n

/-- A stream word that fails a check of its entry: the detail and its values. -/
def State.matrixFault (s : State) (b : Block) (i : Instr) (detail : List Nat) : State :=
  s.modBlock s.curBlock fun _ => b.seqStop 0x42 (instrWords i) (detail.map fun n => BitVec.ofNat 64 n)

/-- The first failing check of a list. -/
def firstFail : List (Option (List Nat)) → Option (List Nat)
  | [] => none
  | some d :: _ => some d
  | none :: rest => firstFail rest

/-! ### What waits for what (14: R247) -/

/-- A resource of the stream: a slot, or an accumulator register of a wave. -/
inductive Res where
  | slot (n : Nat)
  | reg (wave n : Nat)
deriving DecidableEq, Repr

def slotNo : Operand → Nat | .w n => n.toNat | _ => 0
def accNo : Operand → Nat | .v n => n.toNat | _ => 0
def waveNo : Operand → Nat | .small k => k.toNat | _ => 0

/-- The slots `f` to `f + n - 1`, and the registers `a` to `a + n - 1` of a wave. -/
def slotRun (f n : Nat) : List Res := (List.range n).map fun k => .slot (f + k)
def regRun (w a n : Nat) : List Res := (List.range n).map fun k => .reg w (a + k)

/-- What a word reads, and what it writes. -/
def streamReads : Instr → List Res
  | .mma _ d a b x => [.slot (slotNo a), .slot (slotNo b)] ++ regRun (waveNo x) (accNo d) 16
  | .mmack _ d a b x => [.slot (slotNo a), .slot (slotNo b)] ++ regRun (waveNo x) (accNo d) 18
  | _ => []
def streamWrites : Instr → List Res
  | .mclaim d n => slotRun (slotNo d) n.toNat
  | .mrelease d n => slotRun (slotNo d) n.toNat
  | .mfill _ d _ _ _ => [.slot (slotNo d)]
  | .mma _ d _ _ x => regRun (waveNo x) (accNo d) 16
  | .mmack _ d _ _ x => regRun (waveNo x) (accNo d) 18
  | _ => []
def meets (a b : List Res) : Bool := a.any fun x => b.contains x
/-- Two words that must not overlap. -/
def streamClash (earlier later : Instr) : Bool :=
  meets (streamWrites earlier) (streamReads later ++ streamWrites later) || meets (streamReads earlier) (streamWrites later)

/-- Cycles the array needs before it accepts the next operation (14: R257). -/
def arrayRate : Instr → Nat | .mma _ _ _ _ _ => 8 | .mmack _ _ _ _ _ => 10 | _ => 0
def isArrayOp : Instr → Bool | .mma _ _ _ _ _ | .mmack _ _ _ _ _ => true | _ => false
def isClaim : Instr → Bool | .mclaim _ _ | .mrelease _ _ => true | _ => false

/-- A word may start: no clash with a word in flight, the array of the core and the tile store free, and the
count of an MWAITNB met by arrivals whose releases are complete (14: R255; 12: R221). -/
def State.streamReady (s : State) (b : Block) (i : Instr) : Bool :=
  !(b.seqOps.any fun o => streamClash o.insn i) &&
  !(isClaim i && b.seqOps.any fun o => isClaim o.insn) &&
  !(isArrayOp i && s.blocks.any fun x => decide (x.core = b.core) && x.holds &&
      x.seqOps.any fun o => decide (s.cyc < o.started + arrayRate o.insn)) &&
  (match i with
   | .mwaitnb n => decide (n.toNat / 16 ≤ SMap.get 0 b.arr (n.toNat % 16)) &&
       (decide (n.toNat / 16 = 0) || b.waves.all fun wi => s.quiet wi (BitVec.allOnes 32) (SMap.get 0 b.arrIds (n.toNat % 16)))
   | _ => true)

/-- Runs a word that may start; one that must wait changes nothing. -/
def streamWord (s : State) (i : Instr) (k : Block → State) : Out :=
  startStream s fun b => if s.streamReady b i then k b else s

/-- Starts a word that completes later: `b` is the block with the word's effect on its slots. -/
def State.streamStart (s : State) (old b : Block) (i : Instr) (cycles : Nat) (wave : Option Nat) (writes : List RegWrite)
    (bytes : List Byte) : State :=
  (s.seqJournalise old).modBlock s.curBlock fun _ =>
    { b.seqNext with seqOps := b.seqOps ++ [⟨old.seqPc, i, s.cyc, s.cyc + cycles, wave, writes, bytes⟩] }

/-! ### MCLAIM and MRELEASE (14: R251) -/

/-- Details 1 and 2 of a slot range. -/
def rangeFault (b : Block) (tiles f n : Nat) (claimed : Bool) : Option (List Nat) :=
  if n = 0 ∨ 256 < n ∨ tiles < f + n then some [1, f]
  else ((List.range n).find? fun k => (b.slot (f + k)).claimed != claimed).map fun k => [2, f + k]

/-- A range is claimed or freed; either way its bytes are zero. -/
def Block.setRange (b : Block) (f n : Nat) (claimed : Bool) : Block :=
  (List.range n).foldl (fun b k => b.setSlot (f + k) ⟨claimed, .zero, []⟩) b

def claimWord (s : State) (i : Instr) (d : Operand) (n : Nat) (claim : Bool) : Out :=
  streamWord s i fun b =>
    match rangeFault b (s.tilesOf b) (slotNo d) n (!claim) with
    | some e => s.matrixFault b i e
    | none => s.streamStart b (b.setRange (slotNo d) n claim) i n none [] []
def execMclaim (d : Operand) (imm : BitVec 9) (s : State) : Out := claimWord s (.mclaim d imm) d imm.toNat true
def execMrelease (d : Operand) (imm : BitVec 9) (s : State) : Out := claimWord s (.mrelease d imm) d imm.toNat false

/-! ### MFILL (14: R252) -/

/-- w(n) of wave 0 of a block as it is now; zero once wave 0 has retired (14: R248). -/
def State.wave0Reg (s : State) (b : Block) (n : Nat) : Word :=
  match s.wave? (b.waves.headD 0) with
  | some w => if w.retired then 0 else (w.wread n).1
  | none => 0

def slotFault (b : Block) (tiles n : Nat) : Option (List Nat) :=
  if tiles ≤ n then some [1, n] else if (b.slot n).claimed then none else some [2, n]

/-- The start of row i, and of its exponent pairs with their bytes. -/
def fillRow (base off stride : Int) (i : Nat) : Nat := wrap 64 (base + off + i * stride)
def pairBytes : TileFmt → Nat | .bf16 => 0 | .k8 => 4 | .k4 => 8
def fillPairs (m : TileFmt) (q off stride : Int) (i : Nat) : Nat :=
  wrap 64 (q + 2 * ((off + i * stride) / (match m with | .k4 => 16 | _ => 32)))

/-- The reads of an MFILL in order: address and length. -/
def fillReads (m : TileFmt) (base q off stride : Int) : List (Nat × Nat) :=
  (List.range 32).flatMap fun i =>
    (fillRow base off stride i, 64) :: (if pairBytes m = 0 then [] else [(fillPairs m q off stride i, pairBytes m)])

/-- The block's ASID and tenant. -/
def State.blockAsid (s : State) (b : Block) : Nat × Nat :=
  ((s.launches[b.launch]?).map fun L => (L.asid, L.tenant)).getD (0, 0)

/-- The first read that its page refuses, or whose page is discarded: its address. -/
def State.fillRefusal (s : State) (asid : Nat) : List (Nat × Nat) → Option Nat
  | [] => none
  | (va, n) :: rest =>
    match s.walk asid false va n .load with
    | .error r => some r.addr
    | .ok _ =>
      match (pageStarts va n).find? fun a => s.discarded asid a with
      | some a => some a
      | none => s.fillRefusal asid rest

/-- The bytes of one read, from the core view (14: R252). -/
def State.fillBytes (s : State) (b : Block) (asid : Nat) (r : Nat × Nat) : List Byte :=
  match s.walk asid false r.1 r.2 .load with
  | .ok pas => (List.range r.2).map fun i => s.coreByte b.core (paOf r.1 pas i)
  | .error _ => []

/-- The stream reads a marked unit: its contained block is to be killed, or the sequencer stops and the waves
trap UNCORRECTABLE_CONSUMED (16: R276). -/
def State.streamConsumes (s : State) (b : Block) (u : Nat × Nat) : State :=
  if ((s.launches[b.launch]?).map (·.cart.contained)).getD false then s.doom s.curBlock u
  else s.modBlock s.curBlock fun b => { b with
    seq := .stopped, faultMark := true, seqFault := some [0x51, BitVec.ofNat 64 u.1, BitVec.ofNat 64 u.2] }
def State.fillMark (s : State) (asid : Nat) (reads : List (Nat × Nat)) : Option (Nat × Nat) :=
  reads.findSome? fun r => match s.walk asid false r.1 r.2 .load with
    | .ok pas => (List.range r.2).findSome? fun i => s.memMark (paOf r.1 pas i) 1
    | .error _ => none

/-- When the last of an MFILL's reads returns: from the die's L2, or from beyond it (10: R410). -/
def State.fillTime (s : State) (b : Block) (reads : List (Nat × Nat)) : Nat :=
  let (asid, tenant) := s.blockAsid b
  if reads.all fun r => (s.line? false (dieOfCore b.core) r.1 asid tenant).isSome then 80 else 320

def execMfill (m : TileFmt) (d a bo : Operand) (imm : BitVec 15) (s : State) : Out :=
  let i : Instr := .mfill m d a bo imm
  streamWord s i fun b =>
    let base := s.wave0Reg b (slotNo a)
    let stride : Int := match bo with | .w n => (s.wave0Reg b n.toNat).toInt | _ => 64
    let plane := if slotNo a = 255 then 0 else s.wave0Reg b (slotNo a + 1)
    let reads := fillReads m (base.toNat : Int) (plane.toNat : Int) imm.toInt stride
    let asid := (s.blockAsid b).1
    let fail := firstFail [
      slotFault b (s.tilesOf b) (slotNo d),
      if base.toNat % 64 = 0 ∧ imm.toInt % 64 = 0 ∧ stride % 64 = 0 then none
      else some [6, base.toNat, wrap 64 imm.toInt, wrap 64 stride],
      (s.fillRefusal asid (reads.take 1)).map fun x => [7, x],
      if m = .bf16 ∨ (plane.toNat % 2 = 0 ∧ slotNo a ≠ 255) then none else some [6, plane.toNat],
      (s.fillRefusal asid reads).map fun x => [7, x]]
    match fail, s.fillMark asid reads with
    | some e, _ => s.matrixFault b i e
    | none, some u => s.streamConsumes b u
    | none, none =>
      let rows := (reads.filter fun r => decide (r.2 = 64)).flatMap fun r => s.fillBytes b asid r
      let side := (reads.filter fun r => decide (r.2 ≠ 64)).flatMap fun r => s.fillBytes b asid r
      (s.streamStart b b i (s.delay (40 + s.fillTime b reads)) none [] (rows ++ side)).bump

/-- The slot an MFILL has filled. -/
def Slot.filled (m : TileFmt) (bytes : List Byte) : Slot :=
  ⟨true, TileFmt.slotFmt m, (List.range bytes.length).foldl (fun t k => SMap.set 0 t k (bytes.getD k 0)) []⟩

/-! ### MMA and MMACK (14: R253, R254) -/

/-- A slot's format is ZERO or the word's. -/
def fmtFault (b : Block) (m : TileFmt) (n : Nat) : Option (List Nat) :=
  let f := (b.slot n).fmt
  if f = .zero ∨ f = TileFmt.slotFmt m then none else some [3, n, f.code]

/-- The first register of a run with a tag other than RAW and F32 in some lane: detail 5. -/
def Wave.accTagFault (w : Wave) (W a n : Nat) : Option (List Nat) :=
  (List.range n).findSome? fun k =>
    let bad := maskOf fun l => let t := (w.vread (a + k) l).2; decide (t ≠ .raw ∧ t ≠ .f32)
    if bad = 0 then none else some [5, W, a + k, bad.toNat]

/-- The wave of a block with a number. -/
def State.waveOf (s : State) (b : Block) (W : Nat) : Option (Nat × Wave) :=
  (b.waves[W]?).bind fun k => (s.wave? k).bind fun w => if w.retired then none else some (k, w)

/-- The first lost register of a run, in any lane, that the array reads (16: R276). -/
def Wave.lostRun (w : Wave) (wi a n : Nat) : Option (Nat × Nat) :=
  (List.range n).findSome? fun k => (List.range 32).findSome? fun l => w.lostV wi (a + k) l
/-- The checks of MMA and MMACK on `n` registers from `a` of wave W. -/
def State.mmaFault (s : State) (b : Block) (m : TileFmt) (a W n sa sb : Nat) : Option (List Nat) :=
  firstFail [
    slotFault b (s.tilesOf b) sa, fmtFault b m sa, slotFault b (s.tilesOf b) sb, fmtFault b m sb,
    (match s.waveOf b W with
     | none => some [4, W, a]
     | some (_, w) => if w.frameSize < a + n then some [4, W, a] else w.accTagFault W a n)]

/-- Element (i, j) of an accumulator tile (14: R245). -/
def Wave.accElem (w : Wave) (a i j : Nat) : Nat := sub 32 (j % 2) (w.vread (a + j / 2) i).1
def Slot.data (t : Slot) (k : Nat) : Byte := SMap.get 0 t.bytes k
def Slot.side (t : Slot) (k : Nat) : Byte := SMap.get 0 t.bytes (2048 + k)

/-- The tile after MMA: register k of lane i. -/
def mmaWrites (w : Wave) (m : TileFmt) (a : Nat) (sa sb : Slot) : List RegWrite :=
  (List.range 32).flatMap fun i => (List.range 16).map fun k =>
    let e := fun j => mmaElem (TileFmt.steps m) sa.fmt sb.fmt sa.data sa.side sb.data sb.side i j (w.accElem a i j)
    ⟨i, .v (a + k), pack 32 [e (2 * k), e (2 * k + 1)], .f32, false⟩
/-- The checksum registers after MMACK. -/
def mmackWrites (w : Wave) (m : TileFmt) (a : Nat) (sa sb : Slot) : List RegWrite :=
  (List.range 32).flatMap fun i =>
    let r := (w.vread (a + 16) i).1
    let g := (w.vread (a + 17) i).1
    let t := mmackSums (TileFmt.steps m) sa.fmt sb.fmt sa.data sa.side sb.data sb.side i ⟨sub 32 0 r, sub 32 1 r, sub 32 0 g, sub 32 1 g⟩
    [⟨i, .v (a + 16), pack 32 [t.rho, t.rhoAbs], .f32, false⟩, ⟨i, .v (a + 17), pack 32 [t.gam, t.gamAbs], .f32, false⟩]

def mmaWord (s : State) (i : Instr) (m : TileFmt) (d a b x : Operand) (check : Bool) : Out :=
  streamWord s i fun blk =>
    let n := if check then 18 else 16
    let mark := ((s.regionMark s.curBlock 3 (slotNo a / 2)).or (s.regionMark s.curBlock 3 (slotNo b / 2))).or
      ((s.waveOf blk (waveNo x)).bind fun p => p.2.lostRun p.1 (accNo d) n)
    match s.mmaFault blk m (accNo d) (waveNo x) n (slotNo a) (slotNo b), mark, s.waveOf blk (waveNo x) with
    | some e, _, _ => s.matrixFault blk i e
    | none, some u, _ => s.streamConsumes blk u
    | none, none, none => s
    | none, none, some (k, w) =>
      let ws := mmaWrites w m (accNo d) (blk.slot (slotNo a)) (blk.slot (slotNo b))
      let cs := if check then mmackWrites w m (accNo d) (blk.slot (slotNo a)) (blk.slot (slotNo b)) else []
      s.streamStart blk blk i (if check then 22 else 20) (some k) (ws ++ cs) []
def execMma (m : TileFmt) (d a b x : Operand) (s : State) : Out := mmaWord s (.mma m d a b x) m d a b x false
def execMmack (m : TileFmt) (d a b x : Operand) (s : State) : Out := mmaWord s (.mmack m d a b x) m d a b x true

/-! ### MARRIVE, MWAITNB, MEND (14: R255, R256; 16: R265) -/

/-- CREDIT[j] rises, to at most 63. -/
def Lane.addCredit (l : Lane) (j : Nat) : Lane :=
  if l.isExited then l else { l with credit := SMap.set 0 l.credit j (min 63 (l.creditOf j + 1)) }

/-- The waves of a block that have not retired are kept as they are, before something that no instruction of theirs does
(16: R273). -/
def State.journaliseAll (s : State) (ws : List Nat) : State :=
  ws.foldl (fun st k => match st.wave? k with
    | some w => if w.retired then st else st.journalise k w 0
    | none => st) s
/-- The MARRIVEs at the head of a stream count as executed: every word before them has completed. -/
def State.countArrives (s : State) (bi : Nat) : Nat → State
  | 0 => s
  | fuel + 1 =>
    match s.blocks[bi]? with
    | none => s
    | some b =>
      match b.seqOps with
      | o :: rest =>
        (match o.insn with
        | .marrive j =>
          let n := j.toNat
          let s1 := (s.journaliseAll b.waves).modBlock bi fun b =>
            { b with seqOps := rest, marr := SMap.set 0 b.marr n (SMap.get 0 b.marr n + 1) }
          let s2 := b.waves.foldl (fun st k => st.modWave k fun w => { w with lanes := w.lanes.map fun l => l.addCredit n }) s1
          s2.countArrives bi fuel
        | _ => s)
      | [] => s

def execMarrive (imm : BitVec 4) (s : State) : Out :=
  streamWord s (.marrive imm) fun b => (s.streamStart b b (.marrive imm) 0 none [] []).countArrives s.curBlock (b.seqOps.length + 1)
def execMwaitnb (imm : BitVec 10) (s : State) : Out :=
  streamWord s (.mwaitnb imm) fun b =>
    let j := imm.toNat % 16
    (s.seqJournalise b).modBlock s.curBlock fun _ =>
      { b.seqNext with arr := SMap.set 0 b.arr j (SMap.get 0 b.arr j - imm.toNat / 16) }
def execMend (s : State) : Out :=
  streamWord s .mend fun b => (s.seqJournalise b).modBlock s.curBlock fun _ => { b.seqNext with seq := .ended }

/-! ### Completion (14: R246, R257) -/

/-- A word of a block's stream leaves it, and the MARRIVEs behind it are counted. -/
def State.streamDone (s : State) (bi : Nat) (o : StreamOp) : State :=
  let s1 := s.modBlock bi fun b => { b with seqOps := b.seqOps.erase o }
  s1.countArrives bi (((s.blocks[bi]?).map (·.seqOps.length)).getD 0)

/-- MCLAIM and MRELEASE leave the stream when their cycles are over. -/
def State.claimsDone (s : State) (bi : Nat) : State :=
  match s.blocks[bi]? with
  | none => s
  | some b => (b.seqOps.filter fun o => isClaim o.insn && decide (o.due ≤ s.cyc)).foldl (fun st o => st.streamDone bi o) s

/-- The oldest word of a kind whose time has come. -/
def Block.dueOp (b : Block) (cyc : Nat) (f : Instr → Bool) : Option StreamOp :=
  b.seqOps.find? fun o => f o.insn && decide (o.due ≤ cyc)
def isFill : Instr → Bool | .mfill _ _ _ _ _ => true | _ => false

/-- An operation of the array completes: its registers are written in every lane (14: R246). -/
def State.arrayDone (s : State) (bi : Nat) (o : StreamOp) : State :=
  match o.wave with
  | none => s.streamDone bi o
  | some k =>
    let wb : WriteBack := ⟨s.fresh, o.started, some s.cyc, 0, none, false, o.writes⟩
    let s0 := s.bump.journaliseAll [k]
    let s1 := s0.modWave k fun w => o.writes.foldl (Wave.arrayWrite (s.nextSources w) s.cyc) w
    ({ s1 with
      landed := s1.landed ++ [(⟨s.cyc, k, wb⟩ : Landed)]
      injections := s1.injections.map fun j => j.overwritten k o.writes } : State).streamDone bi o

/-! ### MDRAIN (14: R260) -/

/-- The image of a slot: rows, sideband, state and format. -/
def Slot.image (t : Slot) : List Byte :=
  ((List.range 2304).map fun k => SMap.get 0 t.bytes k)
    ++ natLe 8 ((if t.claimed then 1 else 0) + 2 * t.fmt.code) ++ List.replicate 56 0
/-- The slot of an image; none for a nonzero reserved field or FMT 4 to 7. A FREE slot holds zero in every byte
(14: R251). -/
def slotOfImage (bs : List Byte) : Option Slot :=
  let st := leNat ((bs.drop 2304).take 8)
  let fmt : Option SlotFmt := match st / 2 with
    | 0 => some .zero | 1 => some .bf16 | 2 => some .k8 | 3 => some .k4 | _ => none
  if (bs.drop 2312).all fun x => decide (x = 0) then
    fmt.map fun f => if st % 2 = 1 then ⟨true, f, (List.range 2304).foldl (fun t k => SMap.set 0 t k (bs.getD k 0)) []⟩ else Slot.free
  else none

/-- An issued word still uses a slot. -/
def Block.slotBusy (b : Block) (n : Nat) : Bool :=
  b.seqOps.any fun o => (streamReads o.insn ++ streamWrites o.insn).contains (.slot n)

/-- Stores of a wave's image in pieces of up to 64 bytes, none across a page; in a contained kernel they enter the commit
buffer as its other stores do (06: R139; 12: R215). -/
def State.storeImage (s : State) (wi : Nat) (w : Wave) (lead va : Nat) (pas : List Nat) : Nat → Nat → List Byte → State
  | 0, _, _ => s
  | n + 1, i, bs =>
    if bs.isEmpty then s
    else
      let pa := paOf va pas i
      let s1 := if s.contained w && !isHost pa then
          s.modBlock w.block fun b => { b with commit := b.commit ++ [.store wi lead (va + i) pa (bs.take 64)] }
        else (s.request wi (bitMask lead) w.core none none (.store pa (bs.take 64) (w.durTag wi lead))).markEffects w.block
      s1.storeImage wi w lead va pas n (i + 64) (bs.drop 64)

/-- A cohort in MDRAIN acts once its slot is free of issued words, and goes on. -/
def State.mdrainTry (s : State) (wi l : Nat) : State :=
  match s.wave? wi with
  | none => s
  | some w =>
    match (w.lane l).status, s.blocks[w.block]? with
    | .inside (.mdrain lead n save image), some b =>
      if lead ≠ l ∨ b.slotBusy n then s
      else
        let s := if (w.lane l).lastIssue = some s.cyc then s else s.journalise wi w 0
        let s1 := match save with
          | some (va, pas) => s.storeImage wi w lead va pas 40 0 (b.slot n).image
          | none => match slotOfImage image with
            | some t => s.modBlock w.block fun b => b.setSlot n t
            | none => s
        let m := maskOf fun k => match (w.lane k).status with | .inside (.mdrain x _ _ _) => decide (x = lead) | _ => false
        (lanesOf m).foldl (fun st k => st.leaveInside wi k fun _ => 0) s1
    | _, _ => s

/-- MATRIX_FAULT of a wave-side MDRAIN. -/
def Cx.drainFault (cx : Cx) (detail value : Nat) : Trap :=
  ⟨cx.ex, 0x42, false, BitVec.ofNat 64 cx.pc :: (instrWords cx.i ++ [BitVec.ofNat 64 detail, BitVec.ofNat 64 value])⟩

/-- The effect of MDRAIN on a confirmed image. -/
def Cx.mdrain (cx : Cx) (s : State) (save : Option (Nat × List Nat)) (image : List Byte) : State :=
  let s1 := cx.waitInside (cx.issue s noEvents) cx.ex (fun _ => .mdrain cx.low (cx.a s cx.low).toNat save image) fun _ => []
  (cx.advanceBut s1 cx.ex).mdrainTry cx.wi cx.low

def mdrainWord (s : State) (i : Instr) (k : Cx → Nat → State) : Out :=
  startPriv s i (fun cx => [
      cx.aligned (fun _ => (cx.b s cx.low).toNat) 64,
      if cx.ex ≠ 0 ∧ ((s.blocks[cx.w.block]?).map s.tilesOf).getD 0 ≤ (cx.a s cx.low).toNat
        then some (cx.drainFault 1 (cx.a s cx.low).toNat) else none]) fun cx =>
    if cx.ex = 0 then cx.advance (cx.issue s noEvents) else k cx (cx.b s cx.low).toNat
def execMdrainSave (h : Hdr) (a b : Operand) (s : State) : Out :=
  mdrainWord s (.mdrainSave h a b) fun cx va => cx.confirm s va 2368 .store fun pas => cx.mdrain s (some (va, pas)) []
def execMdrainLoad (h : Hdr) (a b : Operand) (s : State) : Out :=
  mdrainWord s (.mdrainLoad h a b) fun cx va => cx.confirm s va 2368 .load fun pas =>
    cx.consuming s (fun l => if l = cx.low then (List.range 37).findSome? fun i => s.memMark (paOf va pas (64 * i)) 64 else none) <|
    let image := (List.range 2368).map fun i => s.loadByte cx.w cx.wi cx.low (va + i) (paOf va pas i) (cx.w.lane cx.low).acquired
    if (slotOfImage image).isNone then s.raise cx.wi (cx.drainFault 8 va) else cx.mdrain s none image

end Sys2Proof.Machine
end

