-- ==== Sys2Proof/Machine/Device.lean ====
section
/-! DEFINITION. Accesses that engines and chart cores make on a tenant's behalf (24: R416), pages that come back
from DISCARD (21: R359), and lanes that park for operands of their own. -/

namespace Sys2Proof.Machine

/-- Bytes of a memory outside a range. -/
def Memory.zeroRange (m : Memory) (a n : Nat) : Memory := m.filter fun e => decide (e.1 < a ∨ a + n ≤ e.1)

/-- Zeroes physical bytes in both views. -/
def State.zeroFrame (s : State) (pa n : Nat) : State :=
  { s with view0 := Memory.zeroRange s.view0 pa n, view1 := Memory.zeroRange s.view1 pa n }

/-- The first write to a discarded page clears DISC; the page holds zero but for what is written
(21: R359). -/
def State.revive (s : State) (pa : Nat) : State :=
  match s.pages.find? fun p => p.disc.isSome && decide (p.kind = 0 ∧ p.pa ≤ pa ∧ pa < p.pa + p.size) with
  | none => s
  | some p =>
    { s.zeroFrame p.pa p.size with
      pages := s.pages.map fun q => if q.disc.isSome ∧ q.pa = p.pa then { q with disc := none } else q }

/-- Reads bytes at virtual addresses, from the home die's view. -/
def State.devRead (s : State) (asid : Nat) (slevel : Bool) (va n : Nat) : Except Refuse (List Byte) :=
  match s.walk asid slevel va n .load with
  | .error e => .error e
  | .ok pas => .ok ((List.range n).map fun i =>
      if s.discarded asid ((va + i) % 2 ^ 64) then 0
      else let pa := paOf va pas i; Memory.get (s.view (homeDie pa)) pa)

/-- Writes bytes at confirmed pages, into the home die's view. -/
def State.devWriteAt (s : State) (va : Nat) (pas : List Nat) (bytes : List Byte) : State :=
  (piecesFrom va pas bytes.length 0 bytes).foldl (fun (s : State) p =>
    (s.revive p.1).bump.enterView s.fresh (homeDie p.1) p.1 p.2 none none) s
/-- Writes bytes at confirmed pages into one die's view, as an engine of a core of the die does (12: R219, R227). -/
def State.dieWriteAt (s : State) (die va : Nat) (pas : List Nat) (bytes : List Byte) : State :=
  (piecesFrom va pas bytes.length 0 bytes).foldl (fun (s : State) p =>
    (s.revive p.1).bump.enterView s.fresh die p.1 p.2 none none) s
def State.devWrite (s : State) (asid : Nat) (slevel : Bool) (va : Nat) (bytes : List Byte) : Except Refuse State :=
  match s.walk asid slevel va bytes.length .store with
  | .error e => .error e
  | .ok pas => .ok (s.devWriteAt va pas bytes)

/-- Executing lanes park for their own refused operands, one sub-group for each cause; the rest of the cohort
goes on (21: R415). -/
def Cx.parkRest (cx : Cx) (s : State) (ref_ : Nat → Option (Refuse × Acc × Nat)) (len : Nat) (k : Cx → State → State) : State :=
  let bad := maskOf fun l => cx.ex.getLsbD l && (ref_ l).isSome
  if bad = 0 then k cx s
  else
    let grp := fun (c : Nat) => maskOf fun l => bad.getLsbD l && (match ref_ l with | some r => decide (r.1.cause = c) | none => false)
    let low := fun (c : Nat) => match (lowest (grp c)).bind ref_ with | some r => r.1 | none => ⟨c, 0, 0⟩
    let w := cx.w.mapLanes fun l x =>
      match ref_ l with
      | some (r, acc, va) =>
        if bad.getLsbD l then
          { x with status := .parked ⟨r.cause, (low r.cause).addr, va, len, acc, (low r.cause).perms, grp r.cause, s.cyc, false, false⟩ }
        else x
      | none => x
    let s1 := s.setWave cx.wi w
    if cx.all &&& ~~~bad = 0 then s1 else k (cx.narrow w bad) s1

/-- Why one lane's operand is refused, if it is. -/
def State.refuses (s : State) (w : Wave) (va len : Nat) (acc : Acc) : Option (Refuse × Acc × Nat) :=
  match s.walk w.asid w.level va len acc with
  | .ok _ => none
  | .error r => some (r, acc, va)
def State.confirmed (s : State) (w : Wave) (va len : Nat) (acc : Acc) : List Nat :=
  match s.walk w.asid w.level va len acc with | .ok pas => pas | .error _ => []

end Sys2Proof.Machine
end

