-- ==== Sys2Proof/Machine/Sweeps.lean ====
section
/-! DEFINITION. Context tensors and sweeps: layout, cell actions, SWEEP, EWAIT, EDONE, EWAKE, and what the
traverse engine of a core does (22: R361 to R368; 24: R371 to R381, R417). -/

namespace Sys2Proof.Machine

/-! ### Layout (22: R361 to R363) -/

/-- A tensor as an agent reaches it: capability words, element count, ASID and level (24: R416). -/
structure Tensor where
  w0 : Word
  w1 : Word
  n : Nat
  asid : Nat
  slevel : Bool
deriving DecidableEq, Repr

def ceilDiv (a b : Nat) : Nat := (a + b - 1) / b
def cellSize (w0 : Word) : Nat := if capCell16 w0 then 16 else 8
def skipOff (w0 : Word) (n : Nat) : Nat := 64 * ceilDiv (n * cellSize w0) 64
def watchOff (w0 : Word) (n : Nat) : Nat := skipOff w0 n + 64 * ceilDiv n 512
def tensorBytes (w0 : Word) (n : Nat) : Nat := watchOff w0 n + 128
/-- The largest count whose layout fits LEN (22: R368). -/
def fitCount (w0 w1 : Word) : Nat :=
  (List.range 41).reverse.foldl (fun n k => if tensorBytes w0 (n + 2 ^ k) ≤ capLen w1 then n + 2 ^ k else n) 0

def Tensor.cellVa (t : Tensor) (i : Nat) : Nat := (capAddr t.w0 + cellSize t.w0 * i) % 2 ^ 64
def Tensor.skipVa (t : Tensor) (i : Nat) : Nat := (capAddr t.w0 + skipOff t.w0 t.n + i / 8) % 2 ^ 64
def Tensor.watchVa (t : Tensor) (k : Nat) : Nat := (capAddr t.w0 + watchOff t.w0 t.n + 8 * k) % 2 ^ 64

def ctxState (c : Nat) : Nat := c % 64
def ctxBit6 (c : Nat) : Bool := c.testBit 6
def ctxDone (c : Nat) : Bool := c.testBit 7
def ctxKind (c : Nat) : Nat := c / 256 % 16
def ctxArg (c : Nat) : Nat := c / 4096 % 2 ^ 20
/-- KIND := 0 and ARG := 0. -/
def ctxAwake (c : Nat) : Nat := c % 256
/-- The skip bit a context asks for (22: R363). -/
def ctxSkip (c : Nat) : Bool := ctxDone c || ctxBit6 c || decide (1 < ctxKind c)

/-- A cell as a number: data below, context in the top 32 bits (22: R362). -/
def cellCtx (w0 : Word) (c : Nat) : Nat := c / 2 ^ (8 * cellSize w0 - 32)
def cellData (w0 : Word) (c : Nat) : Nat := c % 2 ^ (8 * cellSize w0 - 32)
def cellOf (w0 : Word) (ctx data : Nat) : Nat := ctx * 2 ^ (8 * cellSize w0 - 32) + cellData w0 data

/-! ### Cell actions (24: R371) -/

def State.readCell (s : State) (t : Tensor) (i : Nat) : Except Refuse Nat :=
  match s.devRead t.asid t.slevel (t.cellVa i) (cellSize t.w0) with
  | .error e => .error e
  | .ok bs => .ok (leNat bs)
def State.readSkip (s : State) (t : Tensor) (i : Nat) : Except Refuse Bool :=
  match s.devRead t.asid t.slevel (t.skipVa i) 1 with
  | .error e => .error e
  | .ok bs => .ok ((leNat bs).testBit (i % 8))

/-- Writes a cell and its skip bit in one action. -/
def State.writeCell (s : State) (t : Tensor) (i ctx data : Nat) (skip : Bool) : Except Refuse State :=
  match s.devRead t.asid t.slevel (t.skipVa i) 1 with
  | .error e => .error e
  | .ok bs =>
    let old := leNat bs
    let new := old - (if old.testBit (i % 8) then 2 ^ (i % 8) else 0) + (if skip then 2 ^ (i % 8) else 0)
    match s.devWrite t.asid t.slevel (t.cellVa i) (natLe (cellSize t.w0) (cellOf t.w0 ctx data)) with
    | .error e => .error e
    | .ok s => s.devWrite t.asid t.slevel (t.skipVa i) [BitVec.ofNat 8 new]

/-- The tensor of a wave's running sweep. -/
def Wave.tensor (w : Wave) (k : Sweep) : Tensor := ⟨k.word0, k.word1, k.n, w.asid, k.slevel⟩

/-- The wave whose sweep is registered for a BASE in an ASID (24: R375). -/
def State.registered (s : State) (asid : Nat) (w0 : Word) : Option (Nat × Wave × Sweep) :=
  (List.range s.waves.length).findSome? fun i =>
    match s.waves[i]? with
    | some w => (match w.sweep with
      | some k => if w.asid = asid ∧ capAddr k.word0 = capAddr w0 then some (i, w, k) else none
      | none => none)
    | none => none

/-- A kind 1 decrement of an element that has not left its core (24: R373). -/
def State.decremented (s : State) (wi i : Nat) : Bool := s.reqs.any fun r => decide (r.wave = wi ∧ r.kind = ReqKind.decrement i)
def ctxLess (c : Nat) : Nat := c - 4096
def State.effCtx (s : State) (wi : Option Nat) (i c : Nat) : Nat :=
  match wi with
  | some k => if s.decremented k i then ctxLess c else c
  | none => c

/-- A wake of element `i` (22: R368; 24: R372); `only` limits it to one kind and argument. The code is the
result of EWAKE. -/
def State.wakeElem (s : State) (t : Tensor) (i : Nat) (only : Option (Nat × Nat)) : Except Refuse (State × Nat) :=
  let reg := s.registered t.asid t.w0
  let wi := reg.map (·.1)
  match s.readCell t i, s.readSkip t i with
  | .error e, _ => .error e
  | _, .error e => .error e
  | .ok c, .ok skip =>
    let ctx := s.effCtx wi i (cellCtx t.w0 c)
    let held := match reg with
      | some (k, w, _) => (List.range 32).find? fun l => (w.lane l).elem = some i && (s.wave? k).isSome
      | none => none
    if ctxDone ctx ∨ ctxBit6 ctx ∨ 4 < ctxKind ctx then .ok (s, 2)
    else
      let hit := match only with
        | none => true
        | some (kind, arg) => decide (ctxKind ctx = kind) && decide ((if kind = 3 then ctxArg ctx % 16 else ctxArg ctx) = arg)
      if !hit then .ok (s, 1)
      else match held, wi with
      | some l, some k => .ok (s.modWave k fun w => w.modLane l fun x => { x with woken := true }, 1)
      | _, _ =>
        let s0 := match wi with
          | some k => { s with reqs := s.reqs.filter fun r => !decide (r.wave = k ∧ r.kind = ReqKind.decrement i) }
          | none => s
        match s0.writeCell t i (ctxAwake ctx) (cellData t.w0 c) false with
        | .error e => .error e
        | .ok s1 => .ok (s1, if ctxKind ctx ≤ 1 ∧ skip = false then 1 else 0)

/-! ### The lanes of a sweep -/

/-- A sweep lane waits inside SWEEP, at the SWEEP's address. -/
def Lane.backToSweep (l : Lane) (k : Sweep) : Lane :=
  { l with pc := k.pc, status := .inside .sweep, insn := some k.insn, stopped := false }

/-- The entry of a state: its code address (22: R364). -/
def State.readEntry (s : State) (t : Tensor) (entry state : Nat) : Except Refuse Nat :=
  match s.devRead t.asid t.slevel ((entry + 8 * state) % 2 ^ 64) 8 with
  | .error e => .error e
  | .ok bs => .ok (leNat bs)

/-- A lane being loaded parks at SWEEP for an access of the engine (24: R379). -/
def State.parkScan (s : State) (wi l : Nat) (r : Refuse) (acc : Acc := .load) : State :=
  s.modWave wi fun w => w.modLane l fun x =>
    { x with status := .parked ⟨r.cause, r.addr, r.addr, 1, acc, r.perms, bitMask l, s.cyc, false, true⟩ }

/-- The lane that holds element `i` begins its code 12 cycles after its scan (24: R373), or traps SWEEP_ENTRY. -/
def State.enterElement (s : State) (wi l i ctx entry : Nat) : State :=
  if entry = 0 ∨ entry % 4 ≠ 0 then
    (s.modWave wi fun w => w.modLane l fun x => { x with status := .ready }).raise wi
      ⟨bitMask l, 0x46, false, [BitVec.ofNat 64 i, BitVec.ofNat 64 ctx]⟩
  else
    s.modWave wi fun w => w.modLane l fun x =>
      { x with status := .loading, pc := entry, insn := none, lastIssue := none, readyAt := s.cyc + 12, acquired := s.cyc }

/-- The registers a dispatched element brings (22: R366). -/
def Wave.loadElement (w : Wave) (t : Tensor) (l i ctx data cyc : Nat) : Wave :=
  let put := fun (w : Wave) (n : Nat) (v : Nat) (g : Tag) => (w.writeV n l (BitVec.ofNat 64 v) g false).cacheWrite [] n l cyc
  let w := put w 0 i .u64
  let w := put w 1 (data % 2 ^ 64) .raw
  let w := put w 2 (ctxAwake ctx) .u64
  if cellSize t.w0 = 16 then put w 3 (data / 2 ^ 64) .raw else w

def State.modSweep (s : State) (wi : Nat) (f : Sweep → Sweep) : State :=
  s.modWave wi fun w => { w with sweep := w.sweep.map f }

/-- The first element from `i` that the engine does not pass over in its skip-map line: the end of the line or of the tensor,
or an element whose skip bit is not 1 (24: R373). -/
def State.passOver (s : State) (t : Tensor) (i : Nat) : Nat :=
  let line := min t.n (512 * (i / 512 + 1))
  ((List.range (line - i)).find? fun j => match s.readSkip t (i + j) with | .ok true => false | _ => true).elim line (i + ·)
/-- One action of the engine for lane `l`, which takes a cycle: it passes over the sleepers of a line, or scans the element at
P, lowers its count or loads it; or an access is refused (22: R366; 24: R373). -/
def State.sweepScan (s : State) (wi l : Nat) (t : Tensor) (entry : Nat) (k : Sweep) : State :=
  let i := k.p
  let pass := fun (s : State) (p : Nat) => s.modSweep wi fun k => { k with p := p, next := s.cyc + 1 }
  match s.readSkip t i with
  | .error e => s.parkScan wi l e
  | .ok true => pass s (s.passOver t i)
  | .ok false =>
    match s.readCell t i with
    | .error e => s.parkScan wi l e
    | .ok c =>
      let ctx := s.effCtx (some wi) i (cellCtx t.w0 c)
      if ctxKind ctx = 1 ∧ 0 < ctxArg ctx then
        match s.walk t.asid t.slevel (t.cellVa i) (cellSize t.w0) .store with
        | .error e => s.parkScan wi l e .store
        | .ok _ => (pass s (i + 1)).request wi 0 (((s.wave? wi).map (·.core)).getD 0) none none (.decrement i)
      else if ctxKind ctx ≤ 1 then
        match s.readEntry t entry (ctxState ctx) with
        | .error e => s.parkScan wi l e
        | .ok e =>
          let s1 := (pass s (i + 1)).modSweep wi fun k => { k with disp := k.disp + 1 }
          let s2 := s1.modWave wi fun w =>
            (w.loadElement t l i ctx (cellData t.w0 c) s.cyc).modLane l fun x => { x with elem := some i, woken := false }
          s2.enterElement wi l i ctx e
      else pass s (i + 1)

/-- A lane load has been refused and has not gone on: the engine loads no other lane (24: R379, R417). -/
def Wave.scanParked (w : Wave) (k : Sweep) : Bool :=
  (List.range 32).any fun l => k.lanes.getLsbD l && (match (w.lane l).status with | .parked p => p.scan | _ => false)
/-- The lowest sweep lane that waits inside SWEEP and either holds an element whose entry is to be read or
is free. -/
def Wave.sweepWaiter (w : Wave) (k : Sweep) : Option Nat :=
  if w.scanParked k then none
  else (List.range 32).find? fun l =>
    k.lanes.getLsbD l && decide ((w.lane l).status = .inside .sweep) && !(w.lane l).held &&
      ((w.lane l).elem.isSome || decide (k.p < k.n))

/-- The engine may act for a wave: resident, not in a handler, no pre-emption at its stop, the fork's release
complete, its last action for the sweep over (24: R373, R378, R380). -/
def State.sweepOpen (s : State) (w : Wave) (k : Sweep) : Bool :=
  decide (k.next ≤ s.cyc) && w.resident && !w.inHandler && w.preempt.isNone && !w.stoppedTrap && !w.stoppedBrk && !(s.reqs.any fun r => decide (r.id = k.fork))

/-- One lane load (22: R366; 24: R417). -/
def State.sweepLoad (s : State) (wi : Nat) : Option State :=
  match s.wave? wi with
  | none => none
  | some w =>
    match w.sweep with
    | none => none
    | some k =>
      if !s.sweepOpen w k then none
      else
        match w.sweepWaiter k with
        | none => none
        | some l =>
          let t := w.tensor k
          match (w.lane l).elem with
          | none => some (s.sweepScan wi l t k.entry k)
          | some i =>
            match s.readCell t i with
            | .error e => some (s.parkScan wi l e)
            | .ok c =>
              let ctx := cellCtx t.w0 c
              match s.readEntry t k.entry (ctxState ctx) with
              | .error e => some (s.parkScan wi l e)
              | .ok e => some (s.enterElement wi l i ctx e)

/-! ### The count pass (24: R374) -/

/-- Which of the end counts an element falls under: 0 done, 1 asleep, 2 invalid, 3 none (22: R366). -/
def countClass (ctx : Nat) (skip : Bool) : Nat :=
  if ctxDone ctx then 0 else if ctxBit6 ctx ∨ 4 < ctxKind ctx then 2 else if skip then 1 else 3

def Sweep.count (k : Sweep) (c : Nat) : Sweep :=
  match c with
  | 0 => { k with nDone := k.nDone + 1 }
  | 1 => { k with nAsleep := k.nAsleep + 1 }
  | 2 => { k with nInvalid := k.nInvalid + 1 }
  | _ => k

/-- Which elements the engine takes at once from element `i`: those up to the eighth whose skip bit is 1, or the end of the
line or of the tensor; and the cycles that takes: one for a line that begins, and one for the sleepers (24: R373). -/
def State.countRun (s : State) (t : Tensor) (i : Nat) : Nat × Nat :=
  let line := min t.n (512 * (i / 512 + 1))
  let asleep := (List.range (line - i)).filter fun j => match s.readSkip t (i + j) with | .ok b => b | .error _ => false
  ((asleep[7]?).elim (line - i) (· + 1), (if i % 512 = 0 then 1 else 0) + if asleep.isEmpty then 0 else 1)
/-- Counts on from element `i`: the counts, and the element and refusal where an access is refused. -/
def State.countFrom (s : State) (wi : Nat) (t : Tensor) (k : Sweep) (i : Nat) : Nat → Sweep × Option (Nat × Refuse)
  | 0 => (k, none)
  | fuel + 1 =>
    match s.readSkip t i with
    | .error e => (k, some (i, e))
    | .ok skip =>
      match s.readCell t i with
      | .error e => (k, some (i, e))
      | .ok c => s.countFrom wi t (k.count (countClass (s.effCtx (some wi) i (cellCtx t.w0 c)) skip)) (i + 1) fuel

/-- Every sweep lane that has not exited waits inside SWEEP with no element. -/
def Wave.sweepIdle (w : Wave) (k : Sweep) : Bool :=
  (lanesOf k.lanes).all fun l =>
    (w.lane l).isExited || (decide ((w.lane l).status = .inside .sweep) && (w.lane l).elem.isNone)

/-- The status words (22: R366). -/
def Sweep.status (k : Sweep) : Word × Word :=
  (BitVec.ofNat 64 (k.disp + k.nDone * 2 ^ 32), BitVec.ofNat 64 (k.nAsleep + k.nInvalid * 2 ^ 32))

/-- The sweep ends: its lanes receive the status and go on. -/
def State.sweepEnd (s : State) (wi : Nat) (k : Sweep) : State :=
  let base := match k.insn with | .sweep _ (.v n) _ _ _ => n.toNat | _ => 0
  let s1 := (lanesOf k.lanes).foldl (fun (st : State) l =>
    match st.wave? wi with
    | none => st
    | some w =>
      if (w.lane l).isExited then st
      else ((st.modWave wi fun w => w.modLane l fun x => { x with owed := (k.owed.find? fun e => e.1 = l).map (·.2) }).leaveInside wi l fun r =>
        match r.target with
        | .v n => if n = base then k.status.1 else k.status.2
        | _ => 0).modWave wi fun w => w.modLane l fun x => { x with acquired := s.cyc }) s
  s1.modWave wi fun w => { w with sweep := none }

/-- One action of the count pass, and after the last the end of the sweep; it goes on where it stopped if an access was refused
(24: R373, R374, R379). -/
def State.sweepCount (s : State) (wi : Nat) : Option State :=
  match s.wave? wi with
  | none => none
  | some w =>
    match w.sweep with
    | none => none
    | some k =>
      if !s.sweepOpen w k || k.faulted || decide (k.p < k.n) || !w.sweepIdle k then none
      else
        let t := w.tensor k
        let from_ := k.counting.getD 0
        let run := s.countRun t from_
        if k.n ≤ from_ then some (s.sweepEnd wi k)
        else match s.countFrom wi t k from_ run.1 with
        | (k1, none) => some (s.modSweep wi fun _ => { k1 with counting := some (from_ + run.1), next := s.cyc + run.2 })
        | (k1, some (i, e)) =>
          let r := s.record w e.cause true k.pc k.lanes [BitVec.ofNat 64 e.addr, 0, BitVec.ofNat 64 e.perms] []
          some ((s.modSweep wi fun _ => { k1 with counting := some i, faulted := true }).reportLater wi w false r)

/-! ### SWEEP -/

/-- The checks of R366 (22) on the capability of SWEEP, EWAKE or MBBIND, each made for every executing lane before the
next (04: R413): the bit, CTX, BASE, R and W, and for `n` elements the region. A lane's operands are those of lane `at_ l`. -/
def Cx.tensorTraps (cx : Cx) (s : State) (at_ : Nat → Nat) (n : Option Nat) : List (Option Trap) :=
  let fails := fun (d : Nat) (bad : Nat → Word → Word → Bool) => cx.check 0x15 fun l =>
    let w0 := cx.cap0 s cx.v.a (at_ l)
    let w1 := cx.cap1 s cx.v.a (at_ l)
    if bad (at_ l) w0 w1 then cx.capDetail s d w0 w1 (cx.b s (at_ l)) (cx.x s (at_ l)) else none
  [fails 1 fun l _ _ => !cx.cap cx.v.a 0 l, fails 5 fun _ w0 _ => !capCtx w0, fails 5 fun _ w0 _ => decide (capAddr w0 % 64 ≠ 0),
   fails 3 fun _ _ w1 => decide (capPerms w1 % 4 ≠ 3),
   fails 2 fun _ w0 w1 => match n with | some n => decide (capLen w1 < tensorBytes w0 n) | none => false]

def Cx.sweepTraps (cx : Cx) (s : State) : List (Option Trap) :=
  let l := cx.low
  let n := (cx.x s l).toNat
  cx.tensorTraps s (fun _ => l) (some n) ++
  [cx.check 0x45 fun _ => if 2 ^ 24 < n then some [3] else none,
   cx.check 0x45 fun k => if cx.w.sweep.isSome ∧ ¬ cx.w.isSweepLane k then some [2] else none,
   cx.aligned (fun _ => (cx.b s l).toNat) 64,
   cx.check 0x45 fun k => if (s.registered cx.w.asid (cx.cap0 s cx.v.a l)).isSome ∧ ¬ cx.w.isSweepLane k then some [5] else none]

/-- The executing lanes become the sweep lanes and wait inside SWEEP. -/
def Cx.sweepStart (cx : Cx) (s : State) : State :=
  let l := cx.low
  let s1 := cx.issue s noEvents
  let s2 := cx.waitInside s1 cx.ex (fun _ => .sweep) fun k => destOf cx.v.d 0 k false .u64 ++ destOf cx.v.d 1 k false .u64
  let owed := match s2.wave? cx.wi with
    | some w => (lanesOf cx.ex).filterMap fun k => (w.lane k).owed.map fun id => (k, id)
    | none => []
  let fork := s2.fresh
  let s3 := s2.request cx.wi cx.ex cx.w.core (some .dev) none .fence
  let k : Sweep := ⟨0, (cx.x s l).toNat, cx.cap0 s cx.v.a l, cx.cap1 s cx.v.a l, (cx.b s l).toNat, cx.ex, 0, cx.i, none, 0, 0, 0,
    cx.pc, fork, false, cx.w.level, owed, 0⟩
  cx.advanceBut (s3.modWave cx.wi fun w => { w with sweep := some k }) cx.ex

def execSweep (h : Hdr) (d a b x : Operand) (s : State) : Out :=
  startOwn s (.sweep h d a b x)
    (fun cx => if (lanesOf cx.ex).any cx.w.isSweepLane then [] else cx.sweepTraps s) fun cx =>
    match cx.w.sweep with
    | some k =>
      let back := maskOf fun l => cx.ex.getLsbD l && cx.w.isSweepLane l
      let w := cx.w.modLanes back fun l => l.backToSweep k
      let c := cx.narrow w back
      if c.all = 0 then s.setWave cx.wi w.passSlot
      else if c.ex = 0 then c.advance (c.issue (s.setWave cx.wi w) noEvents)
      else s.setWave cx.wi w
    | none => if cx.ex = 0 then cx.advance (cx.issue s noEvents) else cx.sweepStart s

/-! ### EWAIT and EDONE (22: R367) -/

/-- 16-byte cells of the lane's sweep: b is a run of two. -/
def Cx.endLens (cx : Cx) (l : Nat) : List Nat :=
  let two := cx.w.isSweepLane l && (match cx.w.sweep with | some k => cellSize k.word0 = 16 | none => false)
  [1, 1, if two then 2 else 1, 1]

/-- The data words of a writeback. -/
def Cx.endData (cx : Cx) (s : State) (l : Nat) : Nat :=
  match cx.w.sweep with
  | some k =>
    if cellSize k.word0 = 16 then (cx.b s l).toNat + (cx.readAt s .untyped cx.v.b 1 l).1.toNat % 2 ^ 32 * 2 ^ 64
    else (cx.b s l).toNat % 2 ^ 32
  | none => 0

/-- c of the pseudocode: bit 6 clear, DONE as the instruction says. -/
def endCtx (a : Word) (done : Bool) : Nat :=
  let c := a.toNat % 2 ^ 32
  let c := if c.testBit 6 then c - 64 else c
  let c := if c.testBit 7 then c - 128 else c
  if done then c + 128 else c

/-- The counts of a lane but for the one its running SWEEP holds. -/
def Wave.countsDone (w : Wave) (l : Nat) (own : Option (Fin 12)) : Bool :=
  let x := w.lane l
  let flag := match w.sweep with
    | some k => (match k.insn.view with | some v => v.hdr.setFlag | none => none)
    | none => none
  (List.range 12).all fun n =>
    let owed := (if flag.map (·.val) = some n then 1 else 0) + (if own.map (·.val) = some n then 1 else 0)
    decide (x.count n ≤ owed)

/-- The flag an instruction sets. -/
def flagOf (i : Instr) : Option (Fin 12) := match i.view with | some v => v.hdr.setFlag | none => none

/-- A lane inside EWAIT or EDONE whose counts are zero makes its cell write, once its cell, skip byte and, for
kind 3, watch-table entry are confirmed; a refusal parks it at the instruction. -/
def State.endElement (s : State) (wi l : Nat) : State :=
  match s.wave? wi with
  | none => s
  | some w =>
    match (w.lane l).status, w.sweep, (w.lane l).elem, (w.lane l).insn with
    | .inside (.endElement none ctx data), some k, some i, some ins =>
      if !w.countsDone l (flagOf ins) then s
      else
        let t := w.tensor k
        let need : List (Nat × Nat × Acc) := [(t.cellVa i, cellSize t.w0, .store), (t.skipVa i, 1, .store)]
          ++ (if ctxKind ctx = 3 then [(t.watchVa (ctxArg ctx % 16), 8, .load)] else [])
        match need.findSome? fun q => match s.walk t.asid t.slevel q.1 q.2.1 q.2.2 with
            | .error e => some (e, q) | .ok _ => none with
        | some (e, q) =>
          s.modWave wi fun w => (w.cancelOwed l).modLane l fun x =>
            { x with status := .parked ⟨e.cause, e.addr, q.1, q.2.1, q.2.2, e.perms, bitMask l, s.cyc, false, false⟩
                     insn := none }
        | none =>
          let id := s.fresh
          (s.request wi (bitMask l) w.core (some .dev) none (.cell i ctx data)).modWave wi fun w =>
            w.modLane l fun x => { x with status := .inside (.endElement (some id) ctx data) }
    | _, _, _, _ => s

def endWord (s : State) (i : Instr) (done : Bool) : Out :=
  startWith s i (fun cx => cx.endLens) (fun _ => none)
    (fun cx => [cx.check 0x45 fun l => if cx.w.isSweepLane l ∧ (cx.w.lane l).elem.isSome then none else some [1]]) fun cx =>
    let s1 := cx.waitInside (cx.issue s noEvents) cx.ex
      (fun l => .endElement none (endCtx (cx.a s l) done) (cx.endData s l)) fun _ => []
    (lanesOf cx.ex).foldl (fun st l => st.endElement cx.wi l) (cx.advanceBut s1 cx.ex)
def execEwait (h : Hdr) (a b : Operand) (s : State) : Out := endWord s (.ewait h a b) false
def execEdone (h : Hdr) (a b : Operand) (s : State) : Out := endWord s (.edone h a b) true

/-- Arms a watch for a kind 3 element; none when no register is free (24: R377). -/
def State.armWatch (s : State) (w : Wave) (t : Tensor) (entry : Nat) : Option State :=
  let regs := SMap.get [] s.watchRegs w.core
  if regs.any fun r => decide (r.asid = t.asid ∧ capAddr r.word0 = capAddr t.w0 ∧ r.entry = entry) then some s
  else
    match (List.range 64).find? fun k => !(regs.any fun r => decide (r.slot = k)), s.devRead t.asid t.slevel (t.watchVa entry) 8 with
    | some slot, .ok bs =>
      (match s.walk1 t.asid t.slevel (leNat bs) .load with
      | .ok pa =>
        let r : WatchReg := ⟨slot, w.tenant, 0, t.w0, t.w1, entry, pa / 64, false, t.slevel, t.asid⟩
        some { s with watchRegs := SMap.set [] s.watchRegs w.core (regs ++ [r]) }
      | .error _ => none)
    | _, _ => none

/-- A writeback performs (24: R371): the lane becomes free. -/
def State.writeback (s : State) (wi l i ctx data : Nat) : Except Refuse State :=
  match s.wave? wi with
  | none => .ok s
  | some w =>
    match w.sweep with
    | none => .ok s
    | some k =>
      let t := w.tensor k
      let done := ctxDone ctx
      let ctx := if !done ∧ (w.lane l).woken then ctxAwake ctx else ctx
      let mbPhase := (SMap.get Mailbox.unbound s.mailboxes (ctxArg ctx)).phase
      let armed := if !done ∧ ctxKind ctx = 3 then s.armWatch w t (ctxArg ctx % 16) else some s
      let awake := armed.isNone || (!done && decide (ctxKind ctx = 4 ∧ 3 ≤ mbPhase ∧ mbPhase ≤ 5))
      let ctx := if awake then ctxAwake ctx else ctx
      match (armed.getD s).writeCell t i ctx data (ctxSkip ctx) with
      | .error e => .error e
      | .ok s1 =>
        let s2 := match (w.lane l).owed with
          | some id => s1.resolve wi id s.cyc 0
          | none => s1
        .ok (s2.modWave wi fun w => w.modLane l fun x =>
          Lane.backToSweep { x with elem := none, woken := false, owed := none } k)

/-! ### EWAKE (22: R368) -/

/-- The tensor an EWAKE names, with the element count of R368. -/
def Cx.wakeTensor (cx : Cx) (s : State) (l : Nat) : Tensor :=
  let w0 := cx.cap0 s cx.v.a l
  let w1 := cx.cap1 s cx.v.a l
  let n := match s.registered cx.w.asid w0 with | some (_, _, k) => k.n | none => fitCount w0 w1
  ⟨w0, w1, n, cx.w.asid, cx.w.level⟩

def execEwake (h : Hdr) (d a b : Operand) (s : State) : Out :=
  startOwn s (.ewake h d a b)
    (fun cx => cx.tensorTraps s id none ++ [cx.check 0x15 fun l => if (cx.wakeTensor s l).n ≤ (cx.b s l).toNat
        then cx.capDetail s 2 (cx.cap0 s a l) (cx.cap1 s a l) (cx.b s l) 0 else none]) fun cx =>
    let bad := fun l =>
      let t := cx.wakeTensor s l
      let j := (cx.b s l).toNat
      [(t.cellVa j, cellSize t.w0, Acc.load), (t.skipVa j, 1, Acc.load), (t.cellVa j, cellSize t.w0, Acc.store), (t.skipVa j, 1, Acc.store)].findSome?
        fun q => s.refuses cx.w q.1 q.2.1 q.2.2
    cx.parkRest s bad 8 fun c st =>
      let s1 := c.issue st noEvents
      c.advance ((lanesOf c.ex).foldl (fun (st : State) l =>
        let s2 := st.owe c.wi l c.v.hdr.setFlag (destOf d 0 l (decide (l = c.low)) .u64)
        s2.request c.wi (bitMask l) c.w.core (some .dev) none
          (.wake (c.cap0 s a l) (c.cap1 s a l) (c.b s l).toNat st.fresh)) s1)

def execSweepLaneLoad (wi : Nat) (s : State) : Out :=
  match s.sweepLoad wi with | some t => .next t | none => .fault (.notEnabled "SWEEP_LANE_LOAD")
def execSweepCountPass (wi : Nat) (s : State) : Out :=
  match s.sweepCount wi with | some t => .next t | none => .fault (.notEnabled "SWEEP_COUNT_PASS")

end Sys2Proof.Machine
end

