-- ==== Sys2Proof/Machine/Mailboxes.lean ====
section
/-! DEFINITION. Step mailboxes (25: R382 to R390, R419) and what ends an episode (27: R401 to R409). -/

namespace Sys2Proof.Machine

/-! ### Wakes (24: R372, R379; 25: R389) -/

def HeldWake.tensor (h : HeldWake) : Tensor := ⟨h.w0, h.w1, h.n, h.asid, h.slevel⟩

/-- The PAGE_ABSENT or PAGE_PERMISSION report of a refused wake: LANES 0, D0 the fault address. -/
def State.heldReport (s : State) (t : Nat) (e : Refuse) (asid : Nat) : State :=
  let r := s.tenantRecord t e.cause 0 0 [BitVec.ofNat 64 e.addr, 0, BitVec.ofNat 64 e.perms]
  s.ringRecord t false { r with words := r.words.modify 0 fun w => w ||| BitVec.ofNat 64 (asid % 65536 * 2 ^ 32) }

/-- Performs the wakes of a held entry in order; what an access refuses is held. -/
def State.runWake (s : State) (h : HeldWake) (report : Bool) : Nat → State
  | 0 => s
  | fuel + 1 =>
    if h.count = 0 then s
    else
      match s.wakeElem h.tensor h.first h.only with
      | .error e =>
        let s1 := { s with heldWakes := s.heldWakes ++ [h] }
        if report && h.result.isNone then s1.heldReport h.tenant e h.asid else s1
      | .ok (s1, d) =>
        let s2 := match h.result with
          | some (wi, wb) => s1.resolve wi wb s.cyc (BitVec.ofNat 64 d)
          | none => s1
        s2.runWake { h with first := h.first + 1, count := h.count - 1 } report fuel
def State.wake (s : State) (h : HeldWake) : State := s.runWake h true (h.count + 1)
/-- Held wakes are tried again (24: R379). -/
def State.retryWakes (s : State) : State :=
  (s.heldWakes.filter (·.due.isNone)).foldl (fun st h => st.runWake h false (h.count + 1)) { s with heldWakes := s.heldWakes.filter (·.due.isSome) }
/-- A wake scan goes on over as many elements as a count pass would take at once, and in as many cycles (24: R373, R377). -/
def State.wakeScan (s : State) (h : HeldWake) : State :=
  let run := s.countRun h.tensor h.first
  let n := min h.count run.1
  let s1 := s.wake { h with count := n, due := none }
  if h.count ≤ n then s1
  else { s1 with heldWakes := s1.heldWakes ++ [{ h with first := h.first + n, count := h.count - n, due := some (s.cyc + run.2) }] }
/-- The wake scan that is due goes on. -/
def State.scanOn (s : State) : Option State :=
  (s.heldWakes.find? fun h => match h.due with | some c => decide (c ≤ s.cyc) | none => false).map fun h =>
    ({ s with heldWakes := s.heldWakes.erase h } : State).wakeScan h

/-- A watch register that a write has fired is freed, and the wake scan of its tensor begins, which wakes every element that
sleeps on the entry, in storage order (24: R377). -/
def execLineWatchWakeScan (core slot : Nat) (s : State) : Out :=
  let regs := SMap.get [] s.watchRegs core
  match regs.find? fun r => decide (r.slot = slot) && r.hit with
  | none => .fault (.notEnabled "LINE_WATCH_WAKE_SCAN")
  | some r =>
    let s1 := { s with watchRegs := SMap.set [] s.watchRegs core (regs.erase r) }
    let n := match s1.registered r.asid r.word0 with | some (_, _, q) => q.n | none => fitCount r.word0 r.word1
    .next (s1.wakeScan ⟨r.word0, r.word1, n, r.asid, r.slevel, r.tenant, 0, n, some (3, r.entry), none, none⟩)

def State.mb (s : State) (k : Nat) : Mailbox := SMap.get Mailbox.unbound s.mailboxes k
def State.setMb (s : State) (k : Nat) (m : Mailbox) : State := { s with mailboxes := SMap.set Mailbox.unbound s.mailboxes k m }

/-- A mailbox that enters OBS, TIMEOUT or CLOSED wakes its target. -/
def State.mbWake (s : State) (k : Nat) : State :=
  match (s.mb k).target, s.wave? (s.mb k).binder with
  | some (w0, w1, j), some w =>
    let n := match s.registered w.asid w0 with | some (_, _, q) => q.n | none => fitCount w0 w1
    s.wake ⟨w0, w1, n, w.asid, (s.mb k).slevel, w.tenant, j, 1, some (4, k), none, none⟩
  | _, _ => s
/-- A mailbox moves to a phase, with the wake that follows. -/
def State.mbPhase (s : State) (k phase : Nat) : State :=
  let s1 := s.setMb k { s.mb k with phase := phase }
  if 3 ≤ phase ∧ phase ≤ 5 then s1.mbWake k else s1

/-! ### The end of an episode (27: R408) -/

def State.episode (s : State) (e : Nat) : Episode := SMap.get Episode.free s.episodes e
def State.setEpisode (s : State) (e : Nat) (v : Episode) : State := { s with episodes := SMap.set Episode.free s.episodes e v }
/-- The live episode a mailbox is attached to. -/
def State.attached (s : State) (k : Nat) : Option Nat :=
  (s.episodes.find? fun e => decide (e.2.state = 2 ∧ e.2.firstMb ≤ k ∧ k < e.2.firstMb + e.2.nmb)).map (·.1)
def State.runQueue (s : State) (core : Nat) : List Nat := SMap.get [] s.runQueues core
def State.setRunQueue (s : State) (core : Nat) (q : List Nat) : State := { s with runQueues := SMap.set [] s.runQueues core q }
def Episode.bytes (e : Episode) : Nat := 2 ^ (16 + e.wsize)

/-- The phase a mailbox takes when its episode ends for a reason; none where it stays as it stands. -/
def endPhase (reason : Nat) : Option Nat :=
  match reason with | 0 => none | 1 | 2 | 3 => some 4 | _ => some 5

/-- The record's cause and D0 to D2, to the fault log of the owning tenant. -/
def State.episodeRecord (s : State) (e reason mbox : Nat) (cause value : Word) : State :=
  let ep := s.episode e
  let launch := match (s.mb mbox).owner with | some (_, id) => BitVec.ofNat 64 id | none => 0
  let d := fun (c : Nat) (a b : Word) =>
    s.ringRecord ep.tenant true (s.tenantRecord ep.tenant c launch ep.pc [BitVec.ofNat 64 e, a, b])
  match reason with
  | 1 => d 0x49 (BitVec.ofNat 64 mbox) 0
  | 2 => d 0x49 (BitVec.ofNat 64 mbox) 1
  | 3 => d 0x4A cause value
  | _ => s

/-- An episode ends: its mailboxes, the record, its window scrubbed and returned, its number still known. -/
def State.endEpisode (s : State) (e reason mbox : Nat) (cause value : Word) : State :=
  let ep := s.episode e
  if ep.state ≠ 2 then s
  else
    let ks := (List.range ep.nmb).map (ep.firstMb + ·)
    let s1 := match endPhase reason with
      | none => s
      | some p => ks.foldl (fun (st : State) k => if (st.mb k).phase = 5 ∨ (st.mb k).phase = 6 then st else st.mbPhase k p) s
    let s2 := s1.episodeRecord e reason mbox cause value
    let s3 := s2.zeroFrame ep.wbase ep.bytes
    let s4 := s3.setRunQueue ep.core ((s3.runQueue ep.core).filter fun x => decide (x ≠ e))
    { s4.setEpisode e { ep with state := 3, reason := reason, waiting := false } with
      framesUsed := s4.framesUsed.filter fun f => decide (f < ep.wbase / 4096 ∨ ep.wbase / 4096 + ep.bytes / 4096 ≤ f) }

/-! ### Steps of the mailbox order (25: R387) -/

/-- v is below floor F (25: R384). -/
def belowFloor (F v : Nat) : Bool := let d := (F + 65536 - v % 65536) % 65536; decide (1 ≤ d ∧ d ≤ 32767)
/-- The floor of a mailbox's group in the owning tenant. -/
def State.mbFloor (s : State) (m : Mailbox) : Nat :=
  match m.owner with | some (t, _) => SMap.get 0 (s.tenant t).floors m.group | none => 0
def State.stale (s : State) (m : Mailbox) : Bool := belowFloor (s.mbFloor m) m.aver

/-- The status word (25: R385). -/
def mbStatus (code : Nat) (stale : Bool) (m : Mailbox) : Word :=
  BitVec.ofNat 64 (code + (if stale then 16 else 0) + m.phase * 2 ^ 5 + m.aver * 2 ^ 8 + m.step * 2 ^ 32)

/-- CODE and STALE as MBTAKE would give them. -/
def State.takeCode (s : State) (m : Mailbox) : Nat × Bool :=
  match m.phase with
  | 3 => (0, s.stale m)
  | 4 => (3, false)
  | 5 => (4, false)
  | _ => (2, false)

/-- An episode that waits for an action becomes runnable, with a0 the lowest mailbox in PHASE 1 (27: R401,
R402). -/
def State.episodeReady (s : State) (k : Nat) : State :=
  match s.attached k with
  | none => s
  | some e =>
    let ep := s.episode e
    if !ep.waiting then s
    else
      let low := ((List.range ep.nmb).find? fun i => (s.mb (ep.firstMb + i)).phase = 1).getD 0
      (s.setEpisode e { ep with waiting := false, regs := SMap.set 0 ep.regs 10 (BitVec.ofNat 64 low) }).setRunQueue
        ep.core (s.runQueue ep.core ++ [e])

def slotBytes (m : SMap Byte) (n : Nat) : List Byte := (List.range n).map fun i => SMap.get 0 m i
def bytesMap (bs : List Byte) : SMap Byte := (List.range bs.length).foldl (fun t i => SMap.set 0 t i (bs.getD i 0)) []

/-- MBFREE's step; the attached episode ends with reason 6. -/
def State.mbFree (s : State) (k : Nat) : State :=
  let m := s.mb k
  let s1 := s.setMb k { m with phase := 6, target := none, action := [], obs := [] }
  match s.attached k with
  | some e => s1.endEpisode e 6 k 0 0
  | none => s1

/-- One step of a mailbox instruction; none where MBPOST's sequence test fails (25: R419). -/
def State.mbStep (s : State) (wi : Nat) (w : Wave) (i : Instr) (p : MbStep) : Option (State × Word) :=
  let m := s.mb p.mb
  match i with
  | .mbbind _ _ _ _ _ =>
    if m.phase < 4 then some (s, mbStatus 1 false m)
    else
      let x := p.x.toNat
      let target := match p.cap with
        | some (w0, w1) => if x.testBit 31 then some (w0, w1, x % 2 ^ 24) else none
        | none => none
      let m1 := { m with target := target, binder := wi, slevel := w.level, group := x / 2 ^ 24 % 64, termStale := x.testBit 30
                         step := 0, phase := 0, seqErr := false, counter := 0 }
      some (s.setMb p.mb m1, mbStatus 0 false m1)
  | .mbpost _ _ _ _ _ =>
    if m.phase ≠ 0 then some (s, mbStatus 1 false m)
    else if p.x.toNat % 2 ^ 32 ≠ m.step then none
    else
      let bytes := (List.range 256).map fun k => s.coreByte w.core (paOf p.va p.pas k)
      let m1 := { m with action := bytesMap bytes, aver := p.x.toNat / 2 ^ 32 % 65536, phase := 1 }
      some ((s.setMb p.mb m1).episodeReady p.mb, mbStatus 0 false m1)
  | .mbtake _ _ _ _ =>
    let c := s.takeCode m
    if m.phase ≠ 3 then some (s, mbStatus c.1 c.2 m)
    else
      let s1 := s.dieWriteAt (dieOfCore w.core) p.va p.pas (slotBytes m.obs 4096)
      if c.2 && m.termStale then
        let s2 := s1.mbPhase p.mb 5
        let s3 := match s.attached p.mb with | some e => s2.endEpisode e 4 p.mb 0 0 | none => s2
        some (s3, mbStatus 0 true (s2.mb p.mb))
      else
        let m1 := { m with step := (m.step + 1) % 2 ^ 32, phase := 0 }
        some (s1.setMb p.mb m1, mbStatus 0 c.2 m1)
  | .mbstat _ _ _ => let c := s.takeCode m; some (s, mbStatus c.1 c.2 m)
  | .mbfloor _ _ _ _ =>
    let F := SMap.get 0 (s.tenant w.tenant).floors p.mb
    let b := p.x.toNat % 65536
    let s1 := if belowFloor b F then s.modTenant w.tenant fun t => { t with floors := SMap.set 0 t.floors p.mb b } else s
    some (s1, BitVec.ofNat 64 F)
  | .mbfree _ _ _ =>
    let s1 := s.mbFree p.mb
    some (s1, mbStatus 0 false (s1.mb p.mb))
  | _ => some (s, 0)

/-- The steps of a request in order; the lanes whose sequence test failed, with mailbox and step. -/
def State.mbSteps (s : State) (wi : Nat) (w : Wave) (i : Instr) : List MbStep → State × List MbStep
  | [] => (s, [])
  | p :: rest =>
    match s.mbStep wi w i p with
    | none => let r := s.mbSteps wi w i rest; (r.1, p :: r.2)
    | some (s1, v) =>
      let s2 := s1.bump.resolve wi p.wb (s1.cyc + s1.delay 60) v
      let s3 := match i with
        | .mbtake _ _ _ _ => s2.modWave wi fun w => w.modLane p.lane fun l => { l with acquired := s.cyc }
        | _ => s2
      s3.mbSteps wi w i rest

def isPost : Instr → Bool | .mbpost _ _ _ _ _ => true | _ => false

/-- The request of a mailbox instruction leaves its core: its steps are taken, and the lanes of an MBPOST go on
or trap MAILBOX_SEQUENCE. -/
def State.mailboxRun (s : State) (r : Request) (i : Instr) (steps : List MbStep) : State :=
  match s.wave? r.wave with
  | none => s
  | some w =>
    let (s1, bad) := s.mbSteps r.wave w i steps
    if !isPost i then s1
    else
      let badMask := maskOf fun l => bad.any fun p => decide (p.lane = l)
      let s2 := s1.modWave r.wave fun w =>
        (lanesOf badMask).foldl (fun w l => w.cancelOwed l) w
      let s3 := s2.modWave r.wave fun w => w.mapLanes fun l x =>
        if x.status = .inside (.outcome r.id) then
          (if badMask.getLsbD l then { x with status := .ready, insn := none } else x.goOn)
        else x
      match bad with
      | [] => s3
      | p :: _ => s3.raise r.wave ⟨badMask, 0x48, false, [BitVec.ofNat 64 p.mb, BitVec.ofNat 64 (p.x.toNat % 2 ^ 32)]⟩

/-! ### The instructions (25: R386) -/

/-- MAILBOX_UNBOUND: a mailbox outside the launch's range. -/
def Cx.mbOutside (cx : Cx) (s : State) (mb : Nat → Word) : Option Trap :=
  let own := match s.launchOf cx.w with | some L => (L.mbox, L.cart.mboxn) | none => (0, 0)
  cx.check 0x47 fun l => if own.1 ≤ (mb l).toNat ∧ (mb l).toNat < own.1 + own.2 then none else some [mb l]

/-- Makes the request of a mailbox instruction; MBPOST's lanes wait inside it. -/
def Cx.mailbox (cx : Cx) (s : State) (rel : Option Scope) (lead : Bool) (step : Nat → MbStep) : State :=
  let s1 := cx.issue s noEvents
  let lanes := if lead then (if cx.ex = 0 then [] else [cx.low]) else lanesOf cx.ex
  let r := lanes.foldl (fun (a : State × List MbStep) l =>
    let st := a.1
    let s2 := if lead then st.pend cx.wi cx.ex cx.v.hdr.setFlag none true (cx.writes cx.v.d 0 (fun _ => (0, .u64)) false)
      else st.owe cx.wi l cx.v.hdr.setFlag (destOf cx.v.d 0 l (decide (l = cx.low)) .u64)
    (s2, a.2 ++ [{ step l with wb := st.fresh }])) (s1, [])
  if lanes.isEmpty then cx.advance s1
  else
    let id := r.1.fresh
    let s3 := (r.1.request cx.wi cx.ex cx.w.core rel none (.mailbox cx.i r.2)).markEffects cx.w.block
    if isPost cx.i then
      s3.modWave cx.wi fun w => w.mapLanes fun l x =>
        if cx.ex.getLsbD l then
          { x with status := .inside (.outcome id), insn := some cx.i, owed := (r.2.find? fun p => p.lane = l).map (·.wb) }
        else if cx.all.getLsbD l then x.next else x
    else cx.advance s3

/-- CAP_FAULT of MBBIND: the checks of R366 but the sweep check, then an element beyond the tensor. -/
def Cx.bindTraps (cx : Cx) (s : State) : List (Option Trap) :=
  if cx.v.a = .none then []
  else
    cx.tensorTraps s id none ++ [cx.check 0x15 fun l =>
      let w0 := cx.cap0 s cx.v.a l
      let w1 := cx.cap1 s cx.v.a l
      let n := match s.registered cx.w.asid w0 with | some (_, _, k) => k.n | none => fitCount w0 w1
      if n ≤ (cx.x s l).toNat % 2 ^ 24 ∧ (cx.x s l).getLsbD 31 then cx.capDetail s 2 w0 w1 (cx.b s l) (cx.x s l) else none]

def execMbbind (h : Hdr) (d a b x : Operand) (s : State) : Out :=
  startOwn s (.mbbind h d a b x) (fun cx => cx.mbOutside s (cx.b s) :: cx.bindTraps s) fun cx =>
    cx.mailbox s none false fun l =>
      ⟨l, (cx.b s l).toNat, 0, cx.x s l, if a = .none then none else some (cx.cap0 s a l, cx.cap1 s a l), [], 0⟩
def execMbpost (h : Hdr) (d a b x : Operand) (s : State) : Out :=
  startOwn s (.mbpost h d a b x) (fun cx => [cx.mbOutside s (cx.a s), cx.aligned (fun l => (cx.b s l).toNat) 64]) fun cx =>
    cx.parkRest s (fun l => s.refuses cx.w (cx.b s l).toNat 256 .load) 256 fun c st =>
      let pas := fun l => s.confirmed c.w (c.b s l).toNat 256 .load
      c.consuming st (fun l => (List.range 4).findSome? fun i => s.memMark (paOf (c.b s l).toNat (pas l) (64 * i)) 64) <|
        c.mailbox st (some .dev) false fun l => ⟨l, (c.a s l).toNat, (c.b s l).toNat, c.x s l, none, pas l, 0⟩
def execMbtake (h : Hdr) (d a b : Operand) (s : State) : Out :=
  startOwn s (.mbtake h d a b) (fun cx => [cx.mbOutside s (cx.a s), cx.aligned (fun l => (cx.b s l).toNat) 64]) fun cx =>
    cx.parkRest s (fun l => s.refuses cx.w (cx.b s l).toNat 4096 .store) 4096 fun c st =>
      c.mailbox st none false fun l =>
        ⟨l, (c.a s l).toNat, (c.b s l).toNat, 0, none, s.confirmed c.w (c.b s l).toNat 4096 .store, 0⟩
/-- MBSTAT accepts any mailbox of the tenant. -/
def execMbstat (h : Hdr) (d a : Operand) (s : State) : Out :=
  startOwn s (.mbstat h d a) (fun cx => [cx.check 0x47 fun l =>
      match (s.mb (cx.a s l).toNat).owner with
      | some (t, _) => if t = cx.w.tenant then none else some [cx.a s l]
      | none => some [cx.a s l]]) fun cx =>
    cx.mailbox s none false fun l => ⟨l, (cx.a s l).toNat, 0, 0, none, [], 0⟩
def execMbfloor (h : Hdr) (d a b : Operand) (s : State) : Out :=
  startOwn s (.mbfloor h d a b) (fun cx => [cx.check 0x47 fun _ =>
      if (cx.a s cx.low).toNat < 64 then none else some [cx.a s cx.low]]) fun cx =>
    cx.mailbox s none true fun l => ⟨l, (cx.a s l).toNat, 0, cx.b s l, none, [], 0⟩
def execMbfree (h : Hdr) (d a : Operand) (s : State) : Out :=
  startOwn s (.mbfree h d a) (fun cx => [cx.mbOutside s (cx.a s)]) fun cx =>
    cx.mailbox s none false fun l => ⟨l, (cx.a s l).toNat, 0, 0, none, [], 0⟩

end Sys2Proof.Machine
end

