-- ==== Sys2Proof/Machine/Launch.lean ====
section
/-! DEFINITION. What a launch asks for and when it is refused (10: R208; 17: R296 to R298; 25: R383), how a
launch and a task are made (17: R297, R300; 19: R316, R321, R323), and LAUNCH, LAUNCHG, TASK, LJOIN. -/

namespace Sys2Proof.Machine

/-! ### Sizes and placement sets -/

/-- Granules of one wave without mirrors: header and frame (08: R162). -/
def Cartouche.waveNeed (c : Cartouche) : Nat := c.frame / 16 + 1
/-- Tile granules: the slots rounded up to even, two a granule. -/
def Cartouche.tileG (c : Cartouche) : Nat := (c.tiles + 1) / 2
/-- Granules of one block without mirrors. -/
def Cartouche.need (c : Cartouche) : Nat := c.scratchG + c.tileG + c.commitG + c.waves * c.waveNeed
/-- What a block asks of a core, or what a core has: wave slots, granules in all, and those of the scratchpad and of the tile
store, which have ceilings of their own (08: R162; 10: R189). -/
structure Room where
  slots : Nat
  granules : Nat
  scratch : Nat
  tiles : Nat
deriving DecidableEq, Repr
def Room.within (a b : Room) : Bool := decide (a.slots ≤ b.slots ∧ a.granules ≤ b.granules ∧ a.scratch ≤ b.scratch ∧ a.tiles ≤ b.tiles)
def Room.less (a b : Room) : Room := ⟨a.slots - b.slots, a.granules - b.granules, a.scratch - b.scratch, a.tiles - b.tiles⟩
/-- What one block of a kernel asks for, without mirrors. -/
def Cartouche.room (c : Cartouche) : Room := ⟨c.waves, c.need, c.scratchG, c.tileG⟩
/-- A sound core that is empty. -/
def Room.ofCore : Room := ⟨64, 928, 768, 128⟩
/-- A unit of a kind that is fused off (00: R2). -/
def State.isAbsent (s : State) (kind n : Nat) : Bool := s.absent.contains (kind, n)
/-- The quadrants of a core that are present; a core that is fused off has none. -/
def State.quadsOf (s : State) (core : Nat) : List Nat :=
  if s.isAbsent 0 core then [] else (List.range 4).filter fun q => !s.isAbsent 1 (4 * core + q)
/-- A core is healthy: none of it is fused off (19: R318). -/
def State.healthy (s : State) (core : Nat) : Bool := decide (s.quadsOf core = [0, 1, 2, 3])
/-- An empty core, with what is fused off or fenced left out (00: R2; 16: R280). -/
def State.emptyCore (s : State) (core : Nat) : Room :=
  let q := (s.quadsOf core).length
  ⟨16 * q, if q = 0 then 0 else min 928 (928 - SMap.get 0 s.fencedGranules core), 768, 128⟩

/-- Blocks with members in an entry. -/
def Cartouche.entryBlocks (c : Cartouche) (e : Nat) : List Nat := (c.groups.filter fun r => decide (r.entry = e)).map (·.block)
/-- Blocks joined with some blocks by one entry each. -/
def Cartouche.joinStep (c : Cartouche) (bs : List Nat) : List Nat :=
  (bs ++ c.groups.flatMap fun r => if bs.contains r.block then c.entryBlocks r.entry else []).eraseDups
def iterate {α : Type} (f : α → α) : Nat → α → α
  | 0, x => x
  | n + 1, x => iterate f n (f x)
def insertNat (n : Nat) : List Nat → List Nat
  | [] => [n]
  | m :: rest => if n ≤ m then n :: m :: rest else m :: insertNat n rest
def sortNat (l : List Nat) : List Nat := l.foldr insertNat []
/-- The placement set of a block, ascending (10: R208). -/
def Cartouche.setOf (c : Cartouche) (i : Nat) : List Nat := sortNat (iterate c.joinStep (c.groups.length + 1) [i])

/-- The group table names a block or wave outside the launch, or puts a wave in a fifth entry. -/
def Cartouche.groupsBad (c : Cartouche) (n : Nat) : Bool :=
  (c.groups.any fun r => decide (n ≤ r.block ∨ c.waves ≤ r.wlast)) ||
  c.groups.any fun r => (List.range c.waves).any fun w => decide (r.wfirst ≤ w ∧ w ≤ r.wlast) &&
    decide (4 < (((c.groups.filter fun q => decide (q.block = r.block ∧ q.wfirst ≤ w ∧ w ≤ q.wlast)).map (·.entry)).eraseDups).length)
def clusterCores (k : Nat) : List Nat := (List.range 64).map (64 * k + ·)

/-! ### What fits an empty cluster -/

/-- The core to take a block: the one with the most granules among those that can take it, at a tie the lowest. -/
def bestCore (free : List Room) (need : Room) : Option Nat :=
  (List.range free.length).foldl (fun b i =>
    let f := free.getD i ⟨0, 0, 0, 0⟩
    if !need.within f then b
    else match b with
      | none => some i
      | some j => if (free.getD j ⟨0, 0, 0, 0⟩).granules < f.granules then some i else b) none
/-- Blocks of these sizes, taken in order, all find a core. -/
def fitAll (free : List Room) : List Room → Bool
  | [] => true
  | n :: rest =>
    match bestCore free n with
    | none => false
    | some i => fitAll (free.modify i fun f => f.less n) rest
/-- A placement set needs more than one cluster's 64 cores, wave slots or granules (10: R208). -/
def setsBad (c : Cartouche) : Bool :=
  c.groups.any fun r =>
    let n := (c.setOf r.block).length
    decide (1 < n) && (decide (64 * 64 < n * c.waves) || !fitAll (List.replicate 64 Room.ofCore) (List.replicate n c.room))
def State.emptyCluster (s : State) (k : Nat) : List Room := (clusterCores k).map s.emptyCore
def State.unitFits (s : State) (sizes : List Room) : Bool :=
  decide ((sizes.map (·.slots)).sum ≤ 4096) && (List.range 6).any fun k => fitAll (s.emptyCluster k) sizes
/-- The cores of a rectangle at an origin, when it lies inside the grid (19: R318). -/
def rectCores (k x y w h : Nat) : Option (List Nat) :=
  if x + w ≤ 8 ∧ y + h ≤ 8 then some ((List.range (w * h)).map fun b => 64 * k + 8 * (y + b / w) + x + b % w) else none
def State.rectFits (s : State) (need : Room) (w h : Nat) : Bool :=
  (List.range 6).any fun k => (List.range 64).any fun o =>
    match rectCores k (o % 8) (o / 8) w h with
    | none => false
    | some cs => cs.all fun c => s.healthy c && need.within (s.emptyCore c)

/-! ### Descriptors (17: R296) -/

structure Desc where
  cart : Nat
  bx : Nat
  by_ : Nat
  bz : Nat
  asid : Nat
  prio : Nat
  nojoin : Bool
  rect : Option (Nat × Nat)
  args : Word
  reserved : Bool
deriving DecidableEq, Repr

def field (w : Word) (lo n : Nat) : Nat := w.toNat / 2 ^ lo % 2 ^ n
def Desc.ofBytes (bs : List Byte) : Desc :=
  let w := wordAt bs
  { cart := (w 0).toNat, bx := field (w 1) 0 32, by_ := field (w 1) 32 32, bz := field (w 2) 0 32, asid := field (w 2) 32 16
    prio := field (w 2) 48 2, nojoin := (w 2).getLsbD 50
    rect := if (w 3).getLsbD 6 then some (field (w 3) 0 3 + 1, field (w 3) 3 3 + 1) else none
    args := w 4
    reserved := decide (field (w 2) 51 13 ≠ 0 ∨ field (w 3) 7 57 ≠ 0) || ((bs.drop 40).any fun b => decide (b ≠ 0)) }
def Desc.count (d : Desc) : Nat := d.bx * d.by_ * d.bz

/-- Who makes a launch: tenant, ASID and level of the wave, PRIO of its launch, its cluster. -/
structure Caller where
  tenant : Nat
  asid : Nat
  slevel : Bool
  prio : Nat
  cluster : Nat
deriving DecidableEq, Repr

def State.caller (s : State) (w : Wave) (slevel : Bool) : Caller :=
  ⟨w.tenant, w.asid, slevel, ((s.launchOf w).map (·.prio)).getD 0, w.core / 64⟩
def State.kernel (s : State) (t addr : Nat) : Option Cartouche := s.carts.find? fun c => decide (c.addr = addr ∧ c.tenant = t)

/-- The capability images of a launch's argument block, read in the caller's address space (19: R316). -/
def State.images (s : State) (c : Caller) (d : Desc) : List (Word × Word) :=
  match s.kernel c.tenant d.cart with
  | none => []
  | some k =>
    match s.devRead c.asid c.slevel d.args.toNat (16 * k.ncap) with
    | .ok bs => (List.range k.ncap).map fun i => (wordAt bs (2 * i), wordAt bs (2 * i + 1))
    | .error _ => []

/-! ### Refusals (17: R298) -/

/-- The status codes that one descriptor meets alone, in order. -/
def State.descTests (s : State) (c : Caller) : List (Nat × (Desc → Bool)) :=
  let k := fun (d : Desc) => s.kernel c.tenant d.cart
  [(0x01, fun d => d.reserved || decide (d.count = 0 ∨ 2 ^ 32 - 1 < d.count)
      || (c.slevel && (s.images c d).any fun p => !capOk p.1 p.2)),
   (0x06, fun d => !(s.tenant c.tenant).asids.contains d.asid
      || (!c.slevel && (decide (d.asid ≠ c.asid ∨ c.prio < d.prio) || (match k d with | some q => decide (q.ncap ≠ 0) | none => false)))),
   (0x02, fun d => (k d).isNone),
   (0x07, fun d => match d.rect with | some r => decide (d.count ≠ r.1 * r.2) | none => false),
   (0x03, fun d => match k d with | some q => q.groupsBad d.count || setsBad q | none => false)]

/-- Gang bindings that do not match (19: R321). -/
def gangBad (ks : List Cartouche) : Bool :=
  (ks.any fun k => decide (k.gangsym = 0 ∨ k.gangsym ≠ ((ks.head?).map (·.gangsym)).getD 0)) ||
  (ks.flatMap (·.pipes)).any fun p =>
    !((ks.flatMap (·.pipes)).any fun q => decide (q.symbol = p.symbol) && (q.recv != p.recv))

/-- 0x04: a block, a placement set, a rectangle or a gang fits no cluster. -/
def State.noFit (s : State) (ks : List (Desc × Cartouche)) (gang : Bool) : Bool :=
  (ks.any fun p =>
    !s.unitFits [p.2.room] ||
    (match p.1.rect with | some r => !s.rectFits p.2.room r.1 r.2 | none => false) ||
    p.2.groups.any fun g => !s.unitFits ((p.2.setOf g.block).map fun _ => p.2.room)) ||
  (gang && (decide (4096 < (ks.map fun p => p.1.count * p.2.waves).sum) ||
    !s.unitFits (ks.flatMap fun p => List.replicate p.1.count p.2.room)))

/-- The lowest run of `n` mailboxes of a die that no live launch owns (25: R383). -/
def State.freeRun (s : State) (n die : Nat) : Option Nat :=
  ((List.range (2048 - n + 1)).map (2048 * die + ·)).find? fun f =>
    (List.range n).all fun i => (s.mb (f + i)).owner.isNone
def State.mailboxRunFor (s : State) (n die : Nat) : Option Nat :=
  if 2048 < n then none
  else match s.freeRun n die with
    | some f => some f
    | none => s.freeRun n (1 - die)
/-- Gives a launch its mailboxes, each UNBOUND. -/
def State.ownMailboxes (s : State) (f n : Nat) (owner : Nat × Nat) : State :=
  (List.range n).foldl (fun s i => s.setMb (f + i) { Mailbox.unbound with owner := some owner }) s

/-- The runs of launches in order; none when one cannot be given. -/
def State.giveRuns (s : State) (die t : Nat) : List (Nat × Nat) → Option (State × List Nat)
  | [] => some (s, [])
  | (id, n) :: rest =>
    if n = 0 then (s.giveRuns die t rest).map fun r => (r.1, 0 :: r.2)
    else match s.mailboxRunFor n die with
      | none => none
      | some f => ((s.ownMailboxes f n (t, id)).giveRuns die t rest).map fun r => (r.1, f :: r.2)

/-- Launches of a tenant that its table holds. -/
def State.tableUse (s : State) (t : Nat) : Nat := (s.launches.filter fun L => L.known && decide (L.tenant = t)).length

/-- The status of a launch of descriptors `ds`, of a gang whose count is out of range or not; 0 when none refuses. -/
def State.refusal (s : State) (c : Caller) (ds : List Desc) (gang badCount : Bool) : Nat :=
  match (s.descTests c).find? fun t => ds.any t.2 with
  | some t => t.1
  | none =>
    let ks := ds.filterMap fun d => (s.kernel c.tenant d.cart).map fun k => (d, k)
    if gang && (badCount || gangBad (ks.map (·.2))) then 0x08
    else if s.noFit ks gang then 0x04
    else if (s.giveRuns (c.cluster / 3) c.tenant (ks.map fun p => (0, p.2.mboxn))).isNone then 0x09
    else if 4096 < s.tableUse c.tenant + ds.length then 0x05
    else 0

/-! ### Making launches -/

/-- A launch joins the offer queues (19: R317), and the table of running launches (13: R241). -/
def State.joinQueue (s : State) (li : Nat) : State :=
  match s.launches[li]? with
  | none => s
  | some L =>
    let s1 := s.bump.modLaunch li fun L => { L with made := s.fresh + 1, task := none }
    { s1 with recovery := s1.recovery ++ [⟨L.tenant, L.id, L.cart.entry, L.asid, L.bx, L.by_, L.bz, L.cart.waves, false, []⟩] }

/-- Enters a launch in the table; it joins the queues unless it is a task that waits. -/
def State.enterLaunch (s : State) (c : Caller) (d : Desc) (k : Cartouche) (id mbox : Nat) (gang : Option Nat)
    (caps : List (Word × Word)) (task : Option Nat) (regions : List (Nat × Nat × Bool)) : State :=
  let L : Launch := {
    id := id, tenant := c.tenant, cart := k, bx := d.bx, by_ := d.by_, bz := d.bz, asid := d.asid, prio := d.prio
    nojoin := d.nojoin, rect := d.rect, args := d.args, caps := caps, gang := gang, made := 0
    completed := 0, faulted := 0, killed := 0, relaunched := 0, ended := false, ending := none, known := true
    mbox := mbox, task := task, regions := regions, debugger := false, scoreboard := false, preempted := false, stayOut := false, displaced := false
    home := c.cluster, freeing := false, waiters := [] }
  { s with launches := s.launches ++ [L] }

/-- The pipes of a gang (19: R321). -/
def gangPipes (t gang : Nat) (ks : List Cartouche) : List Pipe :=
  let ps := ks.flatMap (·.pipes)
  ((ps.map (·.symbol)).eraseDups).map fun y =>
    ⟨t, gang, y, 2 ^ ((ps.filter fun p => decide (p.symbol = y)).map (·.caplog)).foldl min 8, [], none⟩

def State.enterAll (s : State) (c : Caller) (gang : Option Nat) : List ((Desc × Cartouche) × Nat × Nat) → State
  | [] => s
  | (p, id, f) :: rest =>
    let li := s.launches.length
    let s1 := s.enterLaunch c p.1 p.2 id (if p.2.mboxn = 0 then 0 else f) gang (s.images c p.1) none []
    (s1.joinQueue li).enterAll c gang rest

/-- LAUNCH or LAUNCHG makes its launches: the state, and the value of d (17: R297). -/
def State.makeLaunches (s : State) (c : Caller) (ds : List Desc) (gang badCount : Bool) : State × Word :=
  let st := s.refusal c ds gang badCount
  if st ≠ 0 then (s, BitVec.ofNat 64 (2 ^ 63 + st))
  else
    let ks := ds.filterMap fun d => (s.kernel c.tenant d.cart).map fun k => (d, k)
    let id := (s.tenant c.tenant).nextLaunch
    let ids := (List.range ks.length).map (id + ·)
    match s.giveRuns (c.cluster / 3) c.tenant (ids.zip (ks.map fun p => p.2.mboxn)) with
    | none => (s, BitVec.ofNat 64 (2 ^ 63 + 0x09))
    | some (s1, fs) =>
      let s2 := s1.modTenant c.tenant fun t => { t with nextLaunch := id + ks.length }
      let s3 := s2.enterAll c (if gang then some id else none) (ks.zip (ids.zip fs))
      let s4 := if gang then { s3 with pipes := s3.pipes ++ gangPipes c.tenant id (ks.map (·.2)) } else s3
      (s4, BitVec.ofNat 64 id)

/-- The descriptors at an address. -/
def State.readDescs (s : State) (c : Caller) (va n : Nat) : List Desc :=
  match s.devRead c.asid c.slevel va (64 * n) with
  | .ok bs => (List.range n).map fun i => Desc.ofBytes ((bs.drop (64 * i)).take 64)
  | .error _ => (List.range n).map fun _ => Desc.ofBytes []

/-- A count of LAUNCHG that no gang may have, and the descriptors that are tested all the same: the first 16 of those it names
(log entry 55). -/
def badCount (n : Nat) : Bool := decide (n < 2 ∨ 16 < n)
/-- The request of LAUNCH or LAUNCHG has left, its release complete. The launch table is being checked until the result
stands (17: R297). -/
def State.launchRun (s : State) (r : Request) (desc : Nat) (count : Option Nat) (slevel : Bool) (wb : Nat) : State :=
  match s.wave? r.wave with
  | none => s
  | some w =>
    let c := s.caller w slevel
    let out := match count with
      | none => s.makeLaunches c (s.readDescs c desc 1) false false
      | some n => s.makeLaunches c (s.readDescs c desc (min n 16)) true (badCount n)
    let due := max s.cyc (r.issued + out.1.delay 200)
    { out.1.bump with checking := SMap.set 0 out.1.checking w.tenant due }.resolve r.wave wb due out.2

/-! ### Tasks (17: R300; 19: R323) -/

/-- Two regions, as base, length and whether it is written, meet in some byte, and one of them is written. -/
def rangesMeet (a b : Nat × Nat × Bool) : Bool :=
  decide (0 < a.2.1 ∧ 0 < b.2.1 ∧ a.1 < b.1 + b.2.1 ∧ b.1 < a.1 + a.2.1) && (a.2.2 || b.2.2)
/-- A write region of one overlaps a region of the other. -/
def tasksConflict (a b : List (Nat × Nat × Bool)) : Bool := a.any fun x => b.any fun y => rangesMeet x y
def State.taskTable (s : State) (k : Nat) : List Nat := SMap.get [] s.tasks k

/-- An earlier task of the table that has not ended conflicts with a task. -/
def State.taskHeld (s : State) (k li : Nat) : Bool :=
  ((s.taskTable k).takeWhile fun x => decide (x ≠ li)).any fun e =>
    match s.launches[e]?, s.launches[li]? with
    | some a, some b => !a.ended && tasksConflict a.regions b.regions
    | _, _ => false

/-- Makes the launches of tasks of a cluster that nothing holds any more, in the order they were entered. -/
def State.releaseTasks (s : State) (k : Nat) : State :=
  (s.taskTable k).foldl (fun st li =>
    match st.launches[li]? with
    | some L => if L.task = some k ∧ st.taskHeld k li = false then st.joinQueue li else st
    | none => st) s

/-- The request of TASK has left. -/
def State.taskRun (s : State) (r : Request) (desc : Nat) (regions : List (Nat × Nat × Bool)) (caps : List (Word × Word))
    (slevel : Bool) (wb : Nat) : State :=
  match s.wave? r.wave with
  | none => s
  | some w =>
    let c := s.caller w slevel
    let d := ((s.readDescs c desc 1).headD (Desc.ofBytes []))
    let st := s.refusal c [d] false false
    let id := (s.tenant c.tenant).nextLaunch
    let due := max s.cyc (r.issued + s.delay 200)
    match s.kernel c.tenant d.cart with
    | some k =>
      if st ≠ 0 then s.bump.resolve r.wave wb due (BitVec.ofNat 64 (2 ^ 63 + st))
      else
        match s.giveRuns (c.cluster / 3) c.tenant [(id, k.mboxn)] with
        | none => s.bump.resolve r.wave wb due (BitVec.ofNat 64 (2 ^ 63 + 0x09))
        | some (s1, fs) =>
          let li := s1.launches.length
          let images := s.images c d
          let s2 := (s1.modTenant c.tenant fun t => { t with nextLaunch := id + 1 }).enterLaunch c d k id
            (if k.mboxn = 0 then 0 else fs.headD 0) none (caps ++ images.drop caps.length) (some c.cluster) regions
          let s3 := { s2 with tasks := SMap.set [] s2.tasks c.cluster (s2.taskTable c.cluster ++ [li]) }
          (s3.releaseTasks c.cluster).bump.resolve r.wave wb due (BitVec.ofNat 64 id)
    | none => s.bump.resolve r.wave wb due (BitVec.ofNat 64 (2 ^ 63 + (if st = 0 then 0x02 else st)))

/-! ### The instructions -/

/-- One result for every executing lane, its time not known (17: R291). -/
def Cx.cohortRequest (cx : Cx) (s : State) (k : Nat → ReqKind) : State :=
  let s1 := cx.issue s noEvents
  let s2 := s1.pend cx.wi cx.ex cx.v.hdr.setFlag none true (cx.writes cx.v.d 0 (fun _ => (0, .u64)) false)
  cx.advance (s2.request cx.wi cx.ex cx.w.core (some .dev) none (k s1.fresh))

/-- The capability images of a launch are confirmed with its descriptor (21: R415). -/
def Cx.confirmImages (cx : Cx) (s : State) : List Desc → (State → State) → State
  | [], k => k s
  | d :: rest, k =>
    let n := match s.kernel cx.w.tenant d.cart with | some q => if cx.w.level then q.ncap else 0 | none => 0
    if n = 0 then cx.confirmImages s rest k
    else cx.confirm s d.args.toNat (16 * n) .load fun _ => cx.confirmImages s rest k

/-- Confirms descriptors and images, then makes the request. -/
def Cx.launch (cx : Cx) (s : State) (va n : Nat) (k : Nat → ReqKind) : State :=
  if n = 0 then cx.cohortRequest s k
  else cx.confirm s va (64 * n) .load fun _ =>
    cx.confirmImages s (s.readDescs (s.caller cx.w cx.w.level) va n) fun s => cx.cohortRequest s k

/-- The launch table of a tenant is being checked for an earlier launch (17: R297). -/
def State.checkingTable (s : State) (t : Nat) : Bool := decide (s.cyc < SMap.get 0 s.checking t)
/-- LAUNCH and LAUNCHG wait without issuing while the launch table is being checked. -/
def Cx.launchWhenFree (cx : Cx) (s : State) (k : State) : State :=
  if s.checkingTable cx.w.tenant then cx.block s cx.ex .launchCheck fun c s => c.advance (c.issue s noEvents) else k

def execLaunch (h : Hdr) (d a : Operand) (s : State) : Out :=
  startOwn s (.launch h d a) (fun cx => [cx.aligned (fun _ => (cx.a s cx.low).toNat) 64]) fun cx =>
    if cx.ex = 0 then cx.advance (cx.issue s noEvents)
    else cx.launchWhenFree s (cx.launch s (cx.a s cx.low).toNat 1 fun wb => .launch (cx.a s cx.low).toNat none cx.w.level wb)

def execLaunchg (h : Hdr) (d a b : Operand) (s : State) : Out :=
  startOwn s (.launchg h d a b) (fun cx => [cx.aligned (fun _ => (cx.a s cx.low).toNat) 64]) fun cx =>
    if cx.ex = 0 then cx.advance (cx.issue s noEvents)
    else
      let n := (cx.b s cx.low).toNat
      cx.launchWhenFree s (cx.launch s (cx.a s cx.low).toNat (min n 16) fun wb => .launch (cx.a s cx.low).toNat (some n) cx.w.level wb)

/-- Reads and writes of a TASK (17: R300). -/
def Cx.taskCounts (cx : Cx) (s : State) : Nat × Nat :=
  let x := (cx.x s cx.low).toNat
  (x % 8, x / 8 % 8)
/-- The run of capability registers TASK names. -/
def Cx.taskLens (cx : Cx) (s : State) : List Nat :=
  let n := cx.taskCounts s
  [1, 2 * (n.1 + n.2), 1, 1]
def Cx.taskCap (cx : Cx) (s : State) (i : Nat) : Word × Word :=
  ((cx.readAt s .untyped cx.v.a (2 * i) cx.low).1, (cx.readAt s .untyped cx.v.a (2 * i + 1) cx.low).1)
/-- The bounds test, then each pair in order: capability bit, then permission. -/
def Cx.taskTraps (cx : Cx) (s : State) : List (Option Trap) :=
  let n := cx.taskCounts s
  let fail := fun (detail i : Nat) => cx.capDetail s detail (cx.taskCap s i).1 (cx.taskCap s i).2 (cx.b s cx.low) (cx.x s cx.low)
  cx.check 0x15 (fun _ => if 4 < n.1 ∨ 2 < n.2 then fail 5 0 else none) ::
  (List.range (n.1 + n.2)).flatMap fun i =>
    [cx.check 0x15 (fun _ => if cx.cap cx.v.a (2 * i) cx.low then none else fail 1 i),
     cx.check 0x15 (fun _ => if (capPerms (cx.taskCap s i).2).testBit (if i < n.1 then 0 else 1) then none else fail 3 i)]
def Cx.taskRegions (cx : Cx) (s : State) : List (Nat × Nat × Bool) :=
  let n := cx.taskCounts s
  (List.range (n.1 + n.2)).map fun i => (capAddr (cx.taskCap s i).1, capLen (cx.taskCap s i).2, decide (n.1 ≤ i))

/-- Tasks of a cluster's table and those on their way to it. -/
def State.taskLoad (s : State) (k : Nat) : Nat :=
  (s.taskTable k).length + (s.reqs.filter fun r => decide (r.core / 64 = k) && (match r.kind with | .task _ _ _ _ _ => true | _ => false)).length

def execTask (h : Hdr) (d a b x : Operand) (s : State) : Out :=
  startWith s (.task h d a b x) (fun cx _ => cx.taskLens s) (fun _ => none) (fun cx => cx.taskTraps s) fun cx =>
    if cx.ex = 0 then cx.advance (cx.issue s noEvents)
    else if 512 ≤ s.taskLoad (cx.w.core / 64) then cx.block s cx.ex .taskFull fun c s => c.advance (c.issue s noEvents)
    else
      let n := cx.taskCounts s
      let va := (cx.b s cx.low).toNat
      cx.launch s va 1 fun wb => .task va (cx.taskRegions s) ((List.range (n.1 + n.2)).map (cx.taskCap s)) cx.w.level wb

/-! ### LJOIN (17: R299; 19: R324) -/

/-- The launch a cohort may join: known, and not being freed unless these lanes waited for its end. -/
def State.joinTarget (s : State) (t wi : Nat) (lanes : LaneMask) (id : Word) : Option Nat :=
  (List.range s.launches.length).find? fun i =>
    match s.launches[i]? with
    | some L => decide (L.tenant = t ∧ L.id = id.toNat) && L.known &&
        (!L.freeing || L.waiters.any fun p => decide (p.1 = wi ∧ p.2 &&& lanes ≠ 0))
    | none => false

/-- The entry is freed when nobody waits for it any more. -/
def Launch.settleFree (L : Launch) : Launch := if L.freeing && L.waiters.isEmpty then { L with known := false } else L
/-- These lanes' LJOIN has completed. -/
def Launch.joined (L : Launch) (wi : Nat) (lanes : LaneMask) (free : Bool) : Launch :=
  Launch.settleFree { L with
    freeing := L.freeing || free
    waiters := (L.waiters.map fun p => if p.1 = wi then (p.1, p.2 &&& ~~~lanes) else p).filter fun p => decide (p.2 ≠ 0) }

/-- The status words. -/
def Launch.status (L : Launch) : Word × Word :=
  (BitVec.ofNat 64 (L.completed + L.faulted * 2 ^ 32), BitVec.ofNat 64 (L.killed + L.relaunched * 2 ^ 32))

/-- LJOIN writes the counts, and p[x]. -/
def Cx.joinResult (cx : Cx) (s : State) (L : Launch) (done : Bool) : State :=
  let s1 := cx.issue s noEvents
  let s2 := s1.pend cx.wi cx.ex cx.v.hdr.setFlag (some (s.cyc + s1.delay 20)) true
    (cx.writes cx.v.d 0 (fun _ => (L.status.1, .u64)) false ++ cx.writes cx.v.d 1 (fun _ => (L.status.2, .u64)) false
      ++ cx.predWrites cx.v.x fun _ => done)
  cx.advance s2

def execLjoin (h : Hdr) (m : JoinMod) (d a x : Operand) (s : State) : Out :=
  startOwn s (.ljoin h m d a x)
    (fun cx => [cx.check 0x5A fun _ =>
      if (s.joinTarget cx.w.tenant cx.wi cx.ex (cx.a s cx.low)).isSome then none else some [cx.a s cx.low]]) fun cx =>
    if cx.ex = 0 then cx.advance (cx.issue s noEvents)
    else
      match s.joinTarget cx.w.tenant cx.wi cx.ex (cx.a s cx.low) with
      | none => s
      | some li =>
        match s.launches[li]? with
        | none => s
        | some L =>
          if L.ended then
            ((cx.joinResult s L true).modLaunch li fun L => L.joined cx.wi cx.ex (decide (m = .wait))).modWave cx.wi fun w =>
              w.modLanes cx.ex fun l => { l with acquired := s.cyc }
          else if m = .test then cx.joinResult s L false
          else cx.block s cx.ex (.join li) fun c s => c.advance (c.issue s noEvents)

end Sys2Proof.Machine
end

