-- ==== Sys2Proof/Machine/Ends.lean ====
section
/-! DEFINITION. How waves, blocks and launches end: retirement (04: R98; 10: R192; 16: R271), kills and
relaunches (16: R277 to R279), poisoned pipes (19: R322), the end of a launch (17: R299; 19: R323, R324). -/

namespace Sys2Proof.Machine

/-! ### Records about blocks -/

/-- A record about a block (17: R286). -/
def State.blockRecord (s : State) (b : Block) (cause : Nat) (details : List Word) : Record :=
  let t := s.blockTenant b
  let asid := (s.blockAsid b).1
  let id := ((s.launches[b.launch]?).map (·.id)).getD 0
  { words := [BitVec.ofNat 64 (cause + 2 ^ 8 + 2 ^ 12 + t % 64 * 2 ^ 16 + asid % 65536 * 2 ^ 32), BitVec.ofNat 64 id,
      BitVec.ofNat 64 (b.index % 2 ^ 32 + b.core / 64 % 8 * 2 ^ 37 + b.core % 64 * 2 ^ 40), 0, 0, BitVec.ofNat 64 s.cyc, 0, 0]
      ++ (details ++ List.replicate 8 0).take 8
    appendix := [] }
/-- A report to the fault log of a block's tenant. -/
def State.blockLog (s : State) (b : Block) (cause : Nat) (details : List Word) : State :=
  s.notice (s.blockTenant b) true (s.blockRecord b cause details)

/-! ### The end of a launch -/

def Launch.blocks (L : Launch) : Nat := L.bx * L.by_ * L.bz
/-- Every block has retired, faulted or been killed. -/
def Launch.allEnded (L : Launch) : Bool := decide (L.blocks ≤ L.completed + L.faulted + L.killed)

/-- The writes that a .dev release of now waits for: those that L2 has not accepted and those that the other
die has not applied (12: R221). -/
def State.openWrites (s : State) : List Nat := s.coreWrites.map (·.id) ++ s.linkWrites.map (·.id)

/-- When its last block has ended a launch ends as a .dev release: the writes it waits for. -/
def State.launchEnding (s : State) (li : Nat) : State :=
  match s.launches[li]? with
  | some L => if L.allEnded && L.ending.isNone && !L.ended then s.modLaunch li fun L => { L with ending := some s.openWrites } else s
  | none => s

/-- Lanes blocked in LJOIN on a launch, by wave. -/
def State.joiners (s : State) (li : Nat) : List (Nat × LaneMask) :=
  (List.range s.waves.length).filterMap fun i =>
    match s.waves[i]? with
    | some w => let m := w.lanesWhere fun l => decide (l.status = .blocked (.join li)); if m = 0 then none else some (i, m)
    | none => none

/-- Lanes blocked before an instruction try it again. -/
def State.unblock (s : State) (k : Blocked) : State :=
  { s with waves := s.waves.map fun w =>
      { w with lanes := w.lanes.map fun l => if l.status = .blocked k then { l with status := .ready } else l } }

/-- The launch has ended: its mailboxes, its place in the task table, its joiners, its entry. -/
def State.launchEnd (s : State) (li : Nat) : State :=
  match s.launches[li]? with
  | none => s
  | some L =>
    let s1 := if L.cart.mboxn = 0 then s else (List.range L.cart.mboxn).foldl (fun st i =>
      (st.mbFree (L.mbox + i)).setMb (L.mbox + i) Mailbox.unbound) s
    let s2 := s1.modLaunch li fun L =>
      Launch.settleFree { L with ended := true, ending := none, freeing := L.nojoin, waiters := s1.joiners li }
    let s3 := s2.unblock (.join li)
    let held := s3.tasks.filter fun e => e.2.contains li
    let s4 := held.foldl (fun st e =>
      ({ st with tasks := SMap.set [] st.tasks e.1 ((st.taskTable e.1).filter fun x => decide (x ≠ li)) }.releaseTasks e.1).unblock .taskFull) s3
    { s4 with
      recovery := s4.recovery.filter fun r => !decide (r.tenant = L.tenant ∧ r.launch = L.id) }

/-- Launches whose end's release is complete end (12: R221). -/
def State.settleLaunches (s : State) : State :=
  (List.range s.launches.length).foldl (fun st li =>
    match st.launches[li]? with
    | some L => (match L.ending with
      | some ids => if ids.any fun i => s.openWrites.contains i then st else st.launchEnd li
      | none => st)
    | none => st) s

/-! ### The end of a block -/

/-- The pipes a launch sends on are poisoned by it (19: R322). -/
def State.poison (s : State) (li : Nat) : State :=
  match s.launches[li]? with
  | none => s
  | some L =>
    { s with pipes := s.pipes.map fun p =>
        if decide (p.tenant = L.tenant ∧ L.gang = some p.gang) && (L.cart.pipes.any fun b => decide (b.symbol = p.symbol) && !b.recv)
          && p.poison.isNone
        then { p with poison := some L.id } else p }

/-- A wave leaves its core for good. -/
def Wave.leave (w : Wave) : Wave :=
  { w with retired := true, resident := false, sweep := none, preempt := none, wbs := [], ocache := []
           lanes := w.lanes.map fun l => { l with status := .exited, held := false, stopped := false, watch := none, elem := none } }

/-- Waves leave, and with them what a replay would need of them. -/
def State.leaveWaves (s : State) (ws : List Nat) : State :=
  { ws.foldl (fun st i => st.modWave i Wave.leave) s with journal := s.journal.filter fun e => !ws.contains e.waveIx }
/-- Requests of the pool queues that a block and its waves have made are withdrawn (08: R166; 16: R277). -/
def State.withdrawBlock (s : State) (bi : Nat) (b : Block) : State :=
  s.withdraw fun r => decide ((r.rank = 1 ∧ b.waves.contains r.who = true) ∨ (r.rank = 2 ∧ r.who = bi) ∨ (r.rank = 3 ∧ r.who = b.launch ∧ r.blk = b.index))

/-- A block ends with an outcome: resources return, the launch counts it (10: R192; 17: R299). -/
def State.endBlock (s : State) (bi : Nat) (outcome : BlockState) : State :=
  match s.blocks[bi]? with
  | none => s
  | some b =>
    let s1 := ((s.leaveWaves b.waves).clearMarks bi).modBlock bi fun b =>
      { b with state := outcome, gScratch := 0, gTiles := 0, gCommit := 0, gWaves := 0, seqOps := [], commit := [], drain := none
               evictedTo := none, leaving := none, restore := none
               seq := if b.seq = .none then .none else .ended, scratch := [], slots := [] }
    let s2 := s1.withdrawBlock bi b
    let s3 := s2.modLaunch b.launch fun L =>
      match outcome with
      | .faulted => { L with faulted := L.faulted + 1 }
      | .killed => { L with killed := L.killed + 1 }
      | _ => { L with completed := L.completed + 1 }
    let s4 := if outcome = .completed then s3 else s3.poison b.launch
    s4.launchEnding b.launch

/-- A block has ended. -/
def BlockState.isEnded : BlockState → Bool
  | .completed | .faulted | .killed => true
  | .waiting | .reserved | .resident | .switchedOut | .evicted => false

/-- The block retires when its waves have, its exit drain is over, and the words its stream has issued have completed
(14: R256). -/
def State.blockRetire (s : State) (bi : Nat) : State :=
  match s.blocks[bi]? with
  | none => s
  | some b =>
    let ws := b.waves.filterMap fun i => s.wave? i
    let drained := b.commit.isEmpty && !s.draining bi b
    if b.waves ≠ [] ∧ ws.all (·.retired) = true ∧ drained = true ∧ b.seqOps = [] ∧ b.state.isEnded = false then
      s.endBlock bi (if b.faultMark then .faulted else .completed)
    else s

/-! ### Kills and relaunches (16: R277, R278) -/

/-- A killed block may be launched again. -/
def State.mayRelaunch (s : State) (b : Block) : Bool :=
  match s.launches[b.launch]? with
  | none => false
  | some L => L.cart.idempotent && !b.effects && L.gang.isNone && L.rect.isNone && !b.relaunched
      && decide ((L.cart.setOf b.index).length ≤ 1)

/-- Requests of a block that have not left its core are discarded. -/
def State.dropRequests (s : State) (ws : List Nat) : State :=
  { s with reqs := s.reqs.filter fun r => !ws.contains r.wave || r.kind.isNotice }

/-- The waves of a relaunched block are new ones: none of them has completed a PSYNC or retired (13: R242). -/
def State.forgetRecords (s : State) (b : Block) : State :=
  match s.launches[b.launch]? with
  | none => s
  | some L => { s with recovery := s.recovery.map fun e =>
      if e.tenant = L.tenant ∧ e.launch = L.id then { e with records := e.records.filter fun r => decide (r.1 ≠ b.index) } else e }
/-- Kills a block: BLOCK_KILLED with the cause, unit and location; it ends, or waits to be placed afresh. -/
def State.killBlock (s : State) (bi : Nat) (cause unit loc : Nat) (relaunch : Bool) : State :=
  match s.blocks[bi]? with
  | none => s
  | some b =>
    if b.state.isEnded then s
    else
      let again := relaunch && s.mayRelaunch b
      let s1 := (s.blockLog b 0x52 [BitVec.ofNat 64 cause, BitVec.ofNat 64 unit, BitVec.ofNat 64 loc, if again then 1 else 0]).dropRequests b.waves
      if again then
        ((((s1.leaveWaves b.waves).clearMarks bi).withdrawBlock bi b).forgetRecords b).modBlock bi fun b =>
          { b with state := .waiting, waves := [], barriers := [], arr := [], arrIds := [], marr := [], slots := [], seq := .none, redo := none, seqOps := [], seqFault := none
                   seqSave := [], relTiles := false, frozenTrapped := false, thaw := false, scratch := [], commit := [], drain := none
                   exitDrained := false, effects := false, relaunched := true, faultMark := false, gScratch := 0, gTiles := 0, gCommit := 0
                   gWaves := 0, outSince := 0, evictedTo := none, leaving := none, evictFailed := false, restore := none, doomed := none }
      else s1.endBlock bi .killed

/-- A block of a launch by its linear index. -/
def State.blockAt (s : State) (li index : Nat) : Option Nat :=
  (List.range s.blocks.length).find? fun i =>
    match s.blocks[i]? with | some b => decide (b.launch = li ∧ b.index = index) | none => false

/-- The members of an entry, as block and wave, ascending. -/
def Cartouche.members (c : Cartouche) (g : Nat) : List (Nat × Nat) :=
  let keys := (c.groups.filter fun r => decide (r.entry = g)).flatMap fun r =>
    (List.range (r.wlast - r.wfirst + 1)).map fun i => 32 * r.block + r.wfirst + i
  ((sortNat keys).eraseDups).map fun k => (k / 32, k % 32)
/-- The wave of a member: the one that has not retired, if any. -/
def State.memberWave (s : State) (launch : Nat) (m : Nat × Nat) : Option Nat :=
  let is_ := fun (w : Wave) => decide (w.launch = launch ∧ w.number = m.2 ∧ ((s.blocks[w.block]?).map (·.index)) = some m.1)
  let find := fun (f : Wave → Bool) => (List.range s.waves.length).find? fun i => match s.waves[i]? with | some w => is_ w && f w | none => false
  (find fun w => !w.retired).or (find fun _ => true)
/-- A member has arrived at the instance under way, or has no live threads. -/
def State.memberArrived (s : State) (x : GroupState) (m : Nat × Nat) : Bool :=
  match s.memberWave x.launch m with
  | some i => (x.arrived.any fun a => decide (a.1 = i)) || match s.wave? i with | some w => w.lanes.all Lane.isExited | none => false
  | none => match (s.blockAt x.launch m.1).bind fun i => s.blocks[i]? with | some b => b.state.isEnded | none => false

/-- A block that has never been offered. -/
def Block.fresh (li index core : Nat) : Block :=
  { launch := li, index := index, state := .waiting, core := core, waves := [], barriers := [], arr := [], arrIds := [], marr := [], slots := []
    seq := .none, seqPc := 0, redo := none, seqOps := [], seqFault := none, seqSave := [], relTiles := false, frozenTrapped := false, thaw := false
    scratch := [], commit := [], drain := none, exitDrained := false, effects := false, relaunched := false, faultMark := false
    gScratch := 0, gTiles := 0, gCommit := 0, gWaves := 0, outSince := 0, evictedTo := none, leaving := none, evictFailed := false, restore := none, doomed := none }

/-- The record of a block, made when there is none yet. -/
def State.makeBlock (s : State) (li index core : Nat) : State × Nat :=
  match s.blockAt li index with
  | some i => (s, i)
  | none => ({ s with blocks := s.blocks ++ [Block.fresh li index core] }, s.blocks.length)

/-- Kills one block of a launch by WCTL or a reset, whatever its state (17: R290). -/
def State.killIndex (s : State) (li index : Nat) : State :=
  let home := ((s.launches[li]?).map (·.home)).getD 0
  let r := s.makeBlock li index (64 * home)
  r.1.killBlock r.2 0 0 0 false
/-- Kills every block of a launch; a task that still waits ends with it. -/
def State.killLaunch (s : State) (li : Nat) : State :=
  match s.launches[li]? with
  | none => s
  | some L => (List.range L.blocks).foldl (fun st i => st.killIndex li i) (s.modLaunch li fun L => { L with task := none })

/-! ### WAVE_RETIRE (04: R98; 14: R246; 16: R271) -/

/-- The stream no longer keeps wave 0. -/
def State.streamFree (s : State) (b : Block) : Bool :=
  match b.seq with
  | .none | .stopped => true
  | .ended => b.seqOps.isEmpty
  | .running | .frozen => (b.waves.drop 1).all fun i => match s.wave? i with | some w => w.retired | none => true

/-- Every thread of a wave has retired and every operation of it has completed. The wave is kept while its journal can
still bring a thread of it back: a strike replay rewinds every wave of the zone, EXIT too (11: R211; 16: R273; log entry
92). -/
def State.mayRetire (s : State) (wi : Nat) (w : Wave) : Bool :=
  !w.retired && w.resident && w.lanes.all Lane.isExited && !(s.reqs.any fun r => decide (r.wave = wi) && !r.kind.isNotice) &&
  !(s.journal.any fun e => decide (e.waveIx = wi)) && !(s.atomics.any fun a => decide (a.wave = wi)) &&
  !(s.linkWrites.any fun l => match l.result with | some r => decide (r.1 = wi) | none => false) &&
  (match s.blocks[w.block]? with
   | none => false
   | some b => !(b.seqOps.any fun o => decide (o.wave = some wi)) && (decide (w.number ≠ 0) || s.streamFree b))

/-- The launch entry and the sequence record of a wave's slot (13: R236, R241). -/
def State.recordsOf (s : State) (w : Wave) (e : RecoveryEntry) : Bool :=
  match s.launchOf w with
  | some L => decide (L.tenant = e.tenant ∧ L.id = e.launch)
  | none => false
def State.recordOf (s : State) (w : Wave) (r : Nat × Nat × Bool × Word) : Bool :=
  decide (some r.1 = (s.blocks[w.block]?).map (·.index) ∧ r.2.1 = w.number)

/-- A wave retires: its granules return, and its block may retire with it. -/
def State.retireWave (s : State) (wi : Nat) : State :=
  match s.wave? wi with
  | none => s
  | some w =>
    let s1 := (s.modWave wi Wave.leave).modBlock w.block fun b => { b with gWaves := b.gWaves - w.granules }
    let s2 := s1.withdraw fun r => decide (r.rank = 1 ∧ r.who = wi)
    ({ s2 with recovery := s2.recovery.map fun e =>
        if s2.recordsOf w e then { e with records := e.records.map fun r => if s2.recordOf w r then (r.1, r.2.1, true, r.2.2.2) else r } else e }
      : State).blockRetire w.block

def execWaveRetire (wi : Nat) (s : State) : Out :=
  match s.wave? wi with
  | some w => if s.mayRetire wi w then .next (s.retireWave wi) else .fault (.notEnabled "WAVE_RETIRE")
  | none => .fault (.notEnabled "WAVE_RETIRE")

end Sys2Proof.Machine
end

