-- ==== Sys2Proof/Machine/System.lean ====
section
/-! DEFINITION. TRAP, BRK and TRET (17: R292 to R294), the special registers with SRD and SWR (17: R288, R289,
R295; 16: R268, R269), and the commands of WCTL (17: R290). -/

namespace Sys2Proof.Machine

/-! ### TRAP and BRK -/

def execTrap (h : Hdr) (a : Operand) (imm : BitVec 16) (s : State) : Out :=
  start s (.trap h a imm) fun cx =>
    if cx.ex = 0 then cx.advance (cx.issue s noEvents)
    else s.raise cx.wi ⟨cx.ex, 0x04, true, [BitVec.ofNat 64 imm.toNat, cx.a s cx.low]⟩

/-- A debugger is attached to the wave's launch. -/
def State.debugged (s : State) (w : Wave) : Bool := ((s.launchOf w).map (·.debugger)).getD false
def execBrk (h : Hdr) (imm : BitVec 16) (s : State) : Out :=
  start s (.brk h imm) fun cx =>
    let tag := BitVec.ofNat 64 imm.toNat
    if cx.ex = 0 then cx.advance (cx.issue s noEvents)
    else if s.debugged cx.w then
      let r := s.record cx.w 0x06 false cx.pc cx.ex [tag] []
      let s1 := (s.journalise cx.wi cx.w cx.all).modWave cx.wi fun w =>
        { w.stopAll with stoppedTrap := w.stoppedTrap, stoppedBrk := true, trapCyc := some s.cyc }
      { s1 with chartLog := s1.chartLog ++ [r] }
    else s.raise cx.wi ⟨cx.ex, 0x05, false, [tag]⟩

/-! ### TRET -/

/-- The cause of the trap a wave handles. -/
def Wave.cause (w : Wave) : Nat := (w.trec.headD 0).toNat % 256
def Wave.freezing (w : Wave) : Bool := w.inHandler && decide (w.cause = 0x43 ∨ w.cause = 0x44)

/-- The GROW for which lanes are blocked, and no other lane of the wave, is given up: its request leaves the pool queue, and
what has been put by for it goes back. -/
def State.abandonGrow (s : State) (wi : Nat) (w : Wave) (m : LaneMask) : State :=
  let waits := w.lanesWhere fun l => decide (l.status = .blocked .grow)
  if waits &&& m = 0 ∨ waits &&& ~~~m ≠ 0 then s
  else
    ((s.withdraw fun r => decide (r.rank = 1 ∧ r.who = wi)).modWave wi fun w => { w with granted := 0 }).modBlock w.block fun b =>
      { b with gWaves := b.gWaves - w.granted }
/-- Handler lanes leave what they wait in: an arrival at a block barrier, an owed result and a request of the pool are
withdrawn. -/
def State.abandonAll (s : State) (wi : Nat) (m : LaneMask) : State :=
  match s.wave? wi with
  | none => s
  | some w => ((s.withdrawArrivals w m).abandonGrow wi w m).modWave wi fun w =>
      ((lanesOf m).foldl (fun w l => w.cancelOwed l) w).modLanes m Lane.abandon

/-- A lane of a freeze or thaw handler goes back to where it was stopped; what the handler wrote stays. -/
def Lane.restore (l old : Lane) : Lane :=
  if l.isExited then l else { l with pc := old.pc, prevPc := old.prevPc, status := old.status, insn := old.insn, owed := old.owed,
                                       stopped := old.stopped, held := old.held, elem := old.elem }

/-- Wave 0 returns to its stopped state (16: R268, R270). -/
def Wave.backToStopped (w : Wave) : Wave :=
  { w with inHandler := false, level := w.control, savedLanes := []
           lanes := w.lanes.mapIdx fun i l => l.restore (w.savedLanes.getD i l) }

/-- Half of a 64-bit word. -/
def halfWord (w : Word) (k : Nat) : Nat := w.toNat / 2 ^ (32 * (k % 2)) % 2 ^ 32
/-- The sequencer takes its state from the image, the slots' too where their granules stayed (16: R270). -/
def Block.fromSave (b : Block) (withSlots : Bool) : Block :=
  let word := fun n => SMap.get 0 b.seqSave n
  let slots := (List.range 256).foldl (fun (m : SMap Slot) n =>
    let old := SMap.get Slot.free b.slots n
    let f := (word (22 + n / 32)).toNat / 4 ^ (n % 32) % 4
    SMap.set Slot.free m n { old with
      claimed := (word (18 + n / 64)).getLsbD (n % 64)
      fmt := if f = 1 then .bf16 else if f = 2 then .k8 else if f = 3 then .k4 else .zero }) b.slots
  { b with
    seqPc := (word 0).toNat, seq := if (word 1).getLsbD 1 then .ended else .running
    arr := (List.range 16).foldl (fun m j => SMap.set 0 m j (halfWord (word (2 + j / 2)) j)) []
    marr := (List.range 16).foldl (fun m j => SMap.set 0 m j (halfWord (word (10 + j / 2)) j)) []
    slots := if withSlots then slots else b.slots }

/-- Sweep lanes that resume at the SWEEP wait inside it again, and a sweep whose lanes have all retired ends
(24: R375, R417). -/
def Wave.settleSweep (w : Wave) : Wave :=
  match w.sweep with
  | none => w
  | some k =>
    if (lanesOf k.lanes).all fun l => (w.lane l).isExited then { w with sweep := none }
    else { w with lanes := w.lanes.mapIdx fun i l =>
        if k.lanes.getLsbD i && decide (l.pc = k.pc ∧ l.status = .ready) then l.backToSweep k else l }

/-- Lanes retire through the handler, and the rest resume. -/
def State.returnFrom (s : State) (wi : Nat) (gone resume : LaneMask) : State :=
  let s1 := if gone = 0 then s else
    match s.wave? wi with
    | some w => (s.exitLanes wi gone).modBlock w.block fun b => { b with faultMark := true }
    | none => s
  s1.modWave wi fun w => (w.leaveHandler (resume &&& ~~~gone)).settleSweep

def execTret (h : Hdr) (m : TretMod) (a : Operand) (s : State) : Out :=
  startWith s (.tret h m a) (fun cx _ => cx.v.lens)
    (fun cx => if !cx.w.level then some [0] else if !cx.w.inHandler then some [2] else none) (fun _ => []) fun cx =>
    let s1 := cx.issue s noEvents
    if cx.ex = 0 then cx.advance s1
    else if cx.w.freezing then
      (s1.modWave cx.wi Wave.backToStopped).modBlock cx.w.block fun b => if b.thaw then { b.fromSave false with thaw := false } else b
    else
      let tl := cx.w.tlanes
      let sel := if a = .none then tl else tl &&& BitVec.ofNat 32 (cx.a s cx.low).toNat
      let live := cx.w.lanesWhere fun l => !l.isExited
      let gone := if cx.w.cause = 0x07 ∨ cx.w.cause = 0x42 ∨ m = .kill then live else if m = .exit then sel &&& live else 0
      (s1.abandonAll cx.wi tl).returnFrom cx.wi gone tl

/-! ### WCTL (17: R290) -/

/-- The launch with an id that the tenant's table still knows. -/
def State.launchIx (s : State) (t : Nat) (id : Word) : Option Nat :=
  (List.range s.launches.length).find? fun i =>
    match s.launches[i]? with | some L => decide (L.tenant = t ∧ L.id = id.toNat) && L.known | none => false
/-- The control wave's own launch. -/
def State.isControl (s : State) (t li : Nat) : Bool :=
  match (s.tenant t).ctlWave.bind fun i => s.wave? i with | some w => decide (w.launch = li) | none => false

/-- Cores on which a launch has resident waves. -/
def State.launchCores (s : State) (li : Nat) : List Nat :=
  ((s.waves.filter fun w => decide (w.launch = li) && w.resident).map (·.core)).eraseDups
/-- A pre-emption request sets out for every core of a launch; it arrives within 64 cycles (08: R182). -/
def State.askPreempt (s : State) (li : Nat) : State :=
  { s.bump with preempts := s.preempts ++ (s.launchCores li).map fun c => (c, s.cyc + min 64 (Config.freeDelay s.fresh), li) }
/-- Requests not yet met are withdrawn. -/
def State.cancelPreempt (s : State) (li : Nat) : State :=
  { s with
    preempts := s.preempts.filter fun p => decide (p.2.2 ≠ li)
    waves := s.waves.map fun w => if w.launch = li ∧ w.resident = true ∧ w.switchedOut = none then
      { w with preempt := none, lanes := w.lanes.map fun l => { l with stopped := false } } else w }
/-- A pre-emption request is under way to a launch, or pending in a wave of it. -/
def State.preemptPending (s : State) (li : Nat) : Bool :=
  (s.preempts.any fun p => decide (p.2.2 = li)) || s.waves.any fun w => decide (w.launch = li) && w.resident && w.preempt.isSome
/-- A wave of a launch is switched out. -/
def State.anyOut (s : State) (li : Nat) : Bool := s.waves.any fun w => decide (w.launch = li) && !w.retired && !w.resident
/-- A block that is out, or has waves out of its core. -/
def State.isOut (s : State) (b : Block) : Bool :=
  decide (b.state = .switchedOut ∨ b.state = .evicted) || (decide (b.state = .resident) &&
    b.waves.any fun i => match s.wave? i with | some w => !w.retired && !w.resident | none => false)
/-- The blocks of a launch that are out ask for their restore (08: R181). -/
def State.askRestore (s : State) (li : Nat) : State :=
  (List.range s.blocks.length).foldl (fun st bi =>
    match st.blocks[bi]? with
    | some b =>
      if b.launch = li ∧ st.isOut b = true ∧ b.restore = none ∧ ((st.queue b.core).any fun r => decide (r.rank = 2 ∧ r.who = bi)) = false then
        let n := if b.state = .evicted then b.granules else 0
        st.bump.setQueue b.core (st.queue b.core ++ [⟨st.fresh, 2, st.blockTenant b, n, bi, 0⟩])
      else st
    | none => st) s

/-- Command 1: the requests set out, waves that are out stay out, and no block is offered. -/
def State.wctlPreempt (s : State) (li : Nat) : State :=
  (s.askPreempt li).modLaunch li fun L => { L with preempted := true, stayOut := true }
/-- Command 2, with no effect where nothing is pending: no request, and no block that command 1 keeps from being offered
(log entry 88). Waves that are out stay out. -/
def State.wctlCancel (s : State) (li : Nat) : State :=
  let waits := match s.launches[li]? with
    | some L => L.preempted && decide ((s.blocks.filter fun b => decide (b.launch = li) && !decide (b.state = .waiting ∨ b.state = .reserved)).length < L.blocks)
    | none => false
  if s.preemptPending li || waits then (s.cancelPreempt li).modLaunch li fun L => { L with preempted := false } else s
/-- Command 3, with no effect where command 1 has no wave out. -/
def State.wctlResume (s : State) (li : Nat) : State :=
  if ((s.launches[li]?).map (·.stayOut)).getD false && s.anyOut li then
    (s.askRestore li).modLaunch li fun L => { L with preempted := false, stayOut := false }
  else s

/-- Executes a command: the state and STATUS. -/
def State.wctl (s : State) (t : Nat) (id : Word) (cmd block wave : Nat) : State × Nat :=
  if cmd = 0 then (s, 0)
  else
    match s.launchIx t id with
    | none => (s, 1)
    | some li =>
      match s.launches[li]? with
      | none => (s, 1)
      | some L =>
        if L.ended || s.isControl t li || decide (7 ≤ cmd) then (s, 3)
        else if cmd = 1 then (s.wctlPreempt li, 0)
        else if cmd = 2 then (s.wctlCancel li, 0)
        else if cmd = 3 then (s.wctlResume li, 0)
        else if cmd = 4 then (s.killLaunch li, 0)
        else if L.blocks ≤ block ∨ (cmd = 6 ∧ L.cart.waves ≤ wave) then (s, 2)
        else (s.killIndex li block, 0)

/-! ### Special registers (17: R288, R289) -/

/-- The selects of the table: listed, and reachable from U. -/
def srListed (n : Nat) : Bool :=
  decide (n ≤ 0x007 ∨ (0x010 ≤ n ∧ n ≤ 0x012) ∨ (0x018 ≤ n ∧ n ≤ 0x01F) ∨ (0x020 ≤ n ∧ n ≤ 0x037) ∨ (0x100 ≤ n ∧ n ≤ 0x17F))
def srUser (n : Nat) : Bool := decide (n ≤ 0x007)
/-- Registers whose SRD never waits (17: R295). -/
def srFast (n : Nat) : Bool := decide (1 ≤ n ∧ n ≤ 0x007)

def Ring.word (r : Ring) : Word := BitVec.ofNat 64 (r.base + (if r.rfault then 32 else 0) + r.log2n)
/-- A write of CTLQ or FLOG. -/
def Ring.write (r : Ring) (v : Word) (asid : Nat) : Ring :=
  let n := v.toNat % 32
  { base := wrap 64 (sext 57 (v.toNat / 4096 * 4096))
    rfault := r.rfault && !v.getLsbD 5
    log2n := if n = 0 then 0 else if n ≤ 4 then 5 else if 17 ≤ n then 16 else n
    asid := asid }

/-- Two 32-bit counts side by side. -/
def pairWord (m : SMap Nat) (k : Nat) : Word := BitVec.ofNat 64 (SMap.get 0 m k + SMap.get 0 m (k + 1) * 2 ^ 32)
/-- Word n of the sequencer's state in the SEQSAVE layout (16: R269). -/
def Block.seqst (b : Block) (n : Nat) : Word :=
  if n = 0 then BitVec.ofNat 64 b.seqPc
  else if n = 1 then (if b.seq = .ended then 3 else 1)
  else if n < 10 then pairWord b.arr (2 * (n - 2))
  else if n < 18 then pairWord b.marr (2 * (n - 10))
  else if n < 22 then BitVec.ofNat 64 (packNat 1 ((List.range 64).map fun i => if (b.slot (64 * (n - 18) + i)).claimed then 1 else 0))
  else if n < 30 then BitVec.ofNat 64 (packNat 2 ((List.range 32).map fun i => (b.slot (32 * (n - 22) + i)).fmt.code))
  else 0

/-- The value SRD reads in a lane. -/
def State.srRead (s : State) (w : Wave) (l n : Nat) : Word :=
  let t := s.tenant w.tenant
  let L := s.launchOf w
  let num := fun (k : Nat) => BitVec.ofNat 64 k
  if n = 0x000 then num (w.lane l).fstat.toNat
  else if n = 0x001 then num s.cyc
  else if n = 0x002 then (if w.level then 1 else 0)
  else if n = 0x003 then num ((L.map (·.id)).getD 0)
  else if n = 0x004 then num ((L.map fun q => q.bx + q.by_ * 2 ^ 32).getD 0)
  else if n = 0x005 then num ((L.map fun q => q.bz + (q.cart.waves - 1) * 2 ^ 32).getD 0)
  else if n = 0x006 then num w.tenant
  else if n = 0x007 then num w.asid
  else if n = 0x010 then t.tvec
  else if n = 0x011 then w.tepc
  else if n = 0x012 then num w.tlanes.toNat
  else if n < 0x020 then SMap.get 0 w.scratch (n - 0x018)
  else if n < 0x030 then (if w.inHandler then w.trec.getD (n - 0x020) 0 else 0)
  else if n = 0x030 then t.ctlq.word
  else if n = 0x031 then t.flog.word
  else if n = 0x032 then num (t.wdlog + (if t.waitrep then 32 else 0))
  else if n = 0x033 then num (t.poolsaveBase + t.poolsaveSize)
  else if n = 0x034 then num t.recbase
  else if n = 0x035 then num s.raspol.toNat
  else if n = 0x036 then w.wctlid
  else if n = 0x037 then w.wctl
  else if !w.freezing then 0
  else
    match s.blocks[w.block]? with
    | none => 0
    | some b => if n < 0x140 then b.seqst (n - 0x100) else SMap.get 0 b.seqSave (n - 0x140)

/-- The pages of the recovery page are released, with their frames (13: R241). -/
def State.releaseRecovery (s : State) (t : Nat) : State :=
  let base := (s.tenant t).recbase
  if base = 0 then s
  else
    let mine := fun (p : Page) => (s.tenant t).asids.contains p.asid && decide (base ≤ p.va ∧ p.va < base + 2 ^ 32)
    let gone := s.pages.filter mine
    { s.modTenant t fun x => { x with recbase := 0 } with
      pages := s.pages.filter fun p => !mine p
      lines := s.lines.filter fun l => !decide (l.tenant = t ∧ base ≤ 64 * l.va ∧ 64 * l.va < base + 2 ^ 32)
      framesUsed := s.framesUsed.filter fun f => !gone.any fun p => decide (4096 * f = p.pa) }

/-- SWR of a register that is not of thread scope. -/
def State.srWrite (s : State) (wi : Nat) (w : Wave) (n : Nat) (v : Word) : State :=
  let ten := s.modTenant w.tenant
  let wave := s.modWave wi
  if n = 0x010 then ten fun t => { t with tvec := BitVec.ofNat 64 (v.toNat / 4 * 4) }
  else if n = 0x011 then wave fun w => { w with tepc := v }
  else if 0x018 ≤ n ∧ n < 0x020 then wave fun w => { w with scratch := SMap.set 0 w.scratch (n - 0x018) v }
  else if n = 0x030 then ten fun t => { t with ctlq := t.ctlq.write v w.asid }
  else if n = 0x031 then ten fun t => { t with flog := t.flog.write v w.asid }
  else if n = 0x032 then ten fun t =>
    let d := v.toNat % 32
    { t with waitrep := v.getLsbD 5, wdlog := if d < 16 then 16 else if d = 31 then 30 else d }
  else if n = 0x033 then
    let s1 := ten fun t => { t with poolsaveBase := wrap 64 (sext 57 (v.toNat / 4096 * 4096)), poolsaveSize := v.toNat % 4096 }
    { s1 with blocks := s1.blocks.map fun b => if s.blockTenant b = w.tenant then { b with evictFailed := false } else b }
  else if n = 0x034 then (if v = 0 then s.releaseRecovery w.tenant else s)
  else if n = 0x036 then wave fun w => { w with wctlid := v }
  else if n = 0x037 then
    let r := s.wctl w.tenant w.wctlid (v.toNat % 16) (field v 4 32) (field v 36 5)
    r.1.modWave wi fun w => { w with wctl := BitVec.ofNat 64 (r.2 * 2 ^ 60) }
  else if 0x140 ≤ n ∧ w.freezing = true then
    s.modBlock w.block fun b => { b with seqSave := SMap.set 0 b.seqSave (n - 0x140) v }
  else s

/-- SRD and SWR: an unlisted select is no instruction; an S register from U traps PRIV_INSTRUCTION. -/
def srStart (s : State) (i : Instr) (n : Nat) (k : Cx → State) : Out :=
  match Cx.of s i with
  | none => .fault (.notEnabled "ISSUE")
  | some cx =>
    if !srListed n then .next (s.raise cx.wi ⟨cx.all, 0x00, false, 0x9 :: instrWords i⟩)
    else startWith s i (fun cx _ => cx.v.lens)
      (fun cx => if cx.w.level || srUser n then none else some [1, BitVec.ofNat 64 n]) (fun _ => []) k

def execSrd (h : Hdr) (d : Operand) (imm : BitVec 12) (s : State) : Out :=
  srStart s (.srd h d imm) imm.toNat fun cx =>
    cx.flagResult s (if srFast imm.toNat then 0 else 8) fun l => plain (s.srRead cx.w l imm.toNat) .u64

def execSwr (h : Hdr) (a : Operand) (imm : BitVec 12) (s : State) : Out :=
  srStart s (.swr h a imm) imm.toNat fun cx =>
    let s1 := cx.advance (cx.issue s noEvents)
    if cx.ex = 0 then s1
    else if imm = 0 then
      s1.modWave cx.wi fun w => w.mapLanes fun l x =>
        if cx.ex.getLsbD l then { x with fstat := BitVec.ofNat 5 (cx.a s l).toNat } else x
    else s1.srWrite cx.wi cx.w imm.toNat (cx.a s cx.low)

/-! ### The steps that WCTL and RECBASE name -/

/-- A WCTL command as a step of its own: taken when the command is accepted. -/
def wctlStep (s : State) (name : String) (t : Nat) (id : Word) (cmd block wave : Nat) : Out :=
  let r := s.wctl t id cmd block wave
  if r.2 = 0 then .next r.1 else .fault (.notEnabled name)

def execWctlPreempt (t : Nat) (id : Word) (s : State) : Out := wctlStep s "WCTL_PREEMPT" t id 1 0 0
def execWctlCancel (t : Nat) (id : Word) (s : State) : Out := wctlStep s "WCTL_CANCEL" t id 2 0 0
def execWctlResume (t : Nat) (id : Word) (s : State) : Out := wctlStep s "WCTL_RESUME" t id 3 0 0
def execWctlKillLaunch (t : Nat) (id : Word) (s : State) : Out := wctlStep s "WCTL_KILL_LAUNCH" t id 4 0 0
def execWctlKillBlock (t : Nat) (id : Word) (block : Nat) (s : State) : Out := wctlStep s "WCTL_KILL_BLOCK" t id 5 block 0
def execWctlKillWaveBlock (t : Nat) (id : Word) (block wave : Nat) (s : State) : Out :=
  wctlStep s "WCTL_KILL_WAVE_BLOCK" t id 6 block wave
def execRecbaseRelease (t : Nat) (s : State) : Out :=
  if (s.tenant t).recbase = 0 then .fault (.notEnabled "RECBASE_RELEASE") else .next (s.releaseRecovery t)

end Sys2Proof.Machine
end

