-- ==== Sys2Proof/Machine/Traffic.lean ====
section
/-! DEFINITION. How requests leave a core and what becomes of them: releases and acquires (12: R221), the L2
slices, the die link, atomics, durable controllers (06: R132; 12: R219 to R226; 13: R231 to R236), results
that land (10: R204), and fills (08: R174; 08: R172). -/

namespace Sys2Proof

/-- Cluster scope or wider, and device scope or wider (12: R221). -/
def Scope.isClu : Scope → Bool | .thr | .wave | .blk => false | .clu | .die | .dev | .dur | .sys => true
def Scope.isDev : Scope → Bool | .dev | .dur | .sys => true | .thr | .wave | .blk | .clu | .die => false

end Sys2Proof

namespace Sys2Proof.Machine

/-! ### Releases and acquires -/

def optScope (f : Scope → Bool) (o : Option Scope) : Bool := match o with | some s => f s | none => false

/-- A request that waits for durable writes to persist (13: R233). -/
def Request.durable (r : Request) : Bool := decide (r.rel = some .dur ∨ r.acq = some .dur)

/-- The lanes' own accesses that a request waits for: all of them for a release, loads and atomics for an
acquire (06: R143). -/
def State.ownDone (s : State) (r : Request) : Bool :=
  match r.kind with
  | .barFence group => group.all fun p => s.quiet p.1 p.2 r.id
  | _ =>
    if r.rel.isNone then !s.reqsBefore r.wave r.lanes r.id ReqKind.isAtomic && !s.atomicsBefore r.wave r.lanes r.id
    else s.quiet r.wave r.lanes r.id

/-- The writes on the die link to the other die of a core: those in the view of the core's die that the other has not
applied. -/
def State.linkFrom (s : State) (core : Nat) : List Nat :=
  (s.linkWrites.filter fun w => decide (w.toDie ≠ dieOfCore core)).map (·.id)
/-- What a release that begins now waits for, and an acquire of .sys, after which lines of host memory are as the host's
die has them now (12: R221). -/
def State.scopeWrites (s : State) (r : Request) : List Nat :=
  (if optScope Scope.isClu r.rel then (s.coreWrites.filter fun w => decide (w.core = r.core)).map (·.id) else []) ++
  (if optScope Scope.isDev r.rel then s.linkFrom r.core else []) ++
  (if r.rel = some .sys then s.hostQueue.map (·.1) else []) ++
  (if r.acq = some .sys then (s.linkWrites.filter fun w => isHost w.pa && decide (w.toDie = dieOfCore r.core)).map (·.id) else [])
/-- A write that a request waits for is on its way still: to L2, and for .dev to the other die, for .sys to the host. -/
def State.stillOpen (s : State) (r : Request) (id : Nat) : Bool :=
  (s.coreWrites.any fun w => decide (w.id = id)) ||
  ((optScope Scope.isDev r.rel || decide (r.acq = some .sys)) && s.linkWrites.any fun w => decide (w.id = id)) ||
  (decide (r.rel = some .sys) && s.hostQueue.any fun w => decide (w.1 = id))
/-- Durable writes that a thread of a core may have read or made and that have not persisted: in the core's view, in its
die's view, and on their way to their controllers (13: R233). -/
def State.durableOpen (s : State) (core : Nat) : List Nat :=
  ((s.coreWrites.filter fun w => isDurable w.pa && decide (w.core = core)).map (·.id)) ++
  ((s.linkWrites.filter fun w => isDurable w.pa).map (·.id)) ++ s.durQueue.map (·.id)
def State.notDurable (s : State) (id : Nat) : Bool :=
  (s.coreWrites.any fun w => decide (w.id = id)) || (s.linkWrites.any fun w => decide (w.id = id)) || s.durQueue.any fun w => decide (w.id = id)

/-- One advance of a release or acquire. -/
def Request.advance (s : State) (r : Request) : Request :=
  match r.stage with
  | 0 => if s.ownDone r then { r with stage := 1, ids := s.scopeWrites r } else r
  | 1 =>
    if r.ids.any (s.stillOpen r) then r
    else if r.durable then { r with stage := 2, ids := s.durableOpen r.core }
    else { r with stage := 3, ids := [] }
  | 2 => if r.ids.any s.notDurable then r else { r with stage := 3, ids := [] }
  | _ => r

/-- Brings every release as far as it can go now. -/
def State.settleReleases (s : State) : State :=
  let f := fun (s : State) => { s with reqs := s.reqs.map fun r => if r.stage < 3 then r.advance s else r }
  f (f (f s))

/-! ### What stands before a request -/

def rangesOverlap (a n b m : Nat) : Bool := decide (a < b + m ∧ b < a + n)

/-- Durable stores of a lane of an epoch before `e` that have not persisted (13: R232). -/
def State.unpersisted (s : State) (t : DurTag) : Bool :=
  let before := fun (pa : Nat) (d : DurTag) => isDurable pa && decide (d.wave = t.wave ∧ d.lane = t.lane ∧ d.epoch < t.epoch)
  (s.reqs.any fun r => match r.kind with
    | .store pa _ d => before pa d
    | .atomic _ pa _ _ _ _ _ d => before pa d
    | _ => false) ||
  (s.coreWrites.any fun w => match w.dur with | some d => before w.pa d | none => false) ||
  (s.linkWrites.any fun w => match w.dur with | some d => before w.pa d | none => false) ||
  (s.atomics.any fun a => before a.pa a.dur) ||
  s.durQueue.any fun w => match w.dur with | some d => before w.pa d && !w.bytes.isEmpty | none => false

/-- The persist epoch of a buffered store: its thread's marks behind it are still to come (13: R235). -/
def drainEpoch (s : State) (wi l : Nat) (rest : List Buffered) : Nat :=
  let now := ((s.wave? wi).map fun w => (w.lane l).pbars).getD 0
  now - (rest.filter fun b => match b with | .pbar w k => decide (w = wi ∧ k = l) | .store _ _ _ _ _ => false).length
/-- Durable stores of a lane of an epoch before `e` that stand in a commit buffer (13: R232, R235). -/
def Buffered.heldBefore (s : State) (t : DurTag) : List Buffered → Bool
  | [] => false
  | .pbar _ _ :: rest => Buffered.heldBefore s t rest
  | .store wi l _ pa _ :: rest =>
    (isDurable pa && decide (wi = t.wave ∧ l = t.lane ∧ drainEpoch s wi l rest < t.epoch)) || Buffered.heldBefore s t rest
def State.heldBefore (s : State) (t : DurTag) : Bool :=
  match (s.wave? t.wave).bind fun w => s.blocks[w.block]? with
  | some b => b.drain.isNone && Buffered.heldBefore s t b.commit
  | none => false

/-- The memory (0) or scratchpad (its block plus 1) and the bytes that an access writes. -/
def ReqKind.place : ReqKind → Option (Nat × Nat × Nat)
  | .store pa bytes _ => some (0, pa, bytes.length)
  | .scratchStore b off bytes => some (b + 1, off, bytes.length)
  | .atomic _ pa n _ _ _ _ _ => some (0, pa, n)
  | _ => none
def placesMeet (a b : Nat × Nat × Nat) : Bool := decide (a.1 = b.1) && rangesOverlap a.2.1 a.2.2 b.2.1 b.2.2
/-- The wave's launch has forerunner ordering (12: R217). -/
def State.forerunner (s : State) (wi : Nat) : Bool := (((s.wave? wi).bind s.cartOf).map (·.forerunner)).getD false
/-- A later access of a lane need not wait for an earlier one: their bytes are apart, the later instruction did not wait
on the earlier one's flag, and the earlier is a store, or any access under forerunner ordering (12: R216 to R218). -/
def State.passes (s : State) (r e : Request) : Bool :=
  match e.kind.place, r.kind.place with
  | some a, some b => !placesMeet a b && !flagIn e.flag r.wait && (!e.kind.isAtomic || s.forerunner r.wave)
  | _, _ => false
/-- An atomic of a lane of the request has not executed and the access is ordered after it: it overlaps, waits on its
flag, or follows its load (12: R216 to R218). A drain follows every atomic of its block's threads. -/
def State.atomicAhead (s : State) (r : Request) : Bool :=
  match r.kind, r.kind.place with
  | .drain, _ =>
    let waves := (((s.wave? r.wave).bind fun w => s.blocks[w.block]?).map (·.waves)).getD []
    (s.atomics.any fun a => decide (a.id < r.id) && waves.contains a.wave) ||
      s.reqs.any fun q => decide (q.id < r.id) && waves.contains q.wave && q.kind.isAtomic
  | _, some p => s.atomics.any fun a =>
      decide (a.wave = r.wave ∧ a.id < r.id) && r.lanes.getLsbD a.lane &&
        (placesMeet (0, a.pa, a.n) p || flagIn a.flag r.wait || !s.forerunner r.wave)
  | _, none => false
/-- The atomics of one cohort on one location take effect in ascending lane order (06: R141). -/
def Request.laneBefore (r e : Request) : Bool :=
  r.kind.isAtomic && e.kind.isAtomic && decide (e.wave = r.wave ∧ e.issued = r.issued) &&
    match e.kind.place, r.kind.place with | some a, some b => placesMeet a b | _, _ => false

/-- A request that does not age: a fence waits for its conditions only (06: R143). -/
def ReqKind.ages : ReqKind → Bool | .fence | .barFence _ => false | _ => true
/-- Requests leave in the order of their issue within each lane, but for accesses that may pass one another; messages of a
pipe and the steps of a mailbox too, whoever made them (06: R155; 12: R216; 25: R387). -/
def State.follows (s : State) (r e : Request) : Bool :=
  decide (e.id < r.id) &&
  ((r.kind.ages && decide (e.wave = r.wave ∧ e.lanes &&& r.lanes ≠ 0) && !s.passes r e) || r.laneBefore e ||
   match r.kind, e.kind with
   | .message p _ _, .message q _ _ => decide (p = q)
   | .mailbox _ a, .mailbox _ b => a.any fun x => b.any fun y => decide (x.mb = y.mb)
   | _, _ => false)

/-- A request may leave. -/
def State.mayLeave (s : State) (r : Request) : Bool :=
  decide (r.stage = 3) && (!r.kind.ages || decide (r.issued + 128 ≤ s.cyc)) && !(s.reqs.any (s.follows r)) && !s.atomicAhead r &&
  (match r.kind with
   | .psync _ => (lanesOf r.lanes).all fun l =>
       match s.wave? r.wave with | some w => !s.unpersisted ⟨r.wave, l, (w.lane l).pbars⟩ | none => true
   | _ => true)

/-! ### REQUEST_LEAVES_CORE -/

/-- Lanes that waited for a request go on; an acquire of .clu or wider makes their later loads fresh. -/
def State.proceed (s : State) (wi : Nat) (id : Nat) (acq : Option Scope) : State :=
  match s.wave? wi with
  | none => s
  | some w =>
    let m := w.lanesWhere fun l => decide (l.status = .inside (.proceed id))
    let saved := maskOf fun l => decide ((w.savedLanes.getD l Lane.dead).status = .inside (.proceed id))
    (lanesOf m).foldl (fun st l =>
      (st.leaveInside wi l fun _ => 0).modWave wi fun w => w.modLane l fun x =>
        if optScope Scope.isClu acq then { x with acquired := s.cyc } else x)
      ((lanesOf saved).foldl (fun st l => st.leaveSaved wi l fun _ => 0) s)

/-- An atomic leaves: to its place, which it reaches no sooner than R410 allows. -/
def State.leaveAtomic (s : State) (r : Request) (op : AtomOp) (pa n : Nat) (x y : Word) (sc : Scope) (wb : Nat) (dur : DurTag) : State :=
  let due := s.cyc + s.delay (if sc.isClu then 40 else 0)
  let lane := (lowest r.lanes).getD 0
  let noDest := match s.wave? r.wave with
    | some w => !(w.wbs.any fun b => decide (b.id = wb) && !b.writes.isEmpty)
    | none => true
  let s1 := if noDest then s.resolve r.wave wb s.cyc 0 else s
  { s1.bump with atomics := s1.atomics ++ [⟨r.id, r.wave, lane, r.core, op, pa, n, x, y, sc, wb, due, none, dur, none, r.flag, r.wait⟩] }

/-- A drain leaves: every buffered store in order, its persist epoch as its thread's marks give it (06: R157;
13: R235). -/
def State.drainBuffer (s : State) (core : Nat) : List Buffered → State × List Nat
  | [] => (s, [])
  | .pbar _ _ :: rest => s.drainBuffer core rest
  | .store wi l _ pa bytes :: rest =>
    let id := s.fresh
    let r := (s.bump.leaveCore id core pa bytes (some ⟨wi, l, drainEpoch s wi l rest⟩)).drainBuffer core rest
    (r.1, id :: r.2)

/-- The cycles of a copy of `n` bytes, at most 256 a cycle (10: R410). -/
def copyTime (n : Nat) : Nat := (n + 255) / 256

/-- Writes a word of a completion object. -/
def State.writeObject (s : State) (c : Copy) (off : Nat) (w : Word) : State :=
  match s.walk c.asid c.slevel (c.obj + off) 8 .store with
  | .ok pas => s.dieWriteAt (dieOfCore c.core) (c.obj + off) pas (natLe 8 w.toNat)
  | .error _ => s
/-- A copy ends with a state, a cause and INFO: INFO is written before STATE (06: R148). -/
def State.copyEnd (s : State) (c : Copy) (state cause info : Nat) : State :=
  (s.writeObject c 8 (BitVec.ofNat 64 info)).writeObject c 0 (BitVec.ofNat 64 (state + cause * 256))

/-- Fields of a copy descriptor (06: R147). -/
def Copy.word (c : Copy) (n : Nat) : Word := c.desc.getD n 0
def Copy.rowBytes (c : Copy) : Nat := (c.word 2).toNat % 2 ^ 32
def Copy.rows (c : Copy) : Nat := (c.word 3).toNat % 2 ^ 32
def Copy.srcLocal (c : Copy) : Bool := (c.word 6).getLsbD 0
def Copy.dstLocal (c : Copy) : Bool := (c.word 6).getLsbD 1
def Copy.zero (c : Copy) : Bool := (c.word 6).getLsbD 2
def Copy.dstRd (c : Copy) : Nat := (c.word 6).toNat / 8 % 8
def Copy.bytes (c : Copy) : Nat := c.rows * c.rowBytes

/-- The block and the first offset a local address of the copy names. -/
def State.copyPlace (s : State) (c : Copy) (a : Word) : Option (Nat × Nat) :=
  match s.wave? c.wave with
  | none => none
  | some w => (s.placeBlock w.launch w.core w.block (a.toNat % 2 ^ 32)).map fun b => (b, a.toNat % 2 ^ 24)
/-- A local address of the copy fails R137 (06) for some row. -/
def State.copyPlaceBad (s : State) (c : Copy) (a stride : Word) : Bool :=
  match s.copyPlace c a with
  | none => true
  | some (b, off) => (List.range c.rows).any fun i =>
      let o : Int := (off : Int) + i * stride.toInt
      decide (o < 0 ∨ (s.scratchBytes b : Int) < o + c.rowBytes)
/-- The byte offset of the first bad field of a descriptor. -/
def State.copyBad (s : State) (c : Copy) : Option Nat :=
  if c.srcLocal && !c.zero && s.copyPlaceBad c (c.word 0) (c.word 4) then some 0
  else if c.dstLocal && s.copyPlaceBad c (c.word 1) (c.word 5) then some 8
  else if (c.word 2).toNat ≥ 2 ^ 32 then some 16
  else if (c.word 3).toNat ≥ 2 ^ 32 then some 24
  else if (c.word 6).toNat ≥ 64 then some 48
  else if c.word 7 ≠ 0 then some 56
  else none

/-- The collective window a copy's DST lies in, by its place in the table (20: R329). -/
def State.windowOf (s : State) (c : Copy) : Option Nat :=
  match s.wave? c.wave with
  | none => none
  | some w => (List.range s.windows.length).find? fun k =>
      match s.windows[k]? with
      | some x => decide (x.tenant = w.tenant ∧ x.asid = c.asid ∧ x.base ≤ (c.word 1).toNat ∧ (c.word 1).toNat < x.base + x.len)
      | none => false
/-- The first field of a collective request that no instance accepts. -/
def CollWindow.bad (x : CollWindow) (c : Copy) : Option Nat :=
  if c.rowBytes % (if x.bf16 then 2 else 4) ≠ 0 then some 16
  else if c.zero || c.dstLocal then some 48 else none

/-- When a core's engine has moved the last copy of its queue: at most 256 bytes a cycle for all of them (10: R410). -/
def State.copyFree (s : State) (core : Nat) : Nat :=
  match (s.copiesOf core).getLast? with | some c => c.start + copyTime c.bytes | none => 0
/-- A copy is accepted: STATE := pending, the promise, and its place in the queue, or the instance of its window
(06: R146, R148; 20: R329). -/
def State.acceptCopy (s : State) (r : Request) (desc obj wb : Nat) : State :=
  match s.wave? r.wave with
  | none => s
  | some w =>
    let start := max (s.cyc + s.delay 16) (s.copyFree r.core)
    let c0 : Copy := ⟨r.wave, r.core, w.asid, w.level, [], obj, start, 0, none, none⟩
    let s0 := s.bump
    match s0.devRead w.asid w.level desc 64 with
    | .error e => (s0.copyEnd c0 2 e.cause e.addr).resolve r.wave wb s.cyc (BitVec.ofNat 64 start)
    | .ok bs =>
      let c := { c0 with desc := (List.range 8).map (wordAt bs) }
      let answer := fun (s : State) => s.resolve r.wave wb s.cyc (BitVec.ofNat 64 (start + copyTime c.bytes))
      match s0.copyBad c with
      | some off => answer (s0.copyEnd c 3 0 off)
      | none =>
        let s1 := s0.writeObject c 0 0
        match s1.windowOf c with
        | none => answer { s1 with copies := SMap.set [] s1.copies r.core (s1.copiesOf r.core ++ [c]) }
        | some k =>
          (match s1.windows[k]? with
          | none => s1
          | some x =>
            let gr := (s1.groups.find? fun g => g.g = x.g).getD ⟨x.g, [], 0⟩
            answer { s1 with
              windows := s1.windows.modify k fun x => { x with next := x.next + 1 }
              collectives := s1.collectives ++ [⟨x.g, x.next, k, c, gr.members, gr.epoch, false⟩] })

/-- A kind 1 sleeper's count falls at its cell; at zero it becomes awake when a scan finds it (24: R373). -/
def State.decrement (s : State) (wi i : Nat) : Except Refuse State :=
  match s.wave? wi with
  | none => .ok s
  | some w => match w.sweep with
    | none => .ok s
    | some k =>
      let t := w.tensor k
      match s.readCell t i, s.readSkip t i with
      | .error e, _ => .error e
      | _, .error e => .error e
      | .ok c, .ok skip =>
        let ctx := cellCtx t.w0 c
        if ctxKind ctx = 1 ∧ 0 < ctxArg ctx then s.writeCell t i (ctxLess ctx) (cellData t.w0 c) skip else .ok s

/-- A request that has left its core, by what it asks for; none where an access of it is refused and it is
held (24: R379). -/
def State.leave (s : State) (r : Request) : Option State :=
  match r.kind with
  | .store pa bytes dur => some (s.leaveCore r.id r.core pa bytes (some dur))
  | .scratchStore b off bytes => some (s.modBlock b fun blk =>
      { blk with scratch := (List.range bytes.length).foldl (fun m i => SMap.set 0 m (off + i) (bytes.getD i 0)) blk.scratch })
  | .atomic op pa n x y sc wb dur => some (s.leaveAtomic r op pa n x y sc wb dur)
  | .callb pa va cell cells =>
    let lane := (lowest r.lanes).getD 0
    some { s.bump with atomics := s.atomics ++ [⟨r.id, r.wave, lane, r.core, .cas, pa, 8, cell, cellBinding cell, .dev, 0,
      s.cyc + s.delay 40, some (va, cell, cells), ⟨r.wave, lane, 0⟩, none, none, r.wait⟩] }
  | .copy desc obj wb => some (s.acceptCopy r desc obj wb)
  | .message k msg wb => some ((s.modPipe k fun p => { p with msgs := p.msgs ++ [msg] }).resolve r.wave wb s.cyc 0)
  | .drain =>
    match s.wave? r.wave with
    | none => some s
    | some w =>
      match s.blocks[w.block]? with
      | none => some s
      | some b =>
        let d := s.drainBuffer r.core b.commit
        some (d.1.blockStands w.block fun b => { b with drain := some d.2 })
  | .arrive e root ev =>
    match s.wave? r.wave with
    | none => some s
    | some w =>
      let a := (r.wave, root, ev)
      if s.groupStates.any fun g => decide (g.launch = w.launch ∧ g.entry = e) then
        some { s with groupStates := s.groupStates.map fun g =>
          if g.launch = w.launch ∧ g.entry = e then { g with arrived := g.arrived ++ [a] } else g }
      else some { s with groupStates := s.groupStates ++ [⟨w.launch, e, [a]⟩] }
  | .fence => some (s.proceed r.wave r.id r.acq)
  | .barFence group => some (group.foldl (fun st p => st.proceed p.1 r.id none) s)
  | .psync seq =>
    let stack := if dieOfCore r.core = 0 then 0 else 2
    some { s.bump with durQueue := s.durQueue ++ [⟨r.id, stack, durBase + stack * 2 ^ 38, [], s.cyc + s.delay 100, none, some (r.wave, seq)⟩] }
  | .report toFlog rec_ => some (s.ringRecord (((s.wave? r.wave).map (·.tenant)).getD 0) toFlog rec_)
  | .notice t toFlog rec_ => some (s.ringRecord t toFlog rec_)
  | .launch desc count slevel wb => some (s.launchRun r desc count slevel wb)
  | .task desc regions caps slevel wb => some (s.taskRun r desc regions caps slevel wb)
  | .cell elem ctx data =>
    match s.writeback r.wave ((lowest r.lanes).getD 0) elem ctx data with
    | .ok s1 => some s1
    | .error _ => none
  | .decrement elem =>
    match s.decrement r.wave elem with
    | .ok s1 => some s1
    | .error _ => none
  | .wake w0 w1 elem wb =>
    match s.wave? r.wave with
    | none => some s
    | some w =>
      let n := match s.registered w.asid w0 with | some (_, _, k) => k.n | none => fitCount w0 w1
      some (s.wake ⟨w0, w1, n, w.asid, w.level, w.tenant, elem, 1, none, some (r.wave, wb), none⟩)
  | .mailbox i steps => some (s.mailboxRun r i steps)

def execRequestLeavesCore (id : Nat) (s : State) : Out :=
  match s.reqs.find? fun r => r.id = id with
  | none => .fault (.notEnabled "REQUEST_LEAVES_CORE")
  | some r =>
    if s.mayLeave r then
      match ({ s with reqs := s.reqs.filter fun q => decide (q.id ≠ id) } : State).leave r with
      | some s1 => .next s1
      | none => .fault (.notEnabled "REQUEST_LEAVES_CORE")
    else .fault (.notEnabled "REQUEST_LEAVES_CORE")

/-! ### L2_ACCEPT and DIE_LINK_APPLY -/

/-- Write `w` may enter its die's view: earlier writes of its core to its bytes have. -/
def State.mayAccept (s : State) (w : CoreWrite) : Bool :=
  decide (w.due ≤ s.cyc) && !(s.coreWrites.any fun e =>
    decide (e.id < w.id ∧ e.core = w.core) && rangesOverlap e.pa e.bytes.length w.pa w.bytes.length)

def execL2Accept (id : Nat) (s : State) : Out :=
  match s.coreWrites.find? fun w => w.id = id with
  | none => .fault (.notEnabled "L2_ACCEPT")
  | some w =>
    if s.mayAccept w then
      let s1 := ({ s with coreWrites := s.coreWrites.filter fun q => decide (q.id ≠ id) } : State).revive w.pa
      .next (s1.enterView id (dieOfCore w.core) w.pa w.bytes w.dur none)
    else .fault (.notEnabled "L2_ACCEPT")

/-- A result that a lane's value was awaited for waits for nothing more: it may land from now on. -/
def State.ready (s : State) (wi wb lane : Nat) : State :=
  s.modWave wi fun w => { w with wbs := w.wbs.map fun b =>
    if b.id = wb ∧ (b.writes.any fun r => decide (r.lane = lane)) = true then { b with due := some (max s.cyc (b.due.getD 0)) } else b }

/-- The outcome of an atomic has returned: a lane that waits for it goes on with its acquire; a .dur acquire
then waits for the durable writes it may have read (13: R233), and a .sys acquire for its die to have host memory as the
host's die has it (12: R221). -/
def State.atomicReturned (s : State) (wi l id : Nat) (sc : Scope) : State :=
  match s.wave? wi with
  | none => s
  | some w =>
    if (w.lane l).status ≠ .inside (.outcome id) then s
    else if sc = .dur ∨ sc = .sys then
      (s.request wi (bitMask l) w.core none (some sc) .fence).modWave wi fun w => w.modLane l fun x =>
        { x with status := .inside (.proceed s.fresh) }
    else
      s.modWave wi fun w => w.modLane l fun x => if sc.isClu then { x.goOn with acquired := s.cyc } else x.goOn

/-- The scope of an atomic instruction. -/
def atomScope : Instr → Scope
  | .atomAdd _ m _ _ _ | .atomSmin _ m _ _ _ | .atomSmax _ m _ _ _ | .atomUmin _ m _ _ _ | .atomUmax _ m _ _ _
  | .atomAnd _ m _ _ _ | .atomOr _ m _ _ _ | .atomXor _ m _ _ _ | .atomExch _ m _ _ _ | .atomFadd _ m _ _ _
  | .atomcas _ m _ _ _ _ => m.scope
  | _ => .dev
/-- The scope of the atomic inside which a lane waits. -/
def State.waitScope (s : State) (wi l : Nat) : Scope :=
  match (s.wave? wi).bind fun w => (w.lane l).insn with | some i => atomScope i | none => .dev

/-- The forwarded write of an atomic has been applied: its result returns (12: R223). -/
def State.linkReturned (s : State) (w : LinkWrite) : State :=
  match s.atomics.find? fun a => decide (a.id = w.id) with
  | some a =>
    (match a.callb, a.outcome with
     | some (va, cell, cells), some won =>
       ({ s with atomics := s.atomics.filter fun x => decide (x.id ≠ w.id) } : State).callbOutcome a.wave a.id a.lane va cell cells won
     | _, _ => s)
  | none =>
    match w.result, w.dur with
    | some (wi, wb), some t =>
      let core := ((s.wave? wi).map (·.core)).getD 0
      ((s.ready wi wb t.lane).renewCopies core w.pa w.bytes.length).atomicReturned wi t.lane w.id (s.waitScope wi t.lane)
    | _, _ => s

def execDieLinkApply (id : Nat) (s : State) : Out :=
  match s.linkWrites.find? fun w => w.id = id with
  | none => .fault (.notEnabled "DIE_LINK_APPLY")
  | some w =>
    if s.linkReady w then
      let die := w.toDie
      let clock := if die = 0 then w.clock0 else w.clock1
      let s0 : State := { s with linkWrites := s.linkWrites.filter fun q => decide (q.id ≠ id) }
      let s1 := (s0.setView die (remoteMerge s0 die clock (s0.view die) w.pa w.bytes)).tick1 die (1 - die)
      let s2 := if homeDie w.pa = die then s1.sendDurable id w.pa w.bytes w.dur else s1
      .next ((s2.wakeLines w.pa w.bytes.length).linkReturned w)
    else .fault (.notEnabled "DIE_LINK_APPLY")

/-! ### ATOMIC_EXECUTE (12: R223) -/

/-- The die an atomic of a scope executes at. -/
def AtomicFlight.die (a : AtomicFlight) : Nat := if a.scope.isDev then homeDie a.pa else dieOfCore a.core

/-- The place of the atomic has the writes of its core that it must follow, and earlier atomics there; an atomic that
executes at its thread's own die or core has there the atomics that threads of the die have executed at the far home
(12: R223). -/
def State.mayExecute (s : State) (a : AtomicFlight) : Bool :=
  decide (a.due ≤ s.cyc) && a.outcome.isNone &&
  !(s.atomics.any fun e => decide (e.id < a.id) && e.outcome.isNone && rangesOverlap e.pa e.n a.pa a.n) &&
  (!a.scope.isClu || !(s.coreWrites.any fun w => decide (w.core = a.core) && rangesOverlap w.pa w.bytes.length a.pa a.n)) &&
  (decide (a.die = dieOfCore a.core) || !a.scope.isClu || !(s.linkWrites.any fun w =>
    decide (w.toDie = a.die) && rangesOverlap w.pa w.bytes.length a.pa a.n)) &&
  (a.scope.isDev || !(s.linkWrites.any fun w =>
    w.result.isSome && decide (w.toDie = a.die) && rangesOverlap w.pa w.bytes.length a.pa a.n))

/-- The old value where an atomic executes; a discarded page reads zero (21: R359). -/
def State.atomOld (s : State) (a : AtomicFlight) : Nat :=
  let asid := ((s.wave? a.wave).map (·.asid)).getD 0
  let gone := s.pages.any fun p => p.disc.isSome && decide (p.asid = asid ∧ p.pa ≤ a.pa ∧ a.pa < p.pa + p.size ∧ p.kind = 0)
  if gone then 0
  else if a.scope.isClu then leNat (Memory.read (s.view a.die) a.pa a.n)
  else leNat ((List.range a.n).map fun i => s.coreByte a.core (a.pa + i))

/-- Gives a result its value of a lane, its time still open. -/
def State.setValue (s : State) (wi wb lane : Nat) (v : Word) (due : Option Nat) : State :=
  s.modWave wi fun w => { w with wbs := w.wbs.map fun b =>
    if b.id = wb ∧ (b.writes.any fun r => decide (r.lane = lane)) = true then
      { b with writes := b.writes.map fun r => if r.lane = lane then { r with val := v } else r
               due := match b.due with | some d => some d | none => due } else b }

def State.executeAtomic (s : State) (a : AtomicFlight) : State :=
  let old := s.atomOld a
  let new := atomNew a.op a.n old a.x.toNat a.y.toNat
  let writes := !(decide (a.op = .cas) && decide (new = old))
  let bytes := natLe a.n new
  let away := a.scope.isClu && writes && decide (a.die ≠ dieOfCore a.core)
  let s0 := { s with atomics := s.atomics.filter fun x => decide (x.id ≠ a.id) }
  let s1 := if writes then s0.revive a.pa else s0
  let s2 :=
    if !writes then s1
    else if a.scope.isClu then s1.enterView a.id a.die a.pa bytes (some a.dur) (if away then some (a.wave, a.wb) else none)
    else s1.leaveCore a.id a.core a.pa bytes (some a.dur)
  match a.callb with
  | some (va, cell, cells) =>
    if away then { s2 with atomics := s2.atomics ++ [{ a with outcome := some true }] }
    else s2.callbOutcome a.wave a.id a.lane va cell cells (decide (old = cell.toNat))
  | none =>
    let s2 := if a.scope.isClu then s2.renewCopies a.core a.pa a.n else s2
    let s3 := (s2.setValue a.wave a.wb a.lane (BitVec.ofNat 64 old) (if away then none else some (s.cyc + s2.delay 40))).bump
    if away then s3 else s3.atomicReturned a.wave a.lane a.id a.scope

def execAtomicExecute (id : Nat) (s : State) : Out :=
  match s.atomics.find? fun a => a.id = id with
  | none => .fault (.notEnabled "ATOMIC_EXECUTE")
  | some a => if s.mayExecute a then .next (s.executeAtomic a) else .fault (.notEnabled "ATOMIC_EXECUTE")

/-! ### The durable controllers (13: R231 to R237) -/

def unitsMeet (a n b m : Nat) : Bool := decide (a / 8 < (b + m + 7) / 8 ∧ b / 8 < (a + n + 7) / 8)
/-- Bytes that a controller has accepted and not yet written to media. -/
def State.bufferedAt (s : State) (stack : Nat) : Nat := ((s.accepted.filter fun e => decide (e.stack = stack)).map (·.size)).sum
/-- The bytes a write takes of the controller's buffer: a sequence record is one of the recovery page's wave records, of 16
bytes (13: R236, R242; log entry 90). -/
def DurableWrite.size (w : DurableWrite) : Nat := if w.psync.isSome then 16 else w.bytes.length

/-- The controller may accept a write: units in coherence order, persist epochs in order, below WBMAX. -/
def State.mayPersist (s : State) (w : DurableWrite) : Bool :=
  decide (w.due ≤ s.cyc ∧ s.power = .on ∧ s.bufferedAt w.stack + w.size ≤ s.wbmax) &&
  !((s.durQueue.takeWhile fun e => decide (e ≠ w)).any fun e =>
    decide (e.stack = w.stack) && !e.bytes.isEmpty && !w.bytes.isEmpty && unitsMeet e.pa e.bytes.length w.pa w.bytes.length) &&
  (match w.dur with | some t => !s.unpersisted t && !s.heldBefore t | none => true)

def totalRecords (s : State) : Nat := (s.recovery.map fun e => e.records.length).sum

/-- The sequence record of a completed PSYNC (13: R236, R241). -/
def State.writeSequence (s : State) (wi : Nat) (seq : Word) : State :=
  match s.wave? wi with
  | none => s
  | some w =>
    { s with recovery := s.recovery.map fun e =>
        if !s.recordsOf w e then e
        else if e.records.any (s.recordOf w) then
          { e with records := e.records.map fun r => if s.recordOf w r then (r.1, r.2.1, r.2.2.1, seq) else r }
        else if totalRecords s < 2 ^ 20 then
          { e with records := e.records ++ [(((s.blocks[w.block]?).map (·.index)).getD 0, w.number, false, seq)] }
        else { e with overflow := true } }

def execDurableAccept (id : Nat) (s : State) : Out :=
  match s.durQueue.find? fun w => w.id = id with
  | none => .fault (.notEnabled "DURABLE_ACCEPT")
  | some w =>
    if s.mayPersist w then
      let s1 := { s with durQueue := s.durQueue.erase w, accepted := s.accepted ++ [(⟨w.stack, w.pa, w.bytes, w.size⟩ : Accepted)] }
      match w.psync with
      | some (wi, seq) => .next ((s1.writeSequence wi seq).proceed wi id none)
      | none => .next { s1 with media := Memory.write s1.media w.pa w.bytes }
    else .fault (.notEnabled "DURABLE_ACCEPT")

/-- The first `k` bytes of a controller's buffer are taken from it: what stays, and what is taken. -/
def takeAccepted (stack : Nat) : Nat → List Accepted → List Accepted × List Accepted
  | _, [] => ([], [])
  | k, e :: rest =>
    if e.stack ≠ stack ∨ k = 0 then let r := takeAccepted stack k rest; (e :: r.1, r.2)
    else if e.size ≤ k then let r := takeAccepted stack (k - e.size) rest; (r.1, e :: r.2)
    else ({ e with pa := e.pa + k, bytes := e.bytes.drop k, size := e.size - k } :: rest, [{ e with bytes := e.bytes.take k, size := k }])
/-- A controller writes bytes to its media, those that it has held longest first (13: R237; log entry 90). -/
def execWbmaxRelease (stack bytes : Nat) (s : State) : Out :=
  if 0 < bytes ∧ bytes ≤ s.bufferedAt stack then
    let r := takeAccepted stack bytes s.accepted
    .next { s with accepted := r.1, mediaOld := r.2.foldl (fun m e => Memory.write m e.pa e.bytes) s.mediaOld }
  else .fault (.notEnabled "WBMAX_RELEASE")

/-! ### WRITE_BACK -/

/-- What of a result lands when it does (10: R204). -/
def Wave.freePart (w : Wave) (b : WriteBack) : WriteBack :=
  { b with writes := b.writes.filter fun r => !w.holdsWrite b r, lanes := b.lanes &&& ~~~(w.heldPart b).lanes }
/-- A result lands, or the part of it that no earlier result holds, and is kept for a replay (10: R204; 16: R273). -/
def State.landResult (s : State) (wi : Nat) (w : Wave) (b : WriteBack) : State :=
  let s1 := s.setWave wi (w.land (s.nextSources w) s.cyc b)
  { s1 with
    landed := s1.landed ++ [(⟨s.cyc, wi, w.freePart b⟩ : Landed)]
    injections := s1.injections.map fun j => j.overwritten wi b.writes }

def execWriteBack (wi id : Nat) (s : State) : Out :=
  match s.wave? wi with
  | none => .fault (.notEnabled "WRITE_BACK")
  | some w =>
    match w.wbs.find? fun b => b.id = id with
    | none => .fault (.notEnabled "WRITE_BACK")
    | some b => if w.canLand s.cyc b then .next (s.landResult wi w b) else .fault (.notEnabled "WRITE_BACK")

/-! ### FILL_LAND (08: R172, R174) -/

/-- The value of a register is lost in some lanes: whoever reads it there, before it is written, consumes it. -/
def Wave.loseV (w : Wave) (n : Nat) (m : LaneMask) : Wave :=
  (lanesOf m).foldl (fun w l => w.setV n l { w.vcell n l with bad := true }) w

/-- A fill ends in some lanes of its entry, and the next of the entry's fills is the one that lands next; an entry with
no valid lane and no fill is free. -/
def Wave.fillEnd (w : Wave) (reg : Nat) (valid : LaneMask) : Wave :=
  { w with ocache := (w.ocache.map fun x =>
      if x.reg = reg then { x with valid := x.valid ||| valid, fill := x.later.head?.map (·.1)
                                   filling := (x.later.head?.map (·.2)).getD 0, later := x.later.tail } else x).filter fun x =>
        decide (x.valid ≠ 0) || x.fill.isSome }

def execFillLand (wi reg : Nat) (ecc : FillEcc) (s : State) : Out :=
  match s.wave? wi with
  | none => .fault (.notEnabled "FILL_LAND")
  | some w =>
    match w.ocache.find? fun e => decide (e.reg = reg) && (match e.fill with | some t => decide (t ≤ s.cyc) | none => false) with
    | none => .fault (.notEnabled "FILL_LAND")
    | some e =>
      let lane := (lowest e.filling).getD 0
      let details := [1, frameLoc wi w reg, BitVec.ofNat 64 (reg * 32 + lane)]
      let close := fun (valid : LaneMask) (s : State) => s.modWave wi fun w => w.fillEnd reg valid
      match ecc with
      | .clean => .next (close e.filling s)
      | .corrected => .next ((close e.filling s).waveLog w 0x23 0 0 details)
      | .bad | .badBoth =>
        if w.mirrored && decide (ecc = .bad) then .next ((close e.filling s).waveLog w 0x24 0 0 details)
        else .next (((close e.filling s).modWave wi fun w => w.loseV reg e.filling).waveLog w 0x25 0 0 details)

end Sys2Proof.Machine
end

