-- ==== Sys2Proof/Machine/Walks.lean ====
section
/-! DEFINITION. What the walker answers (21: R347, R351, R352), the reports of parked lanes (21: R356), and
the wakes of MWAIT, SLEEP and CALLB (06: R149, R151; 04: R101). -/

namespace Sys2Proof.Machine

/-! ### TRANSLATION_WALK -/

/-- What a load, store, atomic or MONITOR does for a lane. -/
def laneOp : Instr → Option LaneOp
  | .ld _ m _ _ _ _ | .ldt _ m _ _ _ _ => some (.load m.size.bytes m.sext m.rd.toNat false)
  | .st _ m _ _ _ _ | .stt _ m _ _ _ _ => some (.store m.size.bytes m.rd.toNat)
  | .monitor _ _ _ _ _ => some (.load 8 false 3 true)
  | .atomAdd _ m _ _ _ => some (.atomic .add m.bytes m.scope m.ord .raw)
  | .atomSmin _ m _ _ _ => some (.atomic .smin m.bytes m.scope m.ord .raw)
  | .atomSmax _ m _ _ _ => some (.atomic .smax m.bytes m.scope m.ord .raw)
  | .atomUmin _ m _ _ _ => some (.atomic .umin m.bytes m.scope m.ord .raw)
  | .atomUmax _ m _ _ _ => some (.atomic .umax m.bytes m.scope m.ord .raw)
  | .atomAnd _ m _ _ _ => some (.atomic .and m.bytes m.scope m.ord .raw)
  | .atomOr _ m _ _ _ => some (.atomic .or m.bytes m.scope m.ord .raw)
  | .atomXor _ m _ _ _ => some (.atomic .xor m.bytes m.scope m.ord .raw)
  | .atomExch _ m _ _ _ => some (.atomic .exch m.bytes m.scope m.ord .raw)
  | .atomFadd _ m _ _ _ => some (.atomic .fadd m.bytes m.scope m.ord m.flt.tag)
  | .atomcas _ m _ _ _ _ => some (.atomic .cas m.bytes m.scope m.ord .raw)
  | _ => none

/-- The lanes whose access waits for the walker together with a lane's: its instruction and place. -/
def Wave.walkGroup (w : Wave) (l : Nat) : LaneMask :=
  w.lanesWhere fun x => decide (x.insn = (w.lane l).insn ∧ x.pc = (w.lane l).pc) &&
    (match x.status with | .inside (.walk _ _ _ _) => true | _ => false)
/-- The access a lane has sent to the walker. -/
def Lane.walk (l : Lane) : Nat × Nat × Acc × List Word :=
  match l.status with | .inside (.walk va n acc d) => (va, n, acc, d) | _ => (0, 1, .load, [])

/-- Lines that hold an address take the permissions the walker found (21: R347). -/
def State.reperm (s : State) (asid tenant va : Nat) (p : Page) : State :=
  { s with lines := s.lines.map fun x =>
      if decide (x.va = va / 64 ∧ (x.asid = asid ∨ (x.asid = 0 ∧ x.tenant = tenant)))
      then { x with r := p.r, w := p.w, x := p.x, u := p.u, sw := p.sw, res := p.res } else x }

/-- A granted miss fills its line: L1 and L2 for a load, L2 for a write, none of a discarded page; of a migrating page it
pulls the line first (21: R348, R351, R357, R359). -/
def State.fillGranted (s : State) (w : Wave) (acc : Acc) (field va : Nat) : State :=
  match s.page? w.asid va with
  | none => s
  | some p =>
    let s1 := s.reperm w.asid w.tenant va p
    let s2 := (s1.pullLine p ((va - p.va) / 64)).getD s1
    if p.disc.isSome then s2 else s2.fill w.core w.asid w.tenant va (decide (acc = .load)) field

/-- Lanes whose access the walker refused park, each cause as one sub-group (10: R203). -/
def Wave.parkWalk (w : Wave) (m : LaneMask) (ref_ : Nat → Option Refuse) (cyc : Nat) : Wave :=
  let grp := fun (c : Nat) => maskOf fun l => m.getLsbD l && (match ref_ l with | some r => decide (r.cause = c) | none => false)
  let low := fun (c : Nat) => match (lowest (grp c)).bind ref_ with | some r => r | none => ⟨c, 0, 0⟩
  w.mapLanes fun l x =>
    match ref_ l with
    | some r =>
      if m.getLsbD l then
        { x with
          status := .parked ⟨r.cause, (low r.cause).addr, x.walk.1, x.walk.2.1, x.walk.2.2.1, (low r.cause).perms, grp r.cause,
            x.lastIssue.getD cyc, false, false⟩
          insn := none }
      else x
    | none => x

/-- The walker answers: granted lanes perform and go on, refused lanes park at the instruction. -/
def State.walkAnswer (s : State) (wi : Nat) (w : Wave) (m : LaneMask) (i : Instr) (v : View) (op : LaneOp) : State :=
  let res := fun l => s.walk1 w.asid w.level (w.lane l).walk.1 op.acc
  let ref_ := fun l => match res l with | .error r => some r | .ok _ => none
  let ok := maskOf fun l => m.getLsbD l && (ref_ l).isNone
  let jobs := (lanesOf ok).map fun l =>
    (⟨l, (w.lane l).walk.1, (match res l with | .ok pa => pa | .error _ => 0), (w.lane l).walk.2.2.2⟩ : Job)
  let field := match op.rd with | some rd => rd | none => 3
  let s1 := jobs.foldl (fun (s : State) (j : Job) => s.fillGranted w op.acc field j.va) s
  let s2 := s1.modWave wi fun w => (w.parkWalk m ref_ s.cyc).releases ok v
  let s3 := s2.modWave wi fun w => w.modLanes ok fun x => { x with status := .ready, insn := none }
  let s4 := s3.perform wi w i v op (s.loadTime w jobs) jobs
  (s4.issuedAt s.fresh (s.issueOf wi ((lowest m).getD 0))).modWave wi fun w => w.modLanes ok op.onward

def execTranslationWalk (wi lane : Nat) (s : State) : Out :=
  match s.wave? wi with
  | none => .fault (.notEnabled "TRANSLATION_WALK")
  | some w =>
    let m := w.walkGroup lane
    match (w.lane lane).insn with
    | none => .fault (.notEnabled "TRANSLATION_WALK")
    | some i =>
      match i.view, laneOp i with
      | some v, some op =>
        if m.getLsbD lane then .next (s.walkAnswer wi w m i v op) else .fault (.notEnabled "TRANSLATION_WALK")
      | _, _ => .fault (.notEnabled "TRANSLATION_WALK")

/-! ### FAULT_REPORT -/

/-- D1: what the access was. -/
def Acc.code : Acc → Nat | .load => 0 | .store => 1 | .atomic => 2 | .fetch => 0

/-- The lanes of a lane's sub-group that are still parked and not yet reported. -/
def Wave.parkGroup (w : Wave) (p : Park) : LaneMask :=
  w.lanesWhere fun x => match x.status with
    | .parked q => decide (q.group = p.group ∧ q.issued = p.issued ∧ q.cause = p.cause ∧ q.reported = false) | _ => false

/-- The record of a parked sub-group (21: R356). -/
def State.parkRecord (s : State) (w : Wave) (p : Park) (m : LaneMask) : Record :=
  s.record w p.cause true (w.pcOf m) m
    ([BitVec.ofNat 64 p.addr] ++ if p.cause = 0x10 then [] else [BitVec.ofNat 64 (Acc.code p.acc), BitVec.ofNat 64 p.perms]) []

def execFaultReport (wi lane : Nat) (s : State) : Out :=
  match s.wave? wi with
  | none => .fault (.notEnabled "FAULT_REPORT")
  | some w =>
    match (w.lane lane).status with
    | .parked p =>
      if p.reported = false ∧ p.issued + 128 ≤ s.cyc then
        let m := w.parkGroup p
        let r := s.parkRecord w p m
        if w.control then .next (s.controlFault wi w { r with words := r.words.modify 0 fun x => x &&& ~~~256#64 } (w.pcOf m) p.cause)
        else
          .next ((s.ringRecord w.tenant false r).modWave wi fun w => w.modLanes m fun x =>
            match x.status with | .parked q => { x with status := .parked { q with reported := true } } | _ => x)
      else .fault (.notEnabled "FAULT_REPORT")
    | _ => .fault (.notEnabled "FAULT_REPORT")

/-! ### Wakes -/

/-- The timeout of a lane in MWAIT. -/
def Lane.mwaits (l : Lane) : Option (Option Nat) := match l.status with | .inside (.mwait t) => some t | _ => none

/-- Ends a lane's MWAIT when its reason is the one the step is for; a wave that is switched out goes on with reason
2 when it comes back. -/
def mwaitStep (s : State) (wi lane : Nat) (name : String) (reason : Nat) : Out :=
  match s.wave? wi with
  | none => .fault (.notEnabled name)
  | some w =>
    match (w.lane lane).mwaits with
    | some t =>
      if w.resident && decide ((w.lane lane).mwaitReason s.cyc t = some reason) then .next (s.mwaitLeave wi lane reason) else .fault (.notEnabled name)
    | none => .fault (.notEnabled name)
def execLineWriteWake (wi lane : Nat) (s : State) : Out := mwaitStep s wi lane "LINE_WRITE_WAKE" 0
def execMwaitTimeout (wi lane : Nat) (s : State) : Out := mwaitStep s wi lane "MWAIT_TIMEOUT" 1

def execSpuriousWake (wi lane : Nat) (s : State) : Out :=
  match s.wave? wi with
  | none => .fault (.notEnabled "SPURIOUS_WAKE")
  | some w =>
    match (w.lane lane).status with
    | .inside (.mwait _) => .next (s.mwaitLeave wi lane 2)
    | .blocked (.callb _) => .next (s.modWave wi fun w => w.modLane lane fun x => { x with status := .ready })
    | _ => .fault (.notEnabled "SPURIOUS_WAKE")

/-- A sleeping cohort is ready at its SLEEP once its time has come; the object is checked as it issues. -/
def execSleepWake (wi lane : Nat) (s : State) : Out :=
  match s.wave? wi with
  | none => .fault (.notEnabled "SLEEP_WAKE")
  | some w =>
    match (w.lane lane).status with
    | .blocked (.sleep t) =>
      if t ≤ s.cyc then
        let m := w.lanesWhere fun x => decide (x.status = (w.lane lane).status ∧ x.pc = (w.lane lane).pc)
        .next (s.modWave wi fun w => w.modLanes m fun x => { x with status := .ready })
      else .fault (.notEnabled "SLEEP_WAKE")
    | _ => .fault (.notEnabled "SLEEP_WAKE")

end Sys2Proof.Machine
end

