-- ==== Sys2Proof/Machine/Copies.lean ====
section
/-! DEFINITION. The copy engine's rows (06: R147, R148; 20: R326), collective instances and group membership
(20: R328 to R331). -/

namespace Sys2Proof.Machine

/-! ### Rows -/

/-- The bytes of a list of readings, or the first that was refused and its place. -/
def allBytes : Nat → List (Except Refuse Byte) → Except (Nat × Refuse) (List Byte)
  | _, [] => .ok []
  | k, .error e :: _ => .error (k, e)
  | k, .ok b :: rest => (allBytes (k + 1) rest).map (b :: ·)

/-- Whether a remote page lets the engine act for a wave. -/
def Page.remoteOk (p : Page) (store slevel : Bool) : Bool :=
  (slevel || p.u) && if store then p.w || (p.sw && slevel) else p.r

/-- One byte the engine reads: from its core's die view, or from another device (20: R326). -/
def State.copyByte (s : State) (c : Copy) (va : Nat) : Except Refuse Byte :=
  match s.page? c.asid va with
  | none => .error ⟨0x11, va, 0⟩
  | some p =>
    if p.kind = 2 then
      if p.remoteOk false c.slevel then .ok (Config.remoteByte s.fresh p.dev (p.pa + (va - p.va))) else .error ⟨0x12, va, p.permBits⟩
    else
      match s.walk1 c.asid c.slevel va .load with
      | .error e => .error e
      | .ok pa => if (s.memMark pa 1).isSome then .error ⟨0x51, va, 0⟩ else .ok (if p.disc.isSome then 0 else Memory.get (s.view (dieOfCore c.core)) pa)

/-- An address of row `i`. -/
def rowVa (base stride : Word) (i : Nat) : Nat := wrap 64 ((base.toNat : Int) + i * stride.toInt)

/-- Row `i` of the source, in full. -/
def State.copyRead (s : State) (c : Copy) (i : Nat) : Except (Nat × Refuse) (List Byte) :=
  if c.zero then .ok (List.replicate c.rowBytes 0)
  else if c.srcLocal then
    match s.copyPlace c (c.word 0) with
    | none => .ok (List.replicate c.rowBytes 0)
    | some (b, off) =>
      let o := ((off : Int) + i * (c.word 4).toInt).toNat
      if c.rowBytes ≠ 0 ∧ ((List.range ((o % 4096 + c.rowBytes + 4095) / 4096)).any fun k => (s.regionMark b 2 (o / 4096 + k)).isSome) = true then
        .error (0, ⟨0x51, wrap 64 ((c.word 0).toNat + i * (c.word 4).toInt), 0⟩)
      else .ok ((List.range c.rowBytes).map fun k => match s.blocks[b]? with | some x => SMap.get 0 x.scratch (o + k) | none => 0)
  else
    let va := rowVa (c.word 0) (c.word 4) i
    allBytes 0 ((List.range c.rowBytes).map fun k => s.copyByte c ((va + k) % 2 ^ 64))

/-- The address a row is read from; a row of zeros is read from nowhere, and counts as aligned with its destination. -/
def Copy.source (c : Copy) (i va : Nat) : Nat :=
  if c.zero then va else if c.srcLocal then wrap 64 ((c.word 0).toNat % 2 ^ 24 + i * (c.word 4).toInt) else rowVa (c.word 0) (c.word 4) i
/-- The first unit at a scratchpad source that reads as uncorrectable, or at an address that has refused with that cause
(16: R276). -/
def State.copyUnit (s : State) (c : Copy) (i addr : Nat) : Option (Nat × Nat) :=
  if c.srcLocal then
    (s.copyPlace c (c.word 0)).bind fun p =>
      let o := ((p.2 : Int) + i * (c.word 4).toInt).toNat
      (List.range ((o % 4096 + c.rowBytes + 4095) / 4096)).findSome? fun k => s.regionMark p.1 2 (o / 4096 + k)
  else match s.walk1 c.asid c.slevel addr .load with | .ok pa => s.memMark pa 1 | .error _ => none

/-- The pieces of `n` bytes at a virtual address, none across an 8-byte boundary. -/
def vaPieces : Nat → Nat → List Byte → List (Nat × List Byte)
  | 0, _, _ => []
  | _, _, [] => []
  | n + 1, va, bs => (va % 2 ^ 64, bs.take (8 - va % 8)) :: vaPieces n (va + (8 - va % 8)) (bs.drop (8 - va % 8))
/-- A piece that is a whole unit, aligned as its source is, is written at once; every other byte by byte, in an order that
is free (12: R214). -/
def unitPieces (n : Nat) (whole : Bool) (p : Nat × List Byte) : List (Nat × List Byte) :=
  if whole && decide (p.2.length = 8) then [p]
  else (((Config.byteOrder n).filter fun k => decide (k < p.2.length)) ++ List.range p.2.length).eraseDups.map fun k =>
    ((p.1 + k) % 2 ^ 64, [p.2.getD k 0])
/-- The writes of bytes that come from an address `src`. -/
def State.copyPieces (s : State) (src va : Nat) (bytes : List Byte) : List (Nat × List Byte) :=
  (vaPieces (bytes.length + 1) va bytes).flatMap (unitPieces s.fresh (decide (src % 8 = va % 8)))

/-- The address of the first piece whose page refuses the engine's store. -/
def State.copyRefusal (s : State) (c : Copy) : List (Nat × List Byte) → Option Refuse
  | [] => none
  | (va, _) :: rest =>
    match s.page? c.asid va with
    | none => some ⟨0x11, va, 0⟩
    | some p =>
      if if p.kind = 2 then p.remoteOk true c.slevel else p.permits .store c.slevel then s.copyRefusal c rest
      else some ⟨0x12, va, p.permBits⟩

/-- Writes pieces; what another device holds changes there and not here. -/
def State.copyPut (s : State) (c : Copy) (ps : List (Nat × List Byte)) : State :=
  ps.foldl (fun (s : State) p =>
    match s.walk1 c.asid c.slevel p.1 .store with
    | .ok pa => (s.revive pa).bump.enterView s.fresh (dieOfCore c.core) pa p.2 none none
    | .error _ => s) s

/-- Lines that a row's destination passes through take the descriptor's reuse distance (06: R136). -/
def State.copyLines (s : State) (c : Copy) (va n : Nat) : State :=
  match s.wave? c.wave with
  | none => s
  | some w => (linesOf va n).foldl (fun (s : State) k => s.fill c.core c.asid w.tenant (64 * k % 2 ^ 64) false c.dstRd) s

/-- Writes a row at a virtual address: the state, and where and how a page refused. -/
def State.copyWrite (s : State) (c : Copy) (src va : Nat) (bytes : List Byte) : State × Option Refuse :=
  match s.copyRefusal c (vaPieces (bytes.length + 1) va bytes) with
  | none => ((s.copyPut c (s.copyPieces src va bytes)).copyLines c va bytes.length, none)
  | some e =>
    let n := min (Config.partRow s.fresh) ((e.addr + 2 ^ 64 - va) % 2 ^ 64)
    (s.bump.copyPut c (s.copyPieces src va (bytes.take n)), some e)

/-- Copies row `i`: the state, and what refused. Of a row whose source refuses, the bytes before the refused one are
written in part to memory; to a scratchpad none are (log entry 37). -/
def State.copyRow (s : State) (c : Copy) (i : Nat) : State × Option Refuse :=
  let va := rowVa (c.word 1) (c.word 5) i
  let src := c.source i va
  match s.copyRead c i with
  | .error (k, e) =>
    let n := min (Config.partRow s.fresh) k
    let bytes := (List.range n).map fun j => match s.copyByte c ((src + j) % 2 ^ 64) with | .ok b => b | .error _ => 0
    if c.dstLocal then (s.bump, some e) else (s.bump.copyPut c (s.copyPieces src va bytes), some e)
  | .ok bytes =>
    if c.dstLocal then
      match s.copyPlace c (c.word 1) with
      | none => (s, none)
      | some (b, off) =>
        let o := ((off : Int) + i * (c.word 5).toInt).toNat
        (s.modBlock b fun x => { x with scratch := (List.range bytes.length).foldl (fun m k => SMap.set 0 m (o + k) (bytes.getD k 0)) x.scratch }, none)
    else s.copyWrite c src va bytes

/-! ### COPY_COMPLETE and COPY_FAULT -/

def State.setCopy (s : State) (core : Nat) (c : Copy) : State :=
  { s with copies := SMap.set [] s.copies core (c :: (s.copiesOf core).drop 1) }
def State.dropCopy (s : State) (core : Nat) : State := { s with copies := SMap.set [] s.copies core ((s.copiesOf core).drop 1) }

/-- The block of a contained kernel for which an engine has consumed a unit is to be killed (16: R276). -/
def State.engineConsumes (s : State) (wi : Nat) (u : Option (Nat × Nat)) : State :=
  match s.wave? wi, u with
  | some w, some u => if s.contained w then s.doom w.block u else s
  | _, _ => s
/-- The rows of the copy at the head of a core's queue that the engine has moved by now, in ascending order, each read in
full before it is written (06: R147; 10: R410; 12: R227). When the last has been written, or an access has refused, the
object waits until the other die has applied every write that the engine's die has then (06: R146; 12: R221). -/
def State.moveCopy (s : State) (core : Nat) : Nat → State
  | 0 => s
  | fuel + 1 =>
    match s.copiesOf core with
    | [] => s
    | c :: _ =>
      if c.ids.isSome ∨ s.cyc < c.start then s
      else if c.rows ≤ c.done ∨ c.fault.isSome ∨ c.rowBytes = 0 then s.setCopy core { c with done := max c.done c.rows, ids := some (s.linkFrom core) }
      else if s.cyc < c.start + copyTime ((c.done + 1) * c.rowBytes) then s
      else
        match s.copyRow c c.done with
        | (s1, none) => (s1.bump.setCopy core { c with done := c.done + 1 }).moveCopy core fuel
        | (s1, some e) =>
          let s2 := if e.cause = 0x51 then s1.engineConsumes c.wave (s.copyUnit c c.done e.addr) else s1
          (s2.setCopy core { c with fault := some (e.cause, e.addr) }).moveCopy core fuel

/-- Every write that a completion object waits for has been applied. -/
def State.copyShown (s : State) (c : Copy) : Bool :=
  match c.ids with | some ids => !(s.linkWrites.any fun w => ids.contains w.id) | none => false
def execCopyComplete (core : Nat) (s : State) : Out :=
  match s.copiesOf core with
  | c :: _ => if s.copyShown c && c.fault.isNone then .next ((s.copyEnd c 1 0 c.bytes).dropCopy core) else .fault (.notEnabled "COPY_COMPLETE")
  | [] => .fault (.notEnabled "COPY_COMPLETE")

def execCopyFault (core : Nat) (s : State) : Out :=
  match s.copiesOf core with
  | c :: _ =>
    (match c.fault with
    | some (cause, addr) => if s.copyShown c then .next ((s.copyEnd c 2 cause addr).dropCopy core) else .fault (.notEnabled "COPY_FAULT")
    | none => .fault (.notEnabled "COPY_FAULT"))
  | [] => .fault (.notEnabled "COPY_FAULT")

/-! ### Collective instances (20: R329 to R331) -/

/-- SCALE of a group of `n` members. -/
def groupScale (n : Nat) : Nat := (fDiv .f32 .rne (fpSmall .f32 1) (intToFloat .f32 .rne n).1).1

/-- The smallest k with n ≤ 2^k, up to 7. -/
def treeHeight (n : Nat) : Nat := ((List.range 8).find? fun k => n ≤ 2 ^ k).getD 7

/-- One element of the result: the tree over the members' elements in rank order. -/
def CollWindow.reduce (x : CollWindow) (xs : List Nat) : Nat :=
  let k := treeHeight xs.length
  let pad := xs ++ List.replicate (2 ^ k - xs.length) (redIdentity x.op (.flt .f32))
  let y := (redRoot (redNode x.op (.flt .f32)) k pad).1
  let y := if x.mean then (fMul .f32 .rne y (groupScale xs.length)).1 else y
  if x.bf16 then (floatToFloat .f32 .bf16 .rne y).1 else y

/-- The elements of a row, in FP32; and the bytes of a row of elements. -/
def CollWindow.size (x : CollWindow) : Nat := if x.bf16 then 2 else 4
def CollWindow.elems (x : CollWindow) (bytes : List Byte) : List Nat :=
  (List.range (bytes.length / x.size)).map fun i =>
    let e := leNat ((bytes.drop (x.size * i)).take x.size)
    if x.bf16 then (floatToFloat .bf16 .f32 .rne e).1 else e

/-- Row `i` of an instance's result; another member's elements come from outside. -/
def Collective.row (k : Collective) (x : CollWindow) (n i : Nat) (own : List Byte) : List Byte :=
  let es := x.elems own
  (List.range es.length).flatMap fun o =>
    natLe x.size (x.reduce (k.members.map fun m =>
      if m = Config.deviceNumber then es.getD o 0 else (Config.contribution n m (i * es.length + o)).toNat))

/-- The rows of an instance: the state, and what refused. -/
def State.collRows (s : State) (k : Collective) (x : CollWindow) (n i : Nat) : Nat → State × Option Refuse
  | 0 => (s, none)
  | fuel + 1 =>
    match s.copyRead k.copy i with
    | .error (_, e) => (s, some e)
    | .ok own =>
      let va := (x.dst + (rowVa (k.copy.word 1) (k.copy.word 5) i + 2 ^ 64 - x.base)) % 2 ^ 64
      match s.copyWrite k.copy (k.copy.source i va) va (k.row x n i own) with
      | (s1, none) => s1.collRows k x n (i + 1) fuel
      | (s1, some e) => (s1, some e)

/-- The 16 bytes behind the completion object, then the object. -/
def State.collEnd (s : State) (k : Collective) (x : CollWindow) : State :=
  let n := k.members.length
  let s1 := s.writeObject k.copy 16 (BitVec.ofNat 64 (k.epoch + n * 2 ^ 32 + bitIf k.shrunk 39))
  let s2 := s1.writeObject k.copy 24 (if x.mean then BitVec.ofNat 64 (groupScale n) else 0)
  s2.copyEnd k.copy 1 0 k.copy.bytes

/-- Where an instance is rejected on every member: the offset of the first field that this device or another gives badly
(20: R329). -/
def Collective.rejected (k : Collective) (x : CollWindow) : Option Nat :=
  let others := if k.members.all fun m => decide (m = Config.deviceNumber) then none
    else (Config.disagrees k.g k.window k.k).bind fun n => [8, 16, 24, 40, 48][n]?
  match x.bad k.copy, others with
  | some a, some b => some (min a b)
  | some a, none => some a
  | none, b => b
/-- An instance whose time has come forms its result. Its object waits, as a copy's does, until the other die has applied
every write that the engine's die has then (20: R329; 12: R227). -/
def State.moveCollective (s : State) (k : Collective) : State :=
  match s.windows[k.window]? with
  | none => s
  | some x =>
    if s.cyc < k.copy.start ∨ k.copy.ids.isSome ∨ (k.rejected x).isSome then s
    else
      let r := s.bump.collRows k x s.fresh 0 k.copy.rows
      let s1 := match r.2 with
        | some e => if e.cause = 0x51 then r.1.engineConsumes k.copy.wave (s.copyUnit k.copy 0 e.addr) else r.1
        | none => r.1
      let c := { k.copy with done := k.copy.rows, fault := r.2.map fun e => (e.cause, e.addr), ids := some (s1.linkFrom k.copy.core) }
      { s1 with collectives := s1.collectives.map fun y => if y = k then { k with copy := c } else y }

/-- The end of an instance that is due: rejected, or with its result in every view. -/
def State.collectiveDone (s : State) (k : Collective) : Option State :=
  (s.windows[k.window]?).bind fun x =>
    let s0 : State := { s with collectives := s.collectives.erase k }
    if s.cyc < k.copy.start then none
    else match k.rejected x with
      | some off => some (s0.copyEnd k.copy 3 0 off)
      | none =>
        if s.copyShown k.copy then
          match k.copy.fault with
          | some (cause, addr) => some (s0.copyEnd k.copy 2 cause addr)
          | none => some (s0.collEnd k x)
        else none
def execCollectiveInstance (group inst : Nat) (s : State) : Out :=
  match s.collectives.findSome? fun k => if k.g = group ∧ k.k = inst then s.collectiveDone k else none with
  | some t => .next t
  | none => .fault (.notEnabled "COLLECTIVE_INSTANCE")

/-- What the copy engines and collective instances do in a cycle. -/
def State.moveCopies (s : State) : State :=
  let s1 := s.copies.foldl (fun (st : State) e => st.moveCopy e.1 260) s
  s1.collectives.foldl State.moveCollective s1

/-! ### Membership (20: R328) -/

/-- Reports a membership step to every tenant that holds a window on the group. -/
def State.shrinkReports (s : State) (g old new dev : Nat) : State :=
  (((s.windows.filter fun x => decide (x.g = g ∧ 0 < x.len)).map (·.tenant)).eraseDups).foldl (fun (s : State) t =>
    s.ringRecord t true (s.tenantRecord t 0x4B 0 0
      [BitVec.ofNat 64 g, BitVec.ofNat 64 old, BitVec.ofNat 64 new, BitVec.ofNat 64 dev])) s

/-- A member is removed; instances in flight go on over the survivors. One whose result stands already keeps it, since every
destination is written once (20: R331). -/
def State.removeMember (s : State) (g dev : Nat) : State :=
  match s.groups.find? fun x => x.g = g with
  | none => s
  | some x =>
    let s1 : State := { s with
      groups := s.groups.map fun y => if y.g = g then { y with members := y.members.filter fun m => decide (m ≠ dev), epoch := y.epoch + 1 } else y
      collectives := s.collectives.map fun k => if k.g = g ∧ k.members.contains dev = true ∧ k.copy.ids.isNone = true
        then { k with members := k.members.filter fun m => decide (m ≠ dev), epoch := x.epoch + 1, shrunk := true } else k }
    s1.shrinkReports g x.members.length (x.members.length - 1) dev

def memberStep (s : State) (name : String) (g dev : Nat) : Out :=
  if s.groups.any fun x => decide (x.g = g) && x.members.contains dev then .next (s.removeMember g dev) else .fault (.notEnabled name)
def execMemberAnnounceRemoval (g dev : Nat) (s : State) : Out := memberStep s "MEMBER_ANNOUNCE_REMOVAL" g dev
def execMemberSilenceTimeout (g dev : Nat) (s : State) : Out := memberStep s "MEMBER_SILENCE_TIMEOUT" g dev

/-- A device rejoins: N and EPOCH rise; instances in flight keep their members. -/
def execReadmitDevice (g dev : Nat) (s : State) : Out :=
  if dev < 72 ∧ (s.groups.any fun x => decide (x.g = g) && !x.members.contains dev) = true then
    .next { s with groups := s.groups.map fun y =>
      if y.g = g then { y with members := insertNat dev y.members, epoch := y.epoch + 1 } else y }
  else .fault (.notEnabled "READMIT_DEVICE")

end Sys2Proof.Machine
end

