-- ==== Sys2Proof/Machine/Mappings.lean ====
section
/-! DEFINITION. Service requests (20: R334) and those that change a translation (21: R346, R353 to R360). -/

namespace Sys2Proof.Machine

/-! ### The service ring -/

/-- A word of a ring in a tenant's memory. -/
def State.ringWord (s : State) (r : Ring) (va : Nat) : Option Nat :=
  match s.devRead r.asid true va 8 with | .ok bs => some (leNat bs) | .error _ => none
/-- The address of the `h`-th slot of a ring. -/
def Ring.slotVa (r : Ring) (h : Nat) : Nat := r.base + 128 * (1 + h % (2 ^ r.log2n - 1))

/-- The next request of a tenant's service ring is `req`. A tenant with no ring in memory makes its requests
as they are given: log entry 40. -/
def State.ringHolds (s : State) (t : Nat) (req : SvcReq) : Bool :=
  let tn := s.tenant t
  let r := tn.svcRing
  if r.log2n = 0 then true
  else
    match s.ringWord r (r.base + 8), s.devRead r.asid true (r.slotVa tn.svcHead) 64 with
    | some tail, .ok bs => decide (tn.svcHead < tail) && (List.range 8).all fun k => decide (wordAt bs k = req.getD k 0)
    | _, _ => false

/-- Writes bytes of a ring, which the chart core holds mapped. -/
def State.ringPut (s : State) (r : Ring) (va : Nat) (bytes : List Byte) : State :=
  match s.devWrite r.asid true va bytes with | .ok s1 => s1 | .error _ => s

/-- A request has been served: RESULT and MORE, then STATUS and DONE, then HEAD. -/
def State.answer (s : State) (t op status : Nat) (result : Word) (more : List Word) : State :=
  let tn := s.tenant t
  let r := tn.svcRing
  let s1 := (s.setTenant t { tn with svcHead := tn.svcHead + 1 })
  let s2 := { s1 with answers := s1.answers ++ [⟨t, op, status, result, more⟩] }
  if r.log2n = 0 then s2
  else
    let va := r.slotVa tn.svcHead
    let s3 := s2.ringPut r (va + 72) ((result :: (more ++ List.replicate 6 0).take 6).flatMap fun w => natLe 8 w.toNat)
    (s3.ringPut r (va + 64) (natLe 8 (status + 2 ^ 63))).ringPut r r.base (natLe 8 (tn.svcHead + 1))

/-- What a service makes of a request: the state, STATUS, RESULT, MORE. -/
abbrev Served := State × Nat × Word × List Word
/-- A service step: the request with its OP at the head of the ring of a live tenant. -/
def serve (s : State) (name : String) (t op : Nat) (req : SvcReq) (f : Option Served) : Out :=
  if (s.tenant t).live && decide ((req.headD 0).toNat = op) && s.ringHolds t req then
    match f with
    | some (s1, status, result, more) => .next (s1.answer t op status result more)
    | none => .fault (.notEnabled name)
  else .fault (.notEnabled name)

/-! ### Mapping requests (21: R353) -/

structure MapReq where
  asid : Nat
  r : Bool
  w : Bool
  x : Bool
  u : Bool
  sw : Bool
  g : Bool
  res : Nat
  size : Nat
  force : Bool
  source : Nat
  va : Nat
  len : Nat
  a : Nat
  b : Nat
  /-- reserved bits are zero -/
  clean : Bool
deriving DecidableEq, Repr

def pageBytes : Nat → Nat | 0 => 2 ^ 12 | 1 => 2 ^ 16 | 2 => 2 ^ 21 | _ => 2 ^ 30
def MapReq.ofReq (q : SvcReq) : MapReq :=
  let w := q.getD 1 0
  { asid := field w 0 16, r := w.getLsbD 16, w := w.getLsbD 17, x := w.getLsbD 18, u := w.getLsbD 19, sw := w.getLsbD 20
    g := w.getLsbD 21, res := field w 22 2, size := pageBytes (field w 24 2), force := w.getLsbD 26, source := field w 28 4
    va := (q.getD 2 0).toNat, len := (q.getD 3 0).toNat, a := (q.getD 4 0).toNat, b := (q.getD 5 0).toNat
    clean := decide (field w 32 32 = 0) }

/-- The first addresses of the pages of a range. -/
def MapReq.starts (m : MapReq) : List Nat := (List.range (m.len / m.size)).map fun i => m.va + i * m.size
/-- The field rules: the tenant's ASID, whole pages, canonical addresses. -/
def State.mapRules (s : State) (t : Nat) (m : MapReq) : Bool :=
  m.clean && (s.tenant t).asids.contains m.asid && decide (m.va % m.size = 0 ∧ m.len % m.size = 0 ∧ 0 < m.len)
    && canonical m.va && canonical (m.va + m.len - 1) && decide (m.va / 2 ^ 57 = (m.va + m.len - 1) / 2 ^ 57)

/-- The ASIDs a request acts on: all of the tenant for a global mapping. -/
def State.mapAsids (s : State) (t : Nat) (m : MapReq) (g : Bool) : List Nat := if g then (s.tenant t).asids else [m.asid]

def Page.overlaps (p : Page) (va len : Nat) : Bool := decide (p.va < va + len ∧ va < p.va + p.size)
/-- The pages of a range in an ASID. -/
def State.rangePages (s : State) (asid va len : Nat) : List Page := s.pages.filter fun p => decide (p.asid = asid) && p.overlaps va len

/-- The range is covered by mapped pages of the named size and of one kind. -/
def State.rangeOk (s : State) (m : MapReq) : Bool :=
  let ps := s.rangePages m.asid m.va m.len
  (m.starts.all fun va => ps.any fun p => decide (p.va = va ∧ p.size = m.size)) && decide (ps.length = m.len / m.size) &&
    (ps.all fun p => decide (p.kind = ((ps.head?).map (·.kind)).getD 0))

/-! ### Frames (13: R230; 21: R353) -/

def framesOf (bytes : Nat) : Nat := bytes / 4096
/-- The stacks of a request: HBM stacks 0 to 11 and durable stacks 12 to 15, as first frame and frame count. -/
def stackFrames (k : Nat) : Nat × Nat :=
  if k < 12 then (k * 2 ^ 24, 15625000) else ((durBase + (k - 12) * 2 ^ 38) / 4096, 2 ^ 26)
/-- The HBM stacks of a die; 2 for either. -/
def dieStacks (b : Nat) : List Nat := if b = 0 then List.range 6 else if b = 1 then (List.range 6).map (6 + ·) else List.range 12

/-- Frames that are in use, retired, or assigned to a tenant in the durable tier. -/
def State.heldFrames (s : State) : List Nat :=
  s.framesUsed ++ s.retiredFrames ++ s.tenants.flatMap fun e => e.2.frames.map (durBase / 4096 + ·)
/-- No frame of a run is held. -/
def State.runFree (s : State) (f n : Nat) : Bool := !(s.heldFrames.any fun u => decide (f ≤ u ∧ u < f + n))
/-- A stack of a request is present: HBM stacks 0 to 11, durable stacks 12 to 15 (00: R2). -/
def State.stackPresent (s : State) (k : Nat) : Bool := !(if k < 12 then s.isAbsent 4 k else s.isAbsent 5 (k - 12))
/-- The lowest free run of `n` frames, aligned to itself, of a stack. -/
def State.runIn (s : State) (n k : Nat) : Option Nat :=
  let st := stackFrames k
  let ups := (st.1 :: s.heldFrames.map (· + 1)).map fun f => (f + n - 1) / n * n
  (ups.filter fun f => decide (st.1 ≤ f ∧ f + n ≤ st.1 + st.2) && s.runFree f n).foldl
    (fun b f => match b with | none => some f | some g => some (min f g)) none
def State.freeFrames (s : State) (n : Nat) (pool : List Nat) : Option Nat := (pool.filter s.stackPresent).findSome? fun k => s.runIn n k
def State.takeFrames (s : State) (f n : Nat) : State := { s with framesUsed := s.framesUsed ++ (List.range n).map (f + ·) }

/-- The frames that a page keeps: its own, those it was copied from, and those it is moved out of (21: R357, R360). -/
def Page.keeps (p : Page) : List Nat := p.pa :: (p.orig.toList ++ (p.mig.map (·.1)).toList)
/-- Gives back the frames of pages that no page keeps any more; durable and outside frames stay with their
owner. -/
def State.freePages (s : State) (ps : List Page) : State :=
  ps.foldl (fun (s : State) p => if p.kind ≠ 0 then s else p.keeps.foldl (fun (s : State) pa =>
    if isDurable pa || s.pages.any fun q => decide (q.kind = 0) && q.keeps.contains pa then s else s.dropFrames pa p.size) s) s

/-! ### What a change drops and wakes (21: R354, R355) -/

/-- Drops every cached line of a range. -/
def State.dropLines (s : State) (asids : List Nat) (t va len : Nat) : State :=
  { s with lines := s.lines.filter fun l =>
      !(decide (va < 64 * l.va + 64 ∧ 64 * l.va < va + len) && (asids.contains l.asid || decide (l.asid = 0 ∧ l.tenant = t))) }

/-- The pages of the cell and the skip byte of an element of a wave's sweep (22: R361). -/
def State.elemPages (s : State) (wi i : Nat) : List Nat :=
  match (s.wave? wi).bind fun w => w.sweep.map w.tensor with
  | none => []
  | some t => [t.cellVa i, t.skipVa i].filterMap fun va =>
      match s.walk1 t.asid t.slevel va .load with | .ok a => some (a / 4096 * 4096) | .error _ => none
/-- An access confirmed for physical bytes has still to perform. -/
def State.confirmedIn (s : State) (pa n : Nat) : Bool :=
  (s.reqs.any fun r => match r.kind with
    | .cell i _ _ => (s.elemPages r.wave i).any fun a => rangesOverlap a 4096 pa n
    | .decrement i => (s.elemPages r.wave i).any fun a => rangesOverlap a 4096 pa n
    | .store a bs _ => rangesOverlap a bs.length pa n
    | .atomic _ a k _ _ _ _ _ => rangesOverlap a k pa n
    | .callb a _ _ _ => rangesOverlap a 8 pa n
    | .mailbox _ steps => steps.any fun p => p.pas.any fun a => rangesOverlap (a / 4096 * 4096) 4096 pa n
    | _ => false) ||
  (s.coreWrites.any fun w => rangesOverlap w.pa w.bytes.length pa n) ||
  (s.linkWrites.any fun w => rangesOverlap w.pa w.bytes.length pa n) ||
  (s.atomics.any fun a => rangesOverlap a.pa a.n pa n) ||
  (s.durQueue.any fun w => !w.bytes.isEmpty && rangesOverlap w.pa w.bytes.length pa n) ||
  s.waves.any fun w => w.lanes.any fun l => match l.status with
    | .inside (.mdrain _ _ (some (_, pas)) _) => pas.any fun a => rangesOverlap (a / 4096 * 4096) 4096 pa n
    | _ => false
/-- Step 3 of R354 has still to be waited for. -/
def State.mustWait (s : State) (ps : List Page) : Bool := ps.any fun p => s.confirmedIn p.pa p.size

/-- The translation now grants a parked lane's own access. -/
def State.grantsLane (s : State) (w : Wave) (p : Park) : Bool :=
  match s.walk w.asid w.level p.va p.len p.acc with | .ok _ => true | .error _ => false
/-- A parked lane becomes ready; one that its engine was loading waits inside SWEEP again. -/
def Wave.unpark (w : Wave) (l : Lane) : Lane :=
  match l.status, w.sweep with
  | .parked p, some k => if p.scan then l.backToSweep k else { l with status := .ready }
  | .parked _, none => { l with status := .ready }
  | _, _ => l
def Wave.retrySweep (w : Wave) : Wave := { w with sweep := w.sweep.map fun k => { k with faulted := false } }

/-- DONE: the parked lanes of a tenant whose access is granted now go on (21: R355; 24: R379). -/
def State.wakeParked (s : State) (t : Nat) : State :=
  { s with waves := s.waves.map fun w =>
      if w.tenant ≠ t then w
      else
        { w with lanes := w.lanes.map fun (l : Lane) =>
            match l.status with
            | Status.parked p => if s.grantsLane w p then w.unpark l else l
            | _ => l }.retrySweep }

/-! ### MAP -/

/-- A page of a MAP request at an address and a frame. -/
def MapReq.page (m : MapReq) (asid va pa kind dev : Nat) : Page :=
  { asid := asid, va := va, size := m.size, r := m.r, w := m.w, x := m.x, u := m.u, g := m.g, sw := m.sw, res := m.res
    kind := kind, pa := pa, dev := dev, disc := none, mig := none, orig := none }

/-- Reclaims the frames of the page of a tenant discarded longest ago (21: R359). -/
def State.reclaim (s : State) (t : Nat) : Option State :=
  let ps := s.pages.filter fun p => p.disc.isSome && (s.tenant t).asids.contains p.asid
  match ps.foldl (fun (b : Option Page) p => match b with
      | none => some p
      | some q => if p.disc.getD 0 < q.disc.getD 0 then some p else b) none with
  | none => none
  | some p =>
    let gone := s.pages.filter fun q => q.disc.isSome && decide (q.pa = p.pa)
    some (({ s with pages := s.pages.filter fun q => !gone.contains q } : State).freePages gone)

/-- The frames of one fresh page, with fewer than `fuel` reclaims, which only a MAP makes (21: R359). -/
def State.freshFrame (s : State) (t n : Nat) (pool : List Nat) : Nat → Option (State × Nat)
  | 0 => none
  | fuel + 1 =>
    match s.freeFrames n pool with
    | some f => some ((s.takeFrames f n).zeroFrame (4096 * f) (4096 * n), f)
    | none => if fuel = 0 then none else match s.reclaim t with
      | some s1 => s1.freshFrame t n pool fuel
      | none => none
def State.freshFrames (s : State) (t n : Nat) (pool : List Nat) : List Nat → Option (State × List (Nat × Nat))
  | [] => some (s, [])
  | va :: rest =>
    match s.freshFrame t n pool (s.pages.length + 1) with
    | none => none
    | some (s1, f) => (s1.freshFrames t n pool rest).map fun r => (r.1, (va, 4096 * f) :: r.2)

/-- A run of a tenant's durable frames, for one page: its physical address. -/
def State.durRun (s : State) (t index n : Nat) : Option Nat :=
  let fs := (s.tenant t).frames
  match fs[index]? with
  | none => none
  | some f => if f % n = 0 ∧ ((List.range n).all fun i => decide (fs[index + i]? = some (f + i))) = true
    then some (durBase + 4096 * f) else none

/-- The physical pages of a MAP: address, frame, kind, device; the error is its STATUS. -/
def State.mapSource (s : State) (t : Nat) (m : MapReq) : Except Nat (State × List (Nat × Nat × Nat × Nat)) :=
  let n := framesOf m.size
  match m.source with
  | 0 =>
    if 2 < m.b then .error 4
    else match s.freshFrames t n (dieStacks m.b) m.starts with
      | none => .error 3
      | some (s1, l) => .ok (s1, l.map fun p => (p.1, p.2, 0, 0))
  | 1 =>
    let l := m.starts.mapIdx fun i va => (s.durRun t (m.a + i * n) n).map fun pa => (va, pa, 0, 0)
    if l.all Option.isSome then .ok (s, l.filterMap id) else .error 4
  | 2 => if m.a % m.size = 0 then .ok (s, m.starts.mapIdx fun i va => (va, hostBase + m.a + i * m.size, 1, 0)) else .error 4
  | 3 => if m.a < 72 ∧ m.b % m.size = 0 then .ok (s, m.starts.mapIdx fun i va => (va, m.b + i * m.size, 2, m.a)) else .error 4
  | 4 =>
    let l := m.starts.mapIdx fun i va =>
      (s.pages.find? fun p => decide (p.asid = m.a ∧ p.va = m.b + i * m.size ∧ p.size = m.size)).map fun p => (va, p.pa, p.kind, p.dev)
    if (s.tenant t).asids.contains m.a && l.all Option.isSome then .ok (s, l.filterMap id) else .error 4
  | _ => .error 4

/-- A frame would be writable in more than one ASID, or writable in one and mapped in another, without a global mapping
(21: R346). -/
def State.badAlias (s : State) (m : MapReq) (l : List (Nat × Nat × Nat × Nat)) : Bool :=
  !m.g && l.any fun p => s.pages.any fun q =>
    decide (q.kind = p.2.2.1 ∧ q.kind ≠ 2 ∧ q.pa = p.2.1 ∧ q.asid ≠ m.asid) && (m.w || m.sw || (!q.g && (q.w || q.sw)))

def State.mapRun (s : State) (t : Nat) (m : MapReq) : Served :=
  let asids := s.mapAsids t m m.g
  if !s.mapRules t m then (s, 4, 0, [])
  else if !m.g && s.pages.any fun p => p.g && (s.tenant t).asids.contains p.asid && p.overlaps m.va m.len
    then (s, if (s.rangePages m.asid m.va m.len).isEmpty then 4 else 2, 0, [])
  else if asids.any fun a => !(s.rangePages a m.va m.len).isEmpty then (s, 2, 0, [])
  else
    match s.mapSource t m with
    | .error e => (s, e, 0, [])
    | .ok (s1, l) =>
      if s1.badAlias m l then (s, 4, 0, [])
      else
        let new := asids.flatMap fun a => l.map fun p => m.page a p.1 p.2.1 p.2.2.1 p.2.2.2
        (({ s1 with pages := s1.pages ++ new } : State).wakeParked t, 0, 0, [])
def execMap (t : Nat) (req : SvcReq) (s : State) : Out := serve s "MAP" t 16 req (some (s.mapRun t (MapReq.ofReq req)))

/-! ### Changes of mapped ranges -/

/-- Whether the pages of a range are global. -/
def State.rangeGlobal (s : State) (m : MapReq) : Bool := (s.rangePages m.asid m.va m.len).any (·.g)
/-- A change of the pages of a range in every ASID it concerns: refused with STATUS 4, or waiting for confirmed
accesses, or made. -/
def State.change (s : State) (t : Nat) (m : MapReq) (refuse : List Page → Bool) (k : List Nat → List Page → Served) : Option Served :=
  if !s.mapRules t m || !s.rangeOk m || refuse (s.rangePages m.asid m.va m.len) then some (s, 4, 0, [])
  else
    let asids := s.mapAsids t m (s.rangeGlobal m)
    let ps := asids.flatMap fun a => s.rangePages a m.va m.len
    if s.mustWait ps then none else some (k asids ps)
/-- Applies a function to the pages of a range. -/
def State.modPages (s : State) (asids : List Nat) (m : MapReq) (f : Page → Page) : State :=
  { s with pages := s.pages.map fun p => if asids.contains p.asid && p.overlaps m.va m.len then f p else p }

def State.unmapRun (s : State) (t : Nat) (m : MapReq) : Option Served :=
  s.change t m (fun _ => false) fun asids ps =>
    let s1 : State := { s with pages := s.pages.filter fun p => !ps.contains p }
    ((s1.freePages ps).dropLines asids t m.va m.len, 0, 0, [])
def execUnmap (t : Nat) (req : SvcReq) (s : State) : Out := serve s "UNMAP" t 17 req (s.unmapRun t (MapReq.ofReq req))

/-! #### Migration (21: R357, R358) -/

/-- Bytes of a frame appear at another frame. -/
def Memory.moveRange (m : Memory) (old new n : Nat) : Memory :=
  (m.filter fun e => decide (old ≤ e.1 ∧ e.1 < old + n)).foldl (fun (x : Memory) e => Memory.set x (e.1 - old + new) e.2) m
/-- A fresh frame holds what another holds. -/
def State.copyFrame (s : State) (old new n : Nat) : State :=
  { s with view0 := Memory.moveRange s.view0 old new n, view1 := Memory.moveRange s.view1 old new n }
/-- What the old home holds is what every access of the new home finds; of a durable page the persisted values move too, and
those that its controller holds for the media (21: R357). -/
def State.moveFrame (s : State) (old new n : Nat) : State :=
  let s1 := s.copyFrame old new n
  if isDurable old then
    { s1 with
      media := Memory.moveRange (Memory.zeroRange s.media new n) old new n
      mediaOld := Memory.moveRange (Memory.zeroRange s.mediaOld new n) old new n
      accepted := (s.accepted.filter fun e => e.bytes.isEmpty || !rangesOverlap e.pa e.bytes.length new n).map fun e =>
        if e.bytes.isEmpty = false ∧ old ≤ e.pa ∧ e.pa < old + n then { e with pa := e.pa - old + new } else e }
  else s1

/-- The stacks a migration may go to, and whether they hold the kind of memory of the pages. -/
def migrateStacks (a : Nat) (durable : Bool) : Option (List Nat) :=
  if a < 2 then some (if durable then [12 + 2 * a, 13 + 2 * a] else dieStacks a)
  else if a - 2 < 12 then (if durable then none else some [a - 2])
  else if a - 2 < 16 then (if durable then some [a - 2] else none)
  else none

/-- Durable frames take the place of others among a tenant's (13: R230; log entry 63). -/
def Tenant.moveFrames (x : Tenant) (old new n : Nat) : Tenant :=
  { x with frames := x.frames.map fun f => if old ≤ f ∧ f < old + n then f - old + new else f }
/-- One page moves to new frames. -/
def State.migratePage (s : State) (t : Nat) (pool : List Nat) (p : Page) : Option State :=
  let n := framesOf p.size
  (s.freshFrame t n pool 1).map fun r =>
    let pa := 4096 * r.2
    let s0 := r.1.moveFrame p.pa pa p.size
    let s1 := if isDurable p.pa then
        (s0.dropFrames pa p.size).modTenant t fun x => x.moveFrames ((p.pa - durBase) / 4096) ((pa - durBase) / 4096) n
      else s0
    { s1 with pages := s1.pages.map fun q =>
        if q.kind = 0 ∧ q.pa = p.pa then { q with pa := pa, mig := some (p.pa, List.range (p.size / 64)) } else q }
def State.migratePages (s : State) (t : Nat) (pool : List Nat) : List Page → Option State
  | [] => some s
  | p :: rest =>
    match s.migratePage t pool p with
    | none => none
    | some s1 => s1.migratePages t pool rest

/-- A line of the range is held pinned in L2. -/
def State.pinnedIn (s : State) (asids : List Nat) (t : Nat) (m : MapReq) : Bool :=
  s.lines.any fun l => l.pinned && decide (m.va < 64 * l.va + 64 ∧ 64 * l.va < m.va + m.len) &&
    (asids.contains l.asid || decide (l.asid = 0 ∧ l.tenant = t))

/-- A migration is carried out; none while confirmed accesses have still to perform. -/
def State.migrateNow (s : State) (t : Nat) (m : MapReq) : Option Served :=
  let ps := s.rangePages m.asid m.va m.len
  let durable := ps.any fun p => isDurable p.pa
  s.change t m (fun ps => (ps.any fun p => decide (p.kind ≠ 0) || p.mig.isSome || (isDurable p.pa != durable))
      || (migrateStacks m.a durable).isNone) fun asids _ =>
    match migrateStacks m.a durable with
    | none => (s, 4, 0, [])
    | some pool =>
      match s.migratePages t pool ps with
      | none => (s, 3, 0, [])
      | some s1 => ((s1.dropLines asids t m.va m.len).wakeParked t, 0, 0, [])
def State.migrateRun (s : State) (t : Nat) (req : SvcReq) : Option Served :=
  let m := MapReq.ofReq req
  if s.mapRules t m && s.rangeOk m && !m.force && s.pinnedIn (s.mapAsids t m (s.rangeGlobal m)) t m then
    some ({ s with deferred := s.deferred ++ [(t, req)] }, 5, 0, [])
  else s.migrateNow t m
def execMigrate (t : Nat) (req : SvcReq) (s : State) : Out := serve s "MIGRATE" t 19 req (s.migrateRun t req)

def execMigrationPull (asid va : Nat) (s : State) : Out :=
  match (s.page? asid va).bind fun p => s.pullLine p ((va - p.va) / 64) with
  | some t => .next t
  | none => .fault (.notEnabled "MIGRATION_PULL")

/-! #### PROTECT, DISCARD -/

/-- The permissions of a PROTECT. -/
def MapReq.protect (m : MapReq) (p : Page) : Page := { p with r := m.r, w := m.w, x := m.x, u := m.u, sw := m.sw, res := m.res }
/-- A change takes a permission away. -/
def Page.loses (p q : Page) : Bool := (p.r && !q.r) || (p.w && !q.w) || (p.x && !q.x) || (p.u && !q.u) || (p.sw && !q.sw)

/-- Migrations of a tenant that no pinned line holds any more are carried out; none while one must wait. -/
def State.runDeferred (s : State) (t : Nat) : List (Nat × SvcReq) → Option State
  | [] => some s
  | d :: rest =>
    let m := MapReq.ofReq d.2
    if d.1 ≠ t ∨ s.pinnedIn (s.mapAsids t m (s.rangeGlobal m)) t m = true then s.runDeferred t rest
    else
      match s.migrateNow t m with
      | none => none
      | some (s1, _, _, _) => ({ s1 with deferred := s1.deferred.erase d } : State).runDeferred t rest

def State.protectRun (s : State) (t : Nat) (m : MapReq) : Option Served :=
  let bad := fun (ps : List Page) => ps.any fun p => (p.g != m.g) || (!m.g && (m.w || m.sw) &&
    s.pages.any fun q => decide (q.kind = p.kind ∧ q.kind ≠ 2 ∧ q.pa = p.pa ∧ q.asid ≠ m.asid))
  (s.change t m bad fun asids ps =>
    let s1 := s.modPages asids m m.protect
    let s2 := if ps.any fun p => p.loses (m.protect p) || decide (p.res ≠ m.res) then s1.dropLines asids t m.va m.len else s1
    (s2, 0, 0, [])).bind fun r =>
      if r.2.1 ≠ 0 then some r else (r.1.runDeferred t r.1.deferred).map fun s2 => (s2.wakeParked t, 0, 0, [])
def execProtect (t : Nat) (req : SvcReq) (s : State) : Out := serve s "PROTECT" t 18 req (s.protectRun t (MapReq.ofReq req))

def State.discardRun (s : State) (t : Nat) (m : MapReq) : Option Served :=
  s.change t m (fun ps => ps.any fun p => decide (p.kind ≠ 0) || isDurable p.pa) fun asids _ =>
    ((s.bump.modPages asids m fun p => { p with disc := some s.fresh }).dropLines asids t m.va m.len, 0, 0, [])
def execDiscard (t : Nat) (req : SvcReq) (s : State) : Out := serve s "DISCARD" t 20 req (s.discardRun t (MapReq.ofReq req))

/-! #### PRIVATE and SHARE (21: R360) -/

/-- The private copies of pages, one after another. -/
def State.copyPages (s : State) (t : Nat) : List Page → Option (State × List (Nat × Nat))
  | [] => some (s, [])
  | p :: rest =>
    match s.freshFrame t (framesOf p.size) (dieStacks 2) 1 with
    | none => none
    | some (s1, f) => ((s1.copyFrame p.pa (4096 * f) p.size).copyPages t rest).map fun r => (r.1, (p.va, 4096 * f) :: r.2)

def State.privateRun (s : State) (t : Nat) (m : MapReq) : Option Served :=
  let own := s.rangePages m.asid m.va m.len
  s.change t m (fun ps => ps.any fun p => !p.g || p.w || p.sw || decide (p.kind ≠ 0)) fun asids _ =>
    match s.copyPages t own with
    | none => (s, 3, 0, [])
    | some (s1, l) =>
      let s2 := s1.modPages asids m fun p =>
        if p.asid = m.asid then { p with g := false, sw := true, orig := some p.pa, pa := ((l.find? fun e => e.1 = p.va).map (·.2)).getD p.pa }
        else { p with g := false }
      (s2.dropLines asids t m.va m.len, 0, 0, [])
def execUnshare (t : Nat) (req : SvcReq) (s : State) : Out := serve s "PRIVATE" t 21 req (s.privateRun t (MapReq.ofReq req))

def State.shareRun (s : State) (t : Nat) (m : MapReq) : Option Served :=
  let own := s.rangePages m.asid m.va m.len
  s.change t m (fun ps => ps.any fun p => p.orig.isNone) fun _ _ =>
    let asids := (s.tenant t).asids
    let back : List Page := own.map fun p => { p with g := true, sw := false, orig := none, pa := p.orig.getD p.pa }
    let others := s.pages.filter fun p => !(asids.contains p.asid && p.overlaps m.va m.len)
    let s1 : State := { s with pages := others ++ asids.flatMap fun a => back.map fun p => { p with asid := a } }
    (((s1.freePages own).dropLines asids t m.va m.len).wakeParked t, 0, 0, [])
def execShare (t : Nat) (req : SvcReq) (s : State) : Out := serve s "SHARE" t 22 req (s.shareRun t (MapReq.ofReq req))

/-! #### RESUME, INVAL, PARTITION -/

def State.resumeRun (s : State) (t : Nat) (req : SvcReq) : Served :=
  let id := req.getD 4 0
  let b := req.getD 5 0
  let mask : LaneMask := (req.getD 3 0).truncate 32
  match s.launchIx t id with
  | none => (s, 1, 0, [])
  | some li =>
    if field b 37 27 ≠ 0 ∨ (MapReq.ofReq req).clean = false then (s, 4, 0, [])
    else
      ({ s with waves := s.waves.map fun w =>
          if w.launch = li ∧ w.number = field b 32 5 ∧ w.retired = false ∧ ((s.blocks[w.block]?).map (·.index)) = some (field b 0 32) then
            let w1 := w.modLanes mask w.unpark
            if (match w.sweep with | some k => decide (k.lanes &&& mask ≠ 0) | none => false) then w1.retrySweep else w1
          else w }, 0, 0, [])
def execResume (t : Nat) (req : SvcReq) (s : State) : Out := serve s "RESUME" t 23 req (some (s.resumeRun t req))

def State.invalRun (s : State) (t : Nat) (m : MapReq) : Option Served :=
  s.change t m (fun _ => false) fun asids _ => (s.dropLines asids t m.va m.len, 0, 0, [])
def execInval (t : Nat) (req : SvcReq) (s : State) : Out := serve s "INVAL" t 24 req (s.invalRun t (MapReq.ofReq req))

def State.partitionRun (s : State) (t : Nat) (m : MapReq) : Served :=
  if m.clean && (s.tenant t).asids.contains m.asid && (s.tenant t).partitions.contains m.a then
    (s.modTenant t fun x => { x with partitionOf := SMap.set 0 x.partitionOf m.asid m.a }, 0, 0, [])
  else (s, 4, 0, [])
def execPartition (t : Nat) (req : SvcReq) (s : State) : Out := serve s "PARTITION" t 25 req (some (s.partitionRun t (MapReq.ofReq req)))

end Sys2Proof.Machine
end

