-- ==== Sys2Proof/Machine/Switching.lean ====
section
/-! DEFINITION. Stopping a wave and switching it out and in (08: R176 to R182;
16: R267 to R270), eviction to the save area (08: R180), and the grants of the pool queue (08: R166). -/

namespace Sys2Proof.Machine

/-! ### Stopping (08: R176, R177) -/

/-- An instruction a wave may be stopped inside. -/
def Inside.stops : Inside → Bool
  | .bar _ | .gbar _ | .gred _ _ | .nbwait _ | .mwait _ | .sweep | .psend _ _ | .precv _ => true
  | .commit | .proceed _ | .walk _ _ _ _ | .outcome _ | .endElement _ _ _ | .mdrain _ _ _ _ => false
/-- The state of a lane lets its wave be stopped: a held lane's does, and one of a running handler does not (17: R284). -/
def State.laneStops (s : State) (w : Wave) (l : Lane) : Bool :=
  l.held || l.isExited || (!w.inHandler &&
  match l.status with
  | .exited | .parked _ => true
  | .inside k => k.stops
  | .blocked _ | .wsync _ => s.safeAt w l.pc
  | .ready => l.stopped
  | .loading => false)
/-- The counts of a lane but for that of the instruction inside which it waits are zero. -/
def Wave.laneQuiet (w : Wave) (l : Nat) : Bool :=
  w.countsDone l (match (w.lane l).owed, (w.lane l).insn with | some _, some i => flagOf i | _, _ => none)
/-- An operation of the array still targets the wave (16: R267). -/
def State.targeted (s : State) (wi : Nat) (w : Wave) : Bool :=
  match s.blocks[w.block]? with | some b => b.seqOps.any fun o => decide (o.wave = some wi) | none => false
/-- The wave is stopped. -/
def State.isStopped (s : State) (wi : Nat) (w : Wave) : Bool :=
  !w.inHandler && !w.control && !s.targeted wi w &&
    (List.range 32).all fun l => s.laneStops w (w.lane l) && w.laneQuiet l

/-- The pre-emption request under way to a core arrives at the waves of its launch. -/
def execPreemptRequestArrival (core : Nat) (s : State) : Out :=
  match s.preempts.find? fun p => decide (p.1 = core ∧ p.2.1 ≤ s.cyc) with
  | none => .fault (.notEnabled "PREEMPT_REQUEST_ARRIVAL")
  | some p => .next { s with
      preempts := s.preempts.erase p
      waves := s.waves.map fun w =>
        if w.core = core ∧ w.launch = p.2.2 ∧ w.resident = true ∧ w.control = false then
          { w with preempt := some s.cyc, noSafeReported := false } else w }

/-- NO_SAFE_POINT of a wave that has not stopped: its lanes that have not, and every lane's PC. -/
def execNoSafePoint (wi : Nat) (s : State) : Out :=
  match s.wave? wi with
  | none => .fault (.notEnabled "NO_SAFE_POINT")
  | some w =>
    match w.preempt with
    | none => .fault (.notEnabled "NO_SAFE_POINT")
    | some c =>
      if w.resident && !w.noSafeReported && !s.isStopped wi w && decide (c + 20000 ≤ s.cyc) then
        let run := w.lanesWhere fun l => !s.laneStops w l
        let app := (List.range 32).map fun l => BitVec.ofNat 64 ((w.lane l).pc / 4 * 4 + (if run.getLsbD l then 1 else 0))
        let r := s.record w 0x2A true (w.pcOf run) run [BitVec.ofNat 64 run.toNat] app
        .next ((s.notice w.tenant false r).modWave wi fun w => { w with noSafeReported := true })
      else .fault (.notEnabled "NO_SAFE_POINT")

/-! ### Switching out (08: R178; 16: R268, R270) -/

/-- The stream no longer keeps wave 0 from leaving: MATRIX_FREEZE has run, or nothing can run it. -/
def State.streamSaved (b : Block) (w : Wave) : Bool :=
  b.frozenTrapped || decide (b.seq = .none ∨ b.seq = .stopped) || w.lanes.all Lane.isExited

/-- A sweep whose count pass, of which SWEEPSAVE holds nothing, is made anew when its wave comes back (24: R374, R380). -/
def Sweep.uncounted (k : Sweep) : Sweep := { k with counting := none, nDone := 0, nAsleep := 0, nInvalid := 0, faulted := false }
/-- A wave as a switch-out leaves it (08: R178, R200). -/
def Wave.switchedTo (w : Wave) (cyc : Nat) : Wave :=
  { w with resident := false, switchedOut := some cyc, preempt := none, ocache := [], effClass := w.baseClass, age := 0, fair := none
           yielding := none, idle := 0, owner := none, granted := 0, grantDue := 0, lastIssue := none, slotPassed := false, passedOver := 0
           sweep := w.sweep.map Sweep.uncounted
           lanes := w.lanes.map fun l => { l with starve := 0, passed := 0, told := false, lastIssue := none } }

/-- A block whose waves have all left its core is switched out; with RELTILES its tile granules go back. -/
def State.blockOut (s : State) (bi : Nat) : State :=
  match s.blocks[bi]? with
  | none => s
  | some b =>
    if b.state = .resident ∧ (b.waves.all fun i => match s.wave? i with | some w => !w.resident | none => true) = true then
      let rel := (SMap.get 0 b.seqSave 1).getLsbD 2 && b.frozenTrapped
      let s1 := s.modBlock bi fun b =>
        let b := { b with state := .switchedOut, outSince := s.cyc, seqSave := if b.frozenTrapped then b.seqSave else [] }
        if rel then { b with relTiles := true, gTiles := 0, slots := [] } else b
      match s1.launches[b.launch]? with
      | some L => if !L.stayOut && !L.displaced then s1.askRestore b.launch else s1
      | none => s1
    else s

def State.switchOut (s : State) (wi : Nat) : State :=
  match s.wave? wi with
  | none => s
  | some w =>
    let s1 := ({ s with headersUsed := w.core :: s.headersUsed }.setWave wi (w.switchedTo s.cyc)).modBlock w.block fun b =>
      { b with gWaves := b.gWaves - w.granted }
    ((s1.withdraw fun r => decide (r.rank = 1 ∧ r.who = wi)).modWave wi Wave.wakeGrow).blockOut w.block

/-- A stopped wave is switched out once its dirty entries are spilled, in a cycle in which its core writes no other header
(08: R178, R182). -/
def execSwitchOut (wi : Nat) (s : State) : Out :=
  match s.wave? wi with
  | none => .fault (.notEnabled "SWITCH_OUT")
  | some w =>
    match s.blocks[w.block]? with
    | none => .fault (.notEnabled "SWITCH_OUT")
    | some b =>
      if w.resident && w.preempt.isSome && s.isStopped wi w && (decide (w.number ≠ 0) || State.streamSaved b w) &&
          w.ocache.all (fun e => decide (e.dirty = 0)) && !s.headersUsed.contains w.core then .next (s.switchOut wi)
      else .fault (.notEnabled "SWITCH_OUT")

/-- The lanes of wave 0 stand ready for a freeze or thaw handler. -/
def Lane.forHandler (l : Lane) : Lane :=
  if l.isExited then l else { l with status := .ready, insn := none, owed := none, stopped := false, held := false }
/-- Wave 0 traps MATRIX_FREEZE or MATRIX_THAW at S level, on its own lanes, which return to their stopped state
after it (16: R268, R270). -/
def State.streamTrap (s : State) (bi cause : Nat) : State :=
  match s.blocks[bi]? with
  | none => s
  | some b =>
    match s.wave? (b.waves.headD 0) with
    | none => s
    | some w =>
      let live := w.lanesWhere fun l => !l.isExited
      let w1 := { w with savedLanes := w.lanes, lanes := w.lanes.map Lane.forHandler }
      let s1 := (s.journalise (b.waves.headD 0) w 0).setWave (b.waves.headD 0) w1
      s1.takeTrapAt (b.waves.headD 0) w1 ⟨live, cause, false, []⟩ (w1.pcOf live)

def execMatrixFreeze (bi : Nat) (s : State) : Out :=
  match s.blocks[bi]? with
  | none => .fault (.notEnabled "MATRIX_FREEZE")
  | some b =>
    match s.wave? (b.waves.headD 0) with
    | none => .fault (.notEnabled "MATRIX_FREEZE")
    | some w =>
      if decide (b.state = .resident ∧ (b.seq = .frozen ∨ b.seq = .ended) ∧ b.seqOps = []) && !b.frozenTrapped && w.resident && w.preempt.isSome &&
          s.isStopped (b.waves.headD 0) w && !w.lanes.all Lane.isExited then
        .next ((s.streamTrap bi 0x43).modBlock bi fun b => { b with frozenTrapped := true, seqSave := [] })
      else .fault (.notEnabled "MATRIX_FREEZE")

/-! ### Images of granules (08: R168, R169, R180) -/

/-- The value of bit fields of equal width, lowest first, in bytes. -/
def fieldBytes (width n : Nat) (xs : List Nat) : List Byte := natLe n (packNat width xs)
def Tag.nibble (t : Tag) : Nat := t.code
def Tag.ofNat (n : Nat) : Tag :=
  [Tag.raw, .s64, .u64, .s32, .u32, .s16, .u16, .s8, .u8, .i4, .f64, .f32, .f16, .bf16, .k, .kexp].getD n .raw
/-- Frame granule `g` of a wave with its sideband. -/
def Wave.frameImage (w : Wave) (g : Nat) : List Byte :=
  let cells := fun (j : Nat) => (List.range 32).map fun l => w.vcell (16 * g + j) l
  let rows := (List.range 16).map cells
  let bits := fun (f : RegCell → Bool) => rows.flatMap fun r => fieldBytes 1 4 (r.map fun c => if f c then 1 else 0)
  (rows.flatMap fun r => r.flatMap fun c => natLe 8 c.val.toNat) ++
  (rows.flatMap fun r => fieldBytes 4 16 (r.map fun c => Tag.nibble c.tag)) ++ bits (·.live) ++ bits (·.cap) ++ List.replicate 128 0

/-- LSTATE of a lane (08: R169; 10: R191). -/
def Lane.lstate (l : Lane) : Nat :=
  match l.status with
  | .ready => if l.stopped then 4 else 0
  | .loading => 0
  | .parked _ => 1
  | .wsync _ => 2
  | .inside _ => 3
  | .blocked _ => 4
  | .exited => 5
/-- SWEEPSAVE (24: R380). -/
def Wave.sweepImage (w : Wave) : List Byte :=
  match w.sweep with
  | none => List.replicate 192 0
  | some k =>
    let held := (List.range 32).flatMap fun l => match (w.lane l).elem with
      | some i => natLe 4 (i % 2 ^ 24 + 2 ^ 31)
      | none => natLe 4 0
    let woken := w.lanesWhere fun l => l.elem.isSome && l.woken
    natLe 8 1 ++ natLe 8 (k.p % 2 ^ 25 + k.n % 2 ^ 25 * 2 ^ 32) ++ natLe 8 k.word0.toNat ++ natLe 8 k.word1.toNat ++ natLe 8 k.entry
      ++ natLe 4 k.lanes.toNat ++ natLe 4 woken.toNat ++ natLe 8 (k.disp % 2 ^ 32) ++ natLe 8 0 ++ held
/-- The header of a wave; its sideband holds CREDIT and AHEAD of each barrier and lane (16: R265). -/
def Wave.headerImage (w : Wave) (b : Block) : List Byte :=
  let ws := (List.range 256).map w.wcell
  let lanes := (List.range 32).map w.lane
  let body := (ws.flatMap fun c => natLe 8 c.val.toNat) ++ fieldBytes 4 128 (ws.map fun c => Tag.nibble c.tag)
    ++ fieldBytes 1 32 (ws.map fun c => if c.live then 1 else 0) ++ fieldBytes 1 32 (ws.map fun c => if c.cap then 1 else 0)
    ++ (lanes.flatMap fun l => natLe 8 l.pc) ++ ((List.range 8).flatMap fun k => fieldBytes 1 4 (lanes.map fun l => if l.pred k then 1 else 0))
    ++ (lanes.flatMap fun l => natLe 1 l.fstat.toNat) ++ (lanes.flatMap fun l => natLe 1 l.lstate)
    ++ (lanes.flatMap fun l => natLe 4 (match l.status with | .wsync m => m.toNat | _ => 0))
    ++ natLe 8 (w.frameSize + w.maxframe * 2 ^ 16 + (if w.mirrored then 2 ^ 32 else 0)) ++ natLe 8 0
    ++ (lanes.flatMap fun l => natLe 9 (packNat 6 ((List.range 12).map l.count))) ++ List.replicate 48 0
    ++ w.sweepImage ++ List.replicate 320 0
    ++ (if w.number = 0 then (List.range 64).flatMap fun k => natLe 8 (SMap.get 0 b.seqSave k).toNat else List.replicate 512 0)
  body ++ (List.range 16).flatMap fun j => lanes.flatMap fun l =>
    natLe 1 (SMap.get 0 l.credit j % 64 + SMap.get 0 l.ahead j % 4 * 64)
/-- The images of a tile granule: two slots, then their sidebands. -/
def Block.tileImage (b : Block) (g : Nat) : List Byte :=
  let part := fun (k lo n : Nat) => (List.range n).map fun i => SMap.get 0 (b.slot k).bytes (lo + i)
  let side := fun (k : Nat) => part k 2048 256 |>.map fun x => x
  part (2 * g) 0 2048 ++ part (2 * g + 1) 0 2048 ++ side (2 * g) ++ side (2 * g + 1)
/-- Every granule of a block, but for mirrors: headers and frames of its waves, scratchpad, tiles, commit
buffer. -/
def State.blockImages (s : State) (b : Block) : List (List Byte) :=
  let n := s.fresh
  (b.waves.flatMap fun i => match s.wave? i with
    | some w => if w.retired then [] else w.headerImage b :: (List.range (w.frameSize / 16)).map w.frameImage
    | none => []) ++
  ((List.range b.gScratch).map fun g => (List.range 4096).map (fun i => SMap.get 0 b.scratch (4096 * g + i))
    ++ (List.range 512).map fun k => Config.imageByte n k) ++
  (List.range b.gTiles).map b.tileImage ++
  (List.range b.gCommit).map fun g => (List.range 4608).map fun k => Config.imageByte n (4608 * (g + 1) + k)

/-! ### Images read back (08: R168, R169, R181) -/

def byteAt (img : List Byte) (k : Nat) : Nat := (img.getD k 0).toNat
def bitAt (img : List Byte) (off k : Nat) : Bool := (byteAt img (off + k / 8)).testBit (k % 8)
def nibbleAt (img : List Byte) (off k : Nat) : Nat := byteAt img (off + k / 2) / 16 ^ (k % 2) % 16
def wordIn (img : List Byte) (off n : Nat) : Nat := leNat ((img.drop off).take n)
/-- A register of an image: its value, the number of its tag, live bit and capability bit. -/
def cellIn (img : List Byte) (val tag live cap k : Nat) : RegCell :=
  ⟨BitVec.ofNat 64 (wordIn img (val + 8 * k) 8), Tag.ofNat (nibbleAt img tag k), bitAt img live k, bitAt img cap k, false⟩
/-- The registers of frame granule `g` as its image has them. -/
def Wave.fromFrame (w : Wave) (g : Nat) (img : List Byte) : Wave :=
  (List.range 512).foldl (fun w k => w.setV (16 * g + k / 32) (k % 32) { cellIn img 0 4096 4352 4416 k with bad := (w.vcell (16 * g + k / 32) (k % 32)).bad }) w
/-- A lane as a header's image has it; what the image does not hold, the device has kept. -/
def Lane.fromHeader (img : List Byte) (i : Nat) (l : Lane) : Lane :=
  let counts := wordIn img (0xAB0 + 9 * i) 9
  let side := fun (j : Nat) => byteAt img (4096 + 32 * j + i)
  { l with
    pc := wordIn img (0x8C0 + 8 * i) 8
    preds := BitVec.ofNat 7 (packNat 1 ((List.range 7).map fun k => if bitAt img (0x9C0 + 4 * k) i then 1 else 0))
    fstat := BitVec.ofNat 5 (byteAt img (0x9E0 + i))
    status := match l.status with | .wsync _ => .wsync (BitVec.ofNat 32 (wordIn img (0xA20 + 4 * i) 4)) | x => x
    counts := (List.range 12).foldl (fun m n => SMap.set 0 m n (counts / 64 ^ n % 64)) []
    credit := (List.range 16).foldl (fun m j => SMap.set 0 m j (side j % 64)) []
    ahead := (List.range 16).foldl (fun m j => SMap.set 0 m j (side j / 64)) [] }
/-- A wave as its header's image has it. -/
def Wave.fromHeader (w : Wave) (img : List Byte) : Wave :=
  { w with wregs := (List.range 256).foldl (fun m n => SMap.set RegCell.zero m n (cellIn img 0 0x800 0x880 0x8A0 n)) []
           lanes := w.lanes.mapIdx fun i l => l.fromHeader img i }
/-- The sequencer's saved words in the header of wave 0. -/
def seqSaveIn (img : List Byte) : SMap Word :=
  (List.range 64).foldl (fun m k => SMap.set 0 m k (BitVec.ofNat 64 (wordIn img (0xE00 + 8 * k) 8))) []
/-- A slot with the bytes of its half of a tile granule's image. -/
def Slot.fromImage (k : Slot) (img : List Byte) (half : Nat) : Slot :=
  { k with bytes := (List.range 2304).foldl (fun m i =>
      SMap.set 0 m i (img.getD (if i < 2048 then 2048 * half + i else 4096 + 256 * half + (i - 2048)) 0)) [] }

/-- One wave of a block from its images, and how many they are. -/
def State.waveFromImages (s : State) (wi : Nat) (img : Nat → List Byte) : State :=
  s.modWave wi fun w => (List.range (w.frameSize / 16)).foldl (fun w g => w.fromFrame g (img (g + 1))) ({ w with frame := [] }.fromHeader (img 0))
/-- The granules that the waves, the scratchpad and the tiles of a block have in a save area, mirrors left out. -/
def State.waveImages (s : State) (b : Block) : List (Nat × Nat) :=
  b.waves.filterMap fun i => match s.wave? i with
    | some w => if w.retired then none else some (i, w.frameSize / 16 + 1)
    | none => none
/-- How many images a block has. -/
def State.imageCount (s : State) (b : Block) : Nat := ((s.waveImages b).map (·.2)).sum + b.gScratch + b.gTiles + b.gCommit
/-- A block as its images have it (08: R181). The commit buffer's layout is the device's own, which keeps what it holds
(log entry 65). -/
def State.fromImages (s : State) (bi : Nat) (b : Block) (img : Nat → List Byte) : State :=
  let r := (s.waveImages b).foldl (fun (p : State × Nat) e => (p.1.waveFromImages e.1 fun k => img (p.2 + k), p.2 + e.2)) (s, 0)
  r.1.modBlock bi fun b => { b with
    seqSave := if (s.waveImages b).head?.map (·.1) = b.waves.head? ∧ b.waves ≠ [] then seqSaveIn (img 0) else b.seqSave
    scratch := (List.range (4096 * b.gScratch)).foldl (fun m i => SMap.set 0 m i ((img (r.2 + i / 4096)).getD (i % 4096) 0)) []
    slots := (List.range (2 * b.gTiles)).foldl (fun m n =>
      SMap.set Slot.free m n ((b.slot n).fromImage (img (r.2 + b.gScratch + n / 2)) (n % 2))) b.slots }
/-- Reads a block's images from the save area; where the read is refused its bytes are free values (log entry 65). -/
def State.readImages (s : State) (bi : Nat) (b : Block) : State :=
  match b.evictedTo with
  | none => s
  | some va =>
    let n := s.fresh
    let img := fun (k : Nat) => match s.devRead (s.blockAsid b).1 true ((va + 4608 * k) % 2 ^ 64) 4608 with
      | .ok bs => bs
      | .error _ => (List.range 4608).map fun i => Config.imageByte n (4608 * k + i)
    s.bump.fromImages bi b img

/-! ### Eviction (08: R180) -/

/-- Runs of the save area that evicted blocks of a tenant hold: first address and count of images. -/
def State.savedRuns (s : State) (t : Nat) : List (Nat × Nat) :=
  s.blocks.filterMap fun b => match b.evictedTo with
    | some va => if s.blockTenant b = t ∧ b.state = .evicted then some (va, s.imageCount b) else none
    | none => none
/-- Where in its save area an evicted block's `n` images go: the lowest run of images that is free. The manual leaves the
place, and the order of the images within it, to the device (log entry 65). -/
def State.saveRun (s : State) (t n : Nat) : Option Nat :=
  let base := (s.tenant t).poolsaveBase
  let cap := base + (s.tenant t).poolsaveSize * 2 ^ 20 / 4608 * 4608
  let used := s.savedRuns t
  ((base :: used.map fun r => r.1 + 4608 * r.2).filter fun a => decide (base ≤ a ∧ a + 4608 * n ≤ cap) &&
      used.all fun r => decide (a + 4608 * n ≤ r.1 ∨ r.1 + 4608 * r.2 ≤ a)).foldl
    (fun (m : Option Nat) k => match m with | some x => some (min x k) | none => some k) none

/-- POOL_EVICT_FAIL of a block. -/
def State.evictFail (s : State) (b : Block) (why addr : Nat) : State :=
  s.blockLog b 0x27 [BitVec.ofNat 64 why, BitVec.ofNat 64 addr]
/-- A block that could not be evicted is not tried again before its tenant writes POOLSAVE or it is restored. -/
def State.evictNot (s : State) (bi : Nat) (b : Block) (why addr : Nat) : State × Bool :=
  ((s.evictFail b why addr).modBlock bi fun b => { b with evictFailed := true }, false)
/-- Writes a block's images to its tenant's save area: the state, and whether it has been evicted. Its granules return one
after another as their images leave the core, one every 18 cycles (08: R182). -/
def State.evict (s : State) (bi : Nat) : State × Bool :=
  match s.blocks[bi]? with
  | none => (s, false)
  | some b =>
    let t := s.blockTenant b
    let base := (s.tenant t).poolsaveBase
    if base = 0 then s.evictNot bi b 0 0
    else
      let imgs := (s.blockImages b).flatten
      match s.saveRun t (imgs.length / 4608) with
      | none => s.evictNot bi b 1 base
      | some va =>
        match s.devWrite (s.blockAsid b).1 true (va % 2 ^ 64) imgs with
        | .error e => s.evictNot bi b 2 e.addr
        | .ok s1 =>
          let start := max s.cyc (SMap.get 0 s.evictFree b.core)
          ({ s1.bump with evictFree := SMap.set 0 s1.evictFree b.core (start + 18 * b.granules) }.modBlock bi fun b =>
            { b with state := .evicted, evictedTo := some va, leaving := some (b.granules, start) }, true)

/-- Switched-out blocks of other tenants on a core whose journal entries have aged out, longest out first. -/
def State.evictable (s : State) (core t : Nat) : List Nat :=
  let ok := (List.range s.blocks.length).filter fun i => match s.blocks[i]? with
    | some b => decide (b.state = .switchedOut ∧ b.core = core ∧ s.blockTenant b ≠ t) && !b.evictFailed && b.restore.isNone &&
        !(s.journal.any fun e => b.waves.contains e.waveIx) && !(s.seqJournal.any fun e => decide (e.blockIx = i))
    | none => false
  let age := fun (i : Nat) => ((s.blocks[i]?).map (·.outSince)).getD 0
  ok.foldr (fun i l => (l.takeWhile fun j => decide (age j < age i)) ++ i :: l.dropWhile fun j => decide (age j < age i)) []
/-- L1 granules above the floor once the evictions under way are over, less those promised to restores. -/
def State.comingFree (s : State) (core : Nat) : Nat :=
  s.poolFree core + ((s.blocks.filter fun b => decide (b.core = core)).map fun b => if b.holds then 0 else b.left s.cyc).sum - s.promisedTo core
/-- Evicts blocks in order until `n` granules are free or on their way. -/
def State.makeRoom (s : State) (core n : Nat) : List Nat → State
  | [] => s
  | bi :: rest => if n ≤ s.comingFree core then s else (s.evict bi).1.makeRoom core n rest

/-! ### Switching in (08: R181; 16: R270) -/

/-- The waves of a block that are to run again and are not resident. -/
def State.outWaves (s : State) (b : Block) : List Nat :=
  b.waves.filter fun i => match s.wave? i with | some w => !w.retired && !w.resident | none => false
/-- Wave slots a core has free: those no resident wave has and no reservation or restore keeps (10: R189; 19: R319; 08: R181). -/
def State.reservedSlots (s : State) (core : Nat) : Nat :=
  ((s.blocks.filter fun b => decide (b.core = core)).map fun b =>
    if b.state = .reserved then ((s.launches[b.launch]?).map (·.cart.waves)).getD 0
    else if b.restore.isSome then (s.outWaves b).length else 0).sum
def State.residentOn (s : State) (core : Nat) : List Wave := s.waves.filter fun w => w.resident && decide (w.core = core)
def State.freeSlots (s : State) (core : Nat) : Nat := 16 * (s.quadsOf core).length - (s.residentOn core).length - s.reservedSlots core
/-- Granules of one region that the blocks of a core hold (08: R162). -/
def State.regionUsed (s : State) (core : Nat) (f : Block → Nat) : Nat :=
  ((s.blocks.filter fun b => decide (b.core = core) && (b.holds || b.restore.isSome)).map f).sum
/-- The quadrant that holds the fewest resident waves, the lowest at a tie, and the lowest free slot (10: R189,
R193). -/
def State.fewest (s : State) (core : Nat) : Nat :=
  let n := fun (q : Nat) => ((s.residentOn core).filter fun w => decide (w.quadrant = q)).length
  (s.quadsOf core).foldl (fun b q => if n q < n b then q else b) ((s.quadsOf core).headD 0)
def State.freeSlot (s : State) (core : Nat) : Nat :=
  ((List.range 64).find? fun k => !(s.residentOn core).any fun w => decide (w.slot = k)).getD 0

/-- A lane resumes in its recorded state; the blocked try their instruction again, and MWAIT returns 2. -/
def Lane.resumes (l : Lane) : Lane :=
  match l.status with
  | .blocked _ => { l with status := .ready, stopped := false }
  | _ => { l with stopped := false }
/-- One wave becomes resident, with an empty operand cache (08: R181). -/
def State.waveIn (s : State) (wi : Nat) : State :=
  match s.wave? wi with
  | none => s
  | some w =>
    if w.retired then s
    else
      let s1 := s.setWave wi { w with resident := true, switchedOut := none, preempt := none, quadrant := s.fewest w.core, slot := s.freeSlot w.core
                                      ocache := [], noSafeReported := false, lanes := w.lanes.map Lane.resumes }
      (List.range 32).foldl (fun st l => match (w.lane l).status with
        | .inside (.mwait _) => st.mwaitLeave wi l 2
        | _ => st) s1

/-- A SEQSAVE image is rejected (16: R270). -/
def Block.saveBad (b : Block) : Bool :=
  let word := fun n => SMap.get 0 b.seqSave n
  !(word 1).getLsbD 0 || decide ((word 1).toNat / 8 ≠ 0 ∨ (word 0).toNat % 4 ≠ 0) ||
    (List.range 34).any fun k => decide (word (30 + k) ≠ 0)
/-- The block's stream resumes, is refused, or waits for MATRIX_THAW, after which it takes its state from the image. A
stream that is over, or whose wave 0 has retired, is not looked at (16: R270, R271). -/
def State.streamIn (s : State) (bi : Nat) : State :=
  match s.blocks[bi]? with
  | none => s
  | some b =>
    let gone := match s.wave? (b.waves.headD 0) with | some w => w.retired | none => true
    if b.seq = .none ∨ b.seq = .stopped ∨ gone = true then s.modBlock bi fun b => { b with frozenTrapped := false }
    else if b.saveBad then
      let pc := SMap.get 0 b.seqSave 0
      s.modBlock bi fun b => { b with
        seq := .stopped, faultMark := true, frozenTrapped := false, relTiles := false
        seqFault := some [0x42, BitVec.ofNat 64 b.seqPc, 0, 0, 0, 9, pc] }
    else if b.relTiles then (s.modBlock bi fun b => { b with frozenTrapped := false, relTiles := false, thaw := true }).streamTrap bi 0x44
    else s.modBlock bi fun b => { b.fromSave true with frozenTrapped := false }

/-- The granules a restore needs: the evicted block's, and fresh tile granules after RELTILES. -/
def State.restoreNeed (s : State) (b : Block) : Nat :=
  (if b.state = .evicted then b.granules else 0) + (if b.relTiles then (((s.launches[b.launch]?).map (·.cart.tileG)).getD 0) else 0)

/-- No earlier request of the pool queue holds a request back (08: R166): those of a lower rank number, and the
older of its own. -/
def State.mayGrant (s : State) (core : Nat) (r : PoolReq) : Bool :=
  !((s.queue core).any fun e => decide (e.rank < r.rank ∨ (e.rank = r.rank ∧ e.id < r.id)) && s.holdsBack core e r.tenant)

/-- A restore can begin now: it is asked for, a slot is free for every wave, the quota allows it, and L1 or eviction gives
the granules (08: R180, R181). -/
def State.restorable (s : State) (bi : Nat) (b : Block) : Bool :=
  let t := s.blockTenant b
  let need := s.restoreNeed b
  let more := ((s.evictable b.core t).map fun i => ((s.blocks[i]?).map Block.granules).getD 0).sum
  decide (b.state = .resident ∨ b.state = .switchedOut ∨ b.state = .evicted) && b.restore.isNone && decide (b.left s.cyc = 0 ∨ b.holds = true) &&
  !((s.launches[b.launch]?).map (·.stayOut)).getD true && ((s.queue b.core).any fun r => decide (r.rank = 2 ∧ r.who = bi)) &&
  decide (b.state ≠ .evicted ∨ (s.regionUsed b.core (·.gScratch) + b.gScratch ≤ 768 ∧ s.regionUsed b.core (·.gTiles) + b.gTiles ≤ 128)) &&
  decide ((s.outWaves b).length ≤ s.freeSlots b.core ∧ s.poolHeld b.core t + need ≤ s.qmax b.core t ∧ need ≤ s.comingFree b.core + more)
/-- A waiting request of rank 1 or 2 can be granted now. -/
def State.canServe (s : State) (core : Nat) (r : PoolReq) : Bool :=
  s.mayGrant core r &&
  (if r.rank = 1 then decide (r.n ≤ s.grantable core r.tenant)
   else if r.rank = 2 then (match s.blocks[r.who]? with | some b => s.restorable r.who b | none => false) else false)
/-- The request of a core's queue that is granted next: GROW.WAITs before restores, and the oldest of its rank
(08: R166). -/
def State.nextServed (s : State) (core : Nat) : Option PoolReq :=
  let q := s.queue core
  ((q.filter fun r => decide (r.rank = 1)) ++ (q.filter fun r => decide (r.rank = 2))).find? (s.canServe core)

/-- A block becomes resident with every wave of it that was out. -/
def State.switchIn (s : State) (bi : Nat) (b : Block) : State :=
  let out := decide (b.state ≠ .resident)
  let s0 := if b.state = .evicted then s.readImages bi b else s
  let tile := if b.relTiles then ((s.launches[b.launch]?).map (·.cart.tileG)).getD 0 else b.gTiles
  let s1 := s0.modBlock bi fun b => { b with
    state := .resident, evictedTo := none, leaving := none, evictFailed := false, restore := none, gTiles := tile }
  let s2 := (s.outWaves b).foldl (fun st i => st.waveIn i) s1
  if out then s2.streamIn bi else s2

/-- A restore begins: what it needs is promised to it, and blocks of other tenants are evicted for what L1 falls short of
(08: R180, R181). Where an eviction fails the request waits on. -/
def State.restoreBegin (s : State) (bi : Nat) (b : Block) (r : PoolReq) : State :=
  let need := s.restoreNeed b
  let s1 := s.makeRoom b.core need (s.evictable b.core (s.blockTenant b))
  if s1.comingFree b.core < need then s1
  else
    let after := if need ≤ s.comingFree b.core then 0 else SMap.get 0 s1.evictFree b.core
    (s1.bump.setQueue b.core ((s1.queue b.core).erase r)).modBlock bi fun b =>
      { b with restore := some ⟨s1.fresh, need, 0, 0, after, (s.outWaves b).length⟩ }
/-- The images of a restore are all in (08: R182). -/
def Restore.moved (r : Restore) (cyc : Nat) : Bool := decide (r.got = r.need ∧ r.next ≤ cyc) && decide (r.after = 0 ∨ r.after + 18 ≤ cyc)

def execSwitchIn (bi : Nat) (s : State) : Out :=
  match s.blocks[bi]? with
  | none => .fault (.notEnabled "SWITCH_IN")
  | some b =>
    match b.restore with
    | some r =>
      if ((s.launches[b.launch]?).map (·.stayOut)).getD true then .next (s.modBlock bi fun b => { b with restore := none })
      else if r.moved s.cyc && decide (r.headers = 0) then .next (s.switchIn bi b)
      else .fault (.notEnabled "SWITCH_IN")
    | none =>
      match s.nextServed b.core with
      | some r => if r.rank = 2 ∧ r.who = bi then .next (s.restoreBegin bi b r) else .fault (.notEnabled "SWITCH_IN")
      | none => .fault (.notEnabled "SWITCH_IN")

/-- Restores under way on a core, in the order in which they began. -/
def State.restoring (s : State) (core : Nat) : List (Nat × Restore) :=
  ((List.range s.blocks.length).filterMap fun i => match s.blocks[i]? with
    | some b => if b.core = core then b.restore.map fun r => (i, r) else none
    | none => none).foldr (fun e l => (l.takeWhile fun x => decide (x.2.order < e.2.order)) ++ e :: l.dropWhile fun x => decide (x.2.order < e.2.order)) []
def State.modRestore (s : State) (bi : Nat) (f : Restore → Restore) : State := s.modBlock bi fun b => { b with restore := b.restore.map f }
/-- What a core's restores come to by the next cycle: one image begins every 18 cycles and one fresh granule every 4, as
soon as a granule is free for it, and one header is loaded in a cycle (08: R163, R181, R182). -/
def State.moveGranules (s : State) (core : Nat) : State :=
  let rs := s.restoring core
  let now := s.cyc + 1
  let s1 := match rs.find? fun e => decide (e.2.got < e.2.need) with
    | some (bi, _) =>
      if (rs.all fun e => decide (e.2.next ≤ now)) && decide (0 < s.poolFree core) then
        let step := match s.blocks[bi]? with | some b => if b.state = .evicted then 18 else 4 | none => 4
        (s.takeFromL1 core 1).modRestore bi fun r => { r with got := r.got + 1, next := now + step }
      else s
    | none => s
  match rs.find? fun e => e.2.moved s.cyc && decide (0 < e.2.headers) with
  | some (bi, _) =>
    if s1.headersUsed.contains core then s1
    else ({ s1 with headersUsed := core :: s1.headersUsed } : State).modRestore bi fun r => { r with headers := r.headers - 1 }
  | none => s1
def State.moveRestores (s : State) : State :=
  (((s.blocks.filter fun b => b.restore.isSome).map (·.core)).eraseDups).foldl State.moveGranules s

/-! ### Grants (08: R165, R166) -/

/-- A GROW.WAIT of a core's queue gets its granules, which are put by for it while they leave L1 (08: R163). -/
def State.grantGrow (s : State) (core : Nat) (r : PoolReq) : State :=
  (s.setQueue core ((s.queue core).erase r)).putBy r.who r.n

def execPoolGrant (core : Nat) (s : State) : Out :=
  match s.nextServed core with
  | some r => if r.rank = 1 then .next (s.grantGrow core r) else .fault (.notEnabled "POOL_GRANT")
  | none => .fault (.notEnabled "POOL_GRANT")

end Sys2Proof.Machine
end

