-- ==== Sys2Proof/Machine/Placement.lean ====
section
/-! DEFINITION. Placing blocks: what a launch begins with (10: R189, R190; 19: R316), the offer queues and where
a block goes (19: R317, R418), rectangles, gangs and placement sets (19: R318, R319), mirrors (08: R171), and
pre-emption for a waiting head (19: R320). -/

namespace Sys2Proof.Machine

/-! ### New waves -/

/-- The registers a launch gives every wave (19: R316). -/
def Launch.firstRegs (L : Launch) : SMap RegCell :=
  let put := fun (m : SMap RegCell) (n : Nat) (v : Word) (t : Tag) (c : Bool) => SMap.set RegCell.zero m n ⟨v, t, true, c, false⟩
  let m := put [] 0 L.args .u64 false
  let m := put m 1 (BitVec.ofNat 64 L.id) .u64 false
  let m := put m 2 (BitVec.ofNat 64 (if L.cart.mboxn = 0 then 0 else L.mbox)) .u64 false
  (List.range L.caps.length).foldl (fun m i =>
    let c := L.caps.getD i (0, 0)
    put (put m (16 + 2 * i) c.1 .raw true) (17 + 2 * i) c.2 .raw false) m

/-- A new wave (10: R190). -/
def Launch.newWave (L : Launch) (li bi number core quadrant slot : Nat) (control : Bool) : Wave :=
  { tenant := L.tenant, asid := L.asid, launch := li, block := bi, number := number, core := core, quadrant := quadrant, slot := slot
    resident := true, retired := false, frameSize := L.cart.frame, maxframe := L.cart.maxframe, mirrored := false
    frame := [], wregs := L.firstRegs, lanes := List.replicate 32 (Lane.start L.cart.entry), wbs := [], ocache := []
    inHandler := false, level := control, tepc := 0, tlanes := 0, trec := [], tappendix := [], scratch := [], savedLanes := []
    stoppedTrap := false, stoppedBrk := false, control := control, wctlid := 0, wctl := 0
    baseClass := if control then 3 else L.cart.role, effClass := if control then 3 else L.cart.role, age := 0, lastIssue := none
    fair := none, yielding := none, idle := 0, preempt := none, noSafeReported := false, switchedOut := none
    scoreboard := L.cart.checkstall || L.scoreboard, sweep := none, granted := 0, grantDue := 0, slotPassed := false, passedOver := 0, seqTrapped := false, trapCyc := none, owner := none, replay := [] }

/-- The wave that an injection names has started (15: R262). -/
def Injection.found (L : Launch) (block number wi : Nat) (j : Injection) : Injection :=
  if j.wave.isNone ∧ j.tenant = L.tenant ∧ j.target = (L.id, block, number) then { j with wave := some wi } else j
/-- Places one wave of a block, mirrored when the doubled request fits (08: R171; 10: R189). -/
def State.addWave (s : State) (li bi number : Nat) (control : Bool) : State :=
  match s.launches[li]?, s.blocks[bi]? with
  | some L, some b =>
    let need := L.cart.waveNeed
    let free := s.grantable b.core L.tenant
    let mirror := L.cart.mirror && decide (need ≤ free)
    let w := L.newWave li bi number b.core (s.fewest b.core) (s.freeSlot b.core) control
    let ready := s.cyc + 4 * (b.granules + (if mirror then need else 0))
    let w := { w with mirrored := mirror, lanes := w.lanes.map fun l => { l with readyAt := ready } }
    let s1 := ({ s with waves := s.waves ++ [w], injections := s.injections.map (Injection.found L b.index number s.waves.length) }.takeFromL1 b.core (if mirror then need else 0)).modBlock bi fun b =>
      { b with waves := b.waves ++ [s.waves.length], gWaves := b.gWaves + (if mirror then need else 0) }
    if L.cart.mirror && !mirror then
      s1.waveLog w 0x26 0 0 [BitVec.ofNat 64 (2 * need), BitVec.ofNat 64 (free + need)]
    else s1
  | _, _ => s

/-- The block takes its granules on a core and keeps them, reserved or resident. -/
def State.takeCore (s : State) (bi core : Nat) (c : Cartouche) (st : BlockState) : State :=
  (s.takeFromL1 core c.need).modBlock bi fun b => { b with
    state := st, core := core, gScratch := c.scratchG, gTiles := c.tileG, gCommit := c.commitG, gWaves := c.waves * c.waveNeed }

/-- A block with its granules becomes resident with all its waves (10: R189). -/
def State.startBlock (s : State) (bi : Nat) (control : Bool) : State :=
  match s.blocks[bi]? with
  | none => s
  | some b =>
    match s.launches[b.launch]? with
    | none => s
    | some L =>
      let c := L.cart
      let s1 := s.modBlock bi fun b => { b with
        state := .resident, waves := [], seq := if c.mstream = 0 then .none else .running, seqPc := c.mstream }
      let s2 := (List.range c.waves).foldl (fun st n => st.addWave b.launch bi n control) s1
      if b.relaunched then
        (s2.modLaunch b.launch fun L => { L with relaunched := L.relaunched + 1 }).blockLog { b with core := b.core } 0x53 [BitVec.ofNat 64 (b.core / 64)]
      else s2

/-! ### What is offered (19: R317, R319) -/

/-- A block that has not been placed: its launch and index. -/
abbrev Piece := Nat × Nat
def State.pieceBlock (s : State) (p : Piece) : Option Block := (s.blockAt p.1 p.2).bind fun i => s.blocks[i]?
/-- Never offered, waiting again, or reserved. -/
def State.unplaced (s : State) (p : Piece) : Bool :=
  match s.pieceBlock p with | none => true | some b => decide (b.state = .waiting ∨ b.state = .reserved)
def State.reservedAt (s : State) (p : Piece) : Option Nat :=
  match s.pieceBlock p with | some b => if b.state = .reserved then some b.core else none | none => none

/-- Indices of a launch that a block record has. -/
def State.madeIndices (s : State) (li : Nat) : List Nat := (s.blocks.filter fun b => decide (b.launch = li)).map (·.index)
/-- The lowest unplaced block of a launch; one that is to be launched again comes first (16: R278). -/
def State.nextIndex (s : State) (li : Nat) (L : Launch) : Option Nat :=
  let own := s.blocks.filter fun b => decide (b.launch = li) && decide (b.state = .waiting ∨ b.state = .reserved)
  match own.find? (·.relaunched) with
  | some b => some b.index
  | none =>
    let taken := s.madeIndices li
    let fresh := (List.range (taken.length + 1)).find? fun i => decide (i < L.blocks) && !taken.contains i
    (own.map (·.index)).foldl (fun m i => match m with | some j => some (min i j) | none => some i) fresh

/-- A unit: its blocks in order, and the cluster it may not use. -/
structure OfferUnit where
  pieces : List Piece
  multi : Bool
  notOn : Option Nat
deriving DecidableEq, Repr

/-- Launches of a gang in descriptor order. -/
def State.gangOf (s : State) (t g : Nat) : List Nat :=
  (List.range s.launches.length).filter fun i => match s.launches[i]? with | some L => decide (L.tenant = t ∧ L.gang = some g) | none => false
def State.allPieces (s : State) (li : Nat) : List Piece :=
  match s.launches[li]? with | some L => (List.range L.blocks).map fun i => (li, i) | none => []

/-- The next unit a launch offers. -/
def State.unitOf (s : State) (li : Nat) : Option OfferUnit :=
  match s.launches[li]? with
  | none => none
  | some L =>
    if L.ended || L.preempted || L.task.isSome || decide (L.made = 0) then none
    else
      match s.nextIndex li L with
      | none => none
      | some i =>
        let b := s.pieceBlock (li, i)
        if (b.map (·.relaunched)).getD false then some ⟨[(li, i)], false, b.map fun b => b.core / 64⟩
        else
          let rest := fun (ps : List Piece) => some (OfferUnit.mk (ps.filter s.unplaced) true none)
          match L.gang with
          | some g => rest ((s.gangOf L.tenant g).flatMap s.allPieces)
          | none =>
            if L.rect.isSome then rest (s.allPieces li)
            else
              let set := L.cart.setOf i
              if set.length ≤ 1 then some ⟨[(li, i)], false, none⟩ else rest (set.map fun k => (li, k))

def State.pieceCart (s : State) (p : Piece) : Option Cartouche := (s.launches[p.1]?).map (·.cart)
def State.pieceSize (s : State) (p : Piece) : Room := ((s.pieceCart p).map Cartouche.room).getD ⟨0, 0, 0, 0⟩
/-- The cluster on which a unit holds reservations. -/
def State.unitCluster (s : State) (u : OfferUnit) : Option Nat := (u.pieces.findSome? s.reservedAt).map (· / 64)
/-- A unit may use a cluster. -/
def State.mayUse (s : State) (u : OfferUnit) (k : Nat) : Bool :=
  match s.unitCluster u with
  | some c => decide (c = k)
  | none => decide (u.notOn ≠ some k) && fitAll (s.emptyCluster k) (u.pieces.map s.pieceSize)

/-- Order of the offer queues: PRIO, then the order in which the launches were made. -/
def State.offerBefore (s : State) (a b : Nat) : Bool :=
  match s.launches[a]?, s.launches[b]? with
  | some x, some y => decide (y.prio < x.prio ∨ (x.prio = y.prio ∧ (x.made < y.made ∨ (x.made = y.made ∧ a < b))))
  | _, _ => false
/-- The head of a cluster's offer queue, with its unit. -/
def State.offerHead (s : State) (k : Nat) : Option (Nat × OfferUnit) :=
  (List.range s.launches.length).foldl (fun (best : Option (Nat × OfferUnit)) li =>
    match s.unitOf li with
    | none => best
    | some u =>
      if !s.mayUse u k then best
      else match best with
        | some (j, _) => if s.offerBefore li j then some (li, u) else best
        | none => some (li, u)) none

/-- The launch by which a launch stands in the offer queues: of a gang, the first of its launches there. -/
def State.standsBy (s : State) (li : Nat) : Nat :=
  match s.launches[li]? with
  | some L => (match L.gang with
    | some g => (s.gangOf L.tenant g).foldl (fun b i => if s.offerBefore i b then i else b) li
    | none => li)
  | none => li
/-- The order of placements among themselves: that of the offer queues, then descriptor order and ascending block index
(08: R166; 19: R317, R319). -/
def State.pieceBefore (s : State) (p q : Piece) : Bool :=
  let a := s.standsBy p.1
  let b := s.standsBy q.1
  if a = b then decide (p.1 < q.1 ∨ (p.1 = q.1 ∧ p.2 < q.2)) else s.offerBefore a b

/-! ### Where a block goes (19: R317, R318, R418) -/

/-- A request of the pool queue is ahead of the placement of a piece: it has a lower rank number, or is the placement of a
piece before it (08: R166). -/
def State.aheadOf (s : State) (e : PoolReq) (p : Piece) : Bool := decide (e.rank < 3) || s.pieceBefore (e.who, e.blk) p
/-- A core can take a block now: its wave slots, its granules under the ceilings of each region, and nothing ahead of it in
the pool queue that holds it back (08: R162, R166). -/
def State.coreTakes (s : State) (p : Piece) (c : Nat) : Bool :=
  match s.launches[p.1]? with
  | none => false
  | some L =>
    L.cart.room.within ⟨s.freeSlots c, s.grantable c L.tenant, 768 - s.regionUsed c (·.gScratch), 128 - s.regionUsed c (·.gTiles)⟩ &&
      !((s.queue c).any fun e => s.aheadOf e p && s.holdsBack c e L.tenant)
/-- The core of a list with the most grantable granules, the first at a tie. -/
def State.richest (s : State) (t : Nat) (cs : List Nat) : Option Nat :=
  cs.foldl (fun (b : Option Nat) c => match b with
    | some x => if s.grantable x t < s.grantable c t then some c else b
    | none => some c) none

/-- The origin of a rectangle some of whose blocks are reserved, or the lowest at which every core is healthy and can take its block. -/
def State.rectOrigin (s : State) (k li w h : Nat) : Option (List Nat) :=
  let fixed := (s.allPieces li).findSome? fun p => (s.reservedAt p).map fun c => (p.2, c % 64)
  match fixed with
  | some (i, c) => rectCores k (c % 8 - i % w) (c / 8 - i / w) w h
  | none => (List.range 64).findSome? fun o =>
      match rectCores k (o % 8) (o / 8) w h with
      | some cs => if (cs.all s.healthy) && (List.range (w * h)).all fun i => !s.unplaced (li, i) || s.coreTakes (li, i) (cs.getD i 0) then some cs else none
      | none => none

/-- The cores of a cluster a piece may go to. -/
def State.pieceCores (s : State) (k : Nat) (p : Piece) : List Nat :=
  match (s.launches[p.1]?).bind (·.rect) with
  | some (w, h) => (match s.rectOrigin k p.1 w h with | some cs => [cs.getD p.2 0] | none => [])
  | none => clusterCores k
def State.pieceTenant (s : State) (p : Piece) : Nat := ((s.launches[p.1]?).map (·.tenant)).getD 0
/-- The core that takes a piece now. -/
def State.placeOn (s : State) (k : Nat) (p : Piece) : Option Nat :=
  s.richest (s.pieceTenant p) ((s.pieceCores k p).filter (s.coreTakes p))
/-- The piece a unit offers: its first that is not reserved. -/
def State.offered (s : State) (u : OfferUnit) : Option Piece := u.pieces.find? fun p => (s.reservedAt p).isNone

/-! ### BLOCK_PLACEMENT -/

/-- A placed or withdrawn piece leaves the pool queues. -/
def State.dequeue (s : State) (p : Piece) : State := s.withdraw fun r => decide (r.rank = 3 ∧ r.who = p.1 ∧ r.blk = p.2)
/-- All blocks of a unit have reserved: they become resident together (19: R319). -/
def State.commitUnit (s : State) (u : OfferUnit) : State :=
  if u.pieces.all fun p => (s.reservedAt p).isSome then
    u.pieces.foldl (fun st p => match st.blockAt p.1 p.2 with | some i => st.startBlock i false | none => st) s
  else s
/-- The piece takes its core: at once, or as a reservation of its unit. -/
def State.placePiece (s : State) (k : Nat) (u : OfferUnit) (p : Piece) (core : Nat) : State :=
  match s.pieceCart p with
  | none => s
  | some c =>
    let r := (s.dequeue p).makeBlock p.1 p.2 core
    let s1 := { r.1.takeCore r.2 core c .reserved with headSince := SMap.set (0, 0) r.1.headSince k (0, 0) }
    if u.multi then s1.commitUnit u else s1.startBlock r.2 false
/-- A piece that fits no core waits in the pool queue of the core it would go to (19: R418). -/
def State.queuePiece (s : State) (core : Nat) (p : Piece) : State :=
  s.bump.setQueue core (s.queue core ++ [⟨s.fresh, 3, s.pieceTenant p, (s.pieceSize p).granules, p.1, p.2⟩])
def State.queuedOn (s : State) (k : Nat) (p : Piece) : Bool :=
  (clusterCores k).any fun c => (s.queue c).any fun r => decide (r.rank = 3 ∧ r.who = p.1 ∧ r.blk = p.2)

/-- Clusters before `k` in the order that begins with `home`. -/
def clustersBefore (home k : Nat) : List Nat := ((List.range 6).map fun i => (home + i) % 6).takeWhile fun c => decide (c ≠ k)
/-- The PRIO by which a unit stands in the offer queues: the highest of its launches (log entry 57). -/
def State.unitPrio (s : State) (u : OfferUnit) : Nat := (u.pieces.map fun p => ((s.launches[p.1]?).map (·.prio)).getD 0).foldl max 0
/-- A unit with uncommitted reservations on a cluster whose queue a launch of higher PRIO has joined (19: R319). -/
def State.overtaken (s : State) (k : Nat) : Option OfferUnit :=
  (List.range s.launches.length).findSome? fun li => (s.unitOf li).bind fun u =>
    if s.unitCluster u = some k && (List.range s.launches.length).any fun lj => match s.launches[lj]?, s.unitOf lj with
      | some M, some v => decide (s.unitPrio u < M.prio) && !(v.pieces.any fun p => u.pieces.contains p) && s.mayUse v k
      | _, _ => false
    then some u else none
/-- Every reservation of a unit is released, and its requests leave the pool queues (19: R319, R418). -/
def State.releaseUnit (s : State) (u : OfferUnit) : State :=
  u.pieces.foldl (fun st p => match st.blockAt p.1 p.2 with
    | some i => (st.dequeue p).modBlock i fun b =>
        if b.state = .reserved then { b with state := .waiting, gScratch := 0, gTiles := 0, gCommit := 0, gWaves := 0 } else b
    | none => st.dequeue p) s

/-- What the head of a cluster's queue does now: place its piece, or queue it. -/
def State.placeHead (s : State) (k : Nat) : Option State :=
  match s.offerHead k with
  | none => none
  | some (li, u) =>
    match s.offered u with
    | none => none
    | some p =>
      let home := ((s.launches[li]?).map (·.home)).getD 0
      let sooner := (clustersBefore home k).any fun c => decide ((s.offerHead c).map (·.1) = some li) && (s.placeOn c p).isSome
      if sooner then none
      else match s.placeOn k p with
        | some c => some (s.placePiece k u p c)
        | none =>
          if s.queuedOn k p then none
          else (s.richest (s.pieceTenant p) (s.pieceCores k p)).map fun c => s.queuePiece c p
/-- A piece that waits in a pool queue of the cluster keeps its place there, whoever heads the offer queue, and is placed as
soon as a core of the cluster takes it (19: R418). -/
def State.placeQueued (s : State) (k : Nat) : Option State :=
  let ready := (clusterCores k).flatMap fun c => (s.queue c).filterMap fun r =>
    let p : Piece := (r.who, r.blk)
    if r.rank ≠ 3 then none
    else (s.unitOf r.who).bind fun u =>
      if u.pieces.contains p && s.unplaced p && (s.reservedAt p).isNone && s.mayUse u k then (s.placeOn k p).map fun core => (p, u, core)
      else none
  (ready.foldl (fun (b : Option (Piece × OfferUnit × Nat)) x => match b with
    | some y => if s.pieceBefore x.1 y.1 then some x else b
    | none => some x) none).map fun x => s.placePiece k x.2.1 x.1 x.2.2
/-- What the placement of a cluster does now: reservations that have been overtaken are released, then the head's piece is
placed or queued, then the pieces that wait in the pool queues, in their order. -/
def State.placeStep (s : State) (k : Nat) : Option State :=
  ((s.overtaken k).map s.releaseUnit).or ((s.placeHead k).or (s.placeQueued k))

def execBlockPlacement (k : Nat) (s : State) : Out :=
  match (if k < 6 then s.placeStep k else none) with
  | some s1 => .next s1
  | none => .fault (.notEnabled "BLOCK_PLACEMENT")

/-! ### PRIORITY_PREEMPT (19: R320) -/

/-- A launch has resident waves in a cluster that are not its tenant's control wave. -/
def State.residentIn (s : State) (li k : Nat) : Bool :=
  s.waves.any fun w => decide (w.launch = li ∧ w.core / 64 = k) && w.resident && !w.control
/-- Launches that go together: the gang, or the launch. -/
def State.together (s : State) (li : Nat) : List Nat :=
  match s.launches[li]? with
  | some L => (match L.gang with | some g => s.gangOf L.tenant g | none => [li])
  | none => []
/-- The launch to pre-empt: lowest PRIO, and among equals the one made last. -/
def State.victim (s : State) (k prio : Nat) : Option Nat :=
  ((List.range s.launches.length).filter fun i => match s.launches[i]? with
    | some L => decide (L.prio < prio) && s.residentIn i k && !L.displaced && !L.preempted
    | none => false).foldl (fun (b : Option Nat) i => match b with
      | some j => if s.offerBefore j i then some i else b
      | none => some i) none
/-- A launch is being pre-empted for the cluster and has not left. -/
def State.displacing (s : State) (k : Nat) : Bool :=
  (List.range s.launches.length).any fun i => match s.launches[i]? with | some L => L.displaced && s.residentIn i k | none => false

def execPriorityPreempt (k : Nat) (s : State) : Out :=
  match s.offerHead k with
  | none => .fault (.notEnabled "PRIORITY_PREEMPT")
  | some (li, _) =>
    let e := SMap.get (0, 0) s.headSince k
    match s.launches[li]? with
    | none => .fault (.notEnabled "PRIORITY_PREEMPT")
    | some L =>
      if e.1 = li + 1 ∧ e.2 + 4096 ≤ s.cyc ∧ s.displacing k = false then
        match s.victim k L.prio with
        | none => .fault (.notEnabled "PRIORITY_PREEMPT")
        | some v => .next ((s.together v).foldl (fun st i => (st.askPreempt i).modLaunch i fun L => { L with displaced := true }) s)
      else .fault (.notEnabled "PRIORITY_PREEMPT")

/-! ### What each cycle settles -/

/-- The head of each cluster's queue, and since when it waits. -/
def State.watchHeads (s : State) : State :=
  { s with headSince := (List.range 6).foldl (fun m k =>
      match s.offerHead k with
      | some (li, _) => if (SMap.get (0, 0) m k).1 = li + 1 then m else SMap.set (0, 0) m k (li + 1, s.cyc)
      | none => SMap.set (0, 0) m k (0, 0)) s.headSince }

/-- A launch of higher PRIO waits in the queue of a cluster in which a launch has blocks. -/
def State.outranked (s : State) (li : Nat) (L : Launch) : Bool :=
  (List.range 6).any fun k => (s.blocks.any fun b => decide (b.launch = li ∧ b.core / 64 = k) && !b.state.isEnded) &&
    (List.range s.launches.length).any fun j => match s.launches[j]?, s.unitOf j with
      | some M, some u => decide (L.prio < M.prio) && s.mayUse u k
      | _, _ => false
/-- Blocks that need not stay out any longer ask for their restore (08: R181; 19: R320). -/
def State.askRestores (s : State) : State :=
  (List.range s.launches.length).foldl (fun st i =>
    match st.launches[i]? with
    | some L =>
      if L.ended || L.stayOut then st
      else if L.displaced && st.outranked i L then st
      else
        let st := if L.displaced then (st.cancelPreempt i).modLaunch i fun L => { L with displaced := false } else st
        if (st.blocks.any fun b => decide (b.launch = i) && st.isOut b) && !st.preemptPending i then st.askRestore i else st
    | none => st) s

end Sys2Proof.Machine
end

