-- ==== Sys2Proof/Machine/Issue.lean ====
section
/-! DEFINITION. Who issues next: waves and fairness runs (10: R193 to R198, R414; 09: R183, R184), what holds an
instruction (01: R18, R19, R22), operand fills (08: R173 to R175), what a fetch finds (01: R14, R15; 02: R54 to
R59), the scheduler's timers (10: R195, R198, R201) and its reports (09: R185, R186). -/

namespace Sys2Proof.Machine

/-! ### Fairness runs (10: R198, R199) -/

/-- The progress promise (10: R199; 09: R184). -/
def State.promised (s : State) (w : Wave) : Bool := !((s.cartOf w).map (·.progOff)).getD false
/-- A fairness run begins: no run, no yield's claim, a starvation of 64, and no cohort has passed this cycle's slot to
minimum-PC issue (10: R198; 09: R183). -/
def State.runDue (s : State) (w : Wave) : Bool :=
  s.promised w && w.resident && !w.slotPassed && w.runCohort.isNone && w.yieldCohort.isNone && decide (64 ≤ w.starvation w.readyLanes)

/-! ### What holds a word (01: R18, R19) -/

def rawStall (x : Nat) : Nat := fld x 72 4
def rawWait (x : Nat) : BitVec 12 := BitVec.ofNat 12 (fld x 60 12)
def rawFlag (x : Nat) : Nat := fld x 56 4
def rawSafe (x : Nat) : Bool := x.testBit 54
/-- The lane would execute the word. -/
def Lane.guarded (l : Lane) (x : Nat) : Bool := l.pred (fld x 76 3) ^^ x.testBit 79
/-- The stall count or the wait mask holds a lane. -/
def Lane.heldBy (l : Lane) (x cyc : Nat) : Bool :=
  (match l.lastIssue with | some c => decide (cyc < c + max 1 (rawStall x)) | none => false) || decide (cyc < l.readyAt) ||
  ((List.range 12).any fun n => (rawWait x).getLsbD n && decide (l.count n ≠ 0))
/-- A count that the word would raise from 63 holds a lane (01: R19). An illegal word counts no flag and waits for its
stall count and wait mask only (02: R55; log entry 87); nor does a full count delay a stop (01: R22). -/
def Lane.fullFor (l : Lane) (x : Nat) : Bool := decide (rawFlag x < 12) && l.guarded x && decide (63 ≤ l.count (rawFlag x))
/-- Some lane of the cohort is not there yet: its wave's granules are still moving out of L1 (08: R163). -/
def Wave.arriving (w : Wave) (m : LaneMask) (cyc : Nat) : Bool := (lanesOf m).any fun l => decide (cyc < (w.lane l).readyAt)
def Wave.heldBy (w : Wave) (m : LaneMask) (x cyc : Nat) : Bool := (lanesOf m).any fun l => (w.lane l).heldBy x cyc
def Wave.fullFor (w : Wave) (m : LaneMask) (x : Nat) : Bool := (lanesOf m).any fun l => (w.lane l).fullFor x

/-! ### Operand fills (08: R173 to R175) -/

/-- Instructions whose sources are read across lanes, which take no demand fill. -/
def readsAcross : Instr → Bool
  | .shfl _ _ _ _ _ | .shfli _ _ _ _ _ | .vote _ _ _ _ | .red _ _ _ _ | .scan _ _ _ _ | .scanx _ _ _ _ | .pmask _ _ _ | .movw _ _ _ _
  | .packk _ _ _ _ | .unpkk _ _ _ _ _ | .ckcmp _ _ _ _ | .ckfix _ _ _ _ _ => true
  | _ => false
/-- Lanes for which a register must still be brought in. -/
def Wave.missing (w : Wave) (n : Nat) (m : LaneMask) : LaneMask :=
  let valid := ((w.ocache.find? fun e => e.reg = n).map (·.valid)).getD 0
  if w.frameSize ≤ n then 0 else maskOf fun l => m.getLsbD l && (w.vcell n l).live && !valid.getLsbD l
/-- Lanes whose fill is under way. -/
def CacheEntry.coming (e : CacheEntry) : LaneMask := e.later.foldl (fun m p => m ||| p.2) (if e.fill.isSome then e.filling else 0)
def Wave.coming (w : Wave) (n : Nat) : LaneMask := ((w.ocache.find? fun e => e.reg = n).map CacheEntry.coming).getD 0
/-- A fill of some lanes of an entry begins and lands 8 cycles later. -/
def CacheEntry.begin_ (m : LaneMask) (cyc : Nat) (e : CacheEntry) : CacheEntry :=
  if e.fill.isSome then { e with later := e.later ++ [(cyc + 8, m)] } else { e with fill := some (cyc + 8), filling := m }
/-- Requests the fill of a register in some lanes: its own entry, a free one, or a victim. -/
def Wave.requestFill (w : Wave) (n : Nat) (m : LaneMask) (keep : List Nat) (hint : Bool) (cyc : Nat) : Wave :=
  if w.ocache.any fun e => decide (e.reg = n) then
    { w with ocache := w.ocache.map fun e => if e.reg = n then e.begin_ m cyc else e }
  else
    let fresh : CacheEntry := CacheEntry.begin_ m cyc ⟨n, 0, 0, none, 0, [], cyc⟩
    if w.ocache.length < 8 then { w with ocache := w.ocache ++ [fresh] }
    else
      match oldestEntry (w.ocache.filter fun e => e.fill.isNone && !keep.contains e.reg && (!hint || decide (e.dirty = 0))) with
      | some v => { w with ocache := (w.ocache.erase v) ++ [fresh] }
      | none => w
def Wave.dirtyEntries (w : Wave) : Nat := (w.ocache.filter fun e => decide (e.dirty ≠ 0)).length
/-- A core's engine requests a fill for a wave, in the lanes that none is under way for, and spills a dirty victim: it
starts 16 fills and spills in a cycle (08: R174). -/
def State.askFill (s : State) (wi n : Nat) (m : LaneMask) (keep : List Nat) (hint : Bool) : State :=
  match s.wave? wi with
  | none => s
  | some w =>
    let need := m &&& ~~~w.coming n
    let w1 := w.requestFill n need keep hint s.cyc
    let used := SMap.get 0 s.engineUsed w.core + 1 + (w.dirtyEntries - w1.dirtyEntries)
    if need = 0 ∨ 16 < used ∨ w1.ocache = w.ocache then s
    else { s.setWave wi w1 with engineUsed := SMap.set 0 s.engineUsed w.core used }

/-- The demand fills of a cohort's next instruction. -/
def Wave.needs (w : Wave) (m : LaneMask) (i : Instr) : List (Nat × LaneMask) :=
  match i.view with
  | none => []
  | some v =>
    if readsAcross i then []
    else
      let ex := w.executing m v.hdr
      ((viewSources v).eraseDups.map fun n => (n, w.missing n ex)).filter fun p => decide (p.2 ≠ 0)
/-- The demand fills of a cohort are requested, once the wave's granules have moved. -/
def State.fillFor (s : State) (wi : Nat) (w : Wave) (keep : List Nat) (m : LaneMask) : State :=
  match s.nextInstr w m with
  | none => s
  | some i => if w.arriving m s.cyc then s else (w.needs m i).foldl (fun s p => s.askFill wi p.1 p.2 keep false) s
/-- The cohorts of a wave, the selected one first. -/
def Wave.cohorts (w : Wave) : List LaneMask := (w.select :: (lanesOf w.readyLanes).map fun l => w.cohortAt (w.lane l).pc).eraseDups

/-! ### What a fetch finds -/

/-- What the selected cohort of a wave meets at its PC. -/
inductive Found where
  | nothing
  /-- the address is misaligned (01: R14) -/
  | misaligned
  /-- the fetch is refused (01: R15) -/
  | refused (r : Refuse)
  /-- a pre-emption stops the cohort before the word (01: R22) -/
  | stop
  /-- the stall count, the wait mask, a full count or a fill holds it -/
  | held
  /-- the word is illegal: its reason (02: R54) -/
  | illegal (x reason : Nat)
  | instr (i : Instr)
deriving DecidableEq, Repr

/-- The wave may issue in this cycle at all: resident, not stopped, no trap taken in this cycle, and no
MATRIX_THAW still to run in another wave (16: R270). -/
def State.waveRuns (s : State) (w : Wave) : Bool :=
  w.resident && !w.stoppedTrap && !w.stoppedBrk && decide (w.trapCyc ≠ some s.cyc) && decide (w.owner.isNone) &&
    (w.inHandler || match s.blocks[w.block]? with | some b => decide (b.state = .resident) && !b.thaw | none => false)

def State.find (s : State) (w : Wave) (m : LaneMask) : Found :=
  if m = 0 ∨ s.waveRuns w = false then .nothing
  else if w.arriving m s.cyc then .held
  else
    let pc := w.pcOf m
    if pc % 4 ≠ 0 then .misaligned
    else
      match s.waveWord w pc with
      | .error r => .refused r
      | .ok x =>
        if w.heldBy m x s.cyc then .held
        else if w.preempt.isSome && !w.inHandler && rawSafe x then .stop
        else
          match decodeWave x with
          | .illegal r => .illegal x r
          | .ok i => if w.fullFor m x = false ∧ w.needs m i = [] then .instr i else .held

/-- A cohort's lanes park for a refused fetch (01: R15; 10: R203). -/
def State.parkFetch (s : State) (wi : Nat) (w : Wave) (m : LaneMask) (r : Refuse) : State :=
  let pc := w.pcOf m
  s.setWave wi { w.modLanes m fun l => { l with status := .parked ⟨r.cause, r.addr, pc, 12, .fetch, r.perms, m, s.cyc, false, false⟩ }
    with fair := none, yielding := none }

/-- What a found word does when it is no instruction. Where the lanes of a misaligned cohort came from different
transferring instructions, the record and TEPC name the one of the lowest lane (log entry 19). -/
def State.foundStep (s : State) (wi : Nat) (w : Wave) (m : LaneMask) : Found → Option State
  | .misaligned =>
    let pc := w.pcOf m
    some ((s.journalise wi w m).takeTrapAt wi (w.trapsAtIssue m) ⟨m, 0x13, false, [BitVec.ofNat 64 pc]⟩ ((w.lane ((lowest m).getD 0)).prevPc))
  | .refused r => some (s.parkFetch wi w m r)
  | .stop => some (s.setWave wi (w.modLanes m fun l => { l with stopped := true, lastIssue := none }))
  | .illegal x r => some (s.raise wi ⟨m, 0x00, false, BitVec.ofNat 64 r :: (wordsOf x).map fun n => BitVec.ofNat 64 n⟩)
  | .nothing | .held | .instr _ => none

/-! ### The quadrants (10: R193) -/

def State.wavesOn (s : State) (core q : Nat) : List Nat :=
  (List.range s.waves.length).filter fun i => match s.waves[i]? with
    | some w => w.resident && decide (w.core = core ∧ w.quadrant = q)
    | none => false
/-- A wave's claim on the slot: higher class, then the older issue, then the lower slot number. -/
def Wave.beats (a b : Wave) : Bool :=
  let age := fun (w : Wave) => match w.lastIssue with | none => 0 | some c => c + 1
  decide (b.effClass < a.effClass ∨ (a.effClass = b.effClass ∧ (age a < age b ∨ (age a = age b ∧ a.slot < b.slot))))
/-- A wave whose selected cohort is issuable, with the word. -/
def State.eligible (s : State) (wi : Nat) : Option (Wave × LaneMask × Instr) :=
  match s.wave? wi with
  | none => none
  | some w => match s.find w w.select with | .instr i => some (w, w.select, i) | _ => none
/-- The waves of a quadrant that may issue now: while a strike replay goes on, the one whose instruction was recorded
first (10: R200). -/
def State.contenders (s : State) (core q : Nat) : List Nat :=
  let ws := s.wavesOn core q
  let heads := ws.filterMap fun i => ((s.wave? i).bind fun w => w.replay.head?).map fun p => (p.1, i)
  match heads.foldl (fun (b : Option (Nat × Nat)) p => match b with
      | some x => if p.1 < x.1 then some p else b
      | none => some p) none with
  | some p => [p.2]
  | none => ws
/-- What a quadrant issues now. -/
def State.choose (s : State) (core q : Nat) : Option (Nat × LaneMask × Instr) :=
  ((s.contenders core q).foldl (fun (best : Option (Nat × Wave × LaneMask × Instr)) i =>
    match s.eligible i with
    | none => best
    | some c => match best with
      | some (_, w, _, _) => if c.1.beats w then some (i, c) else best
      | none => some (i, c)) none).map fun r => (r.1, r.2.2)
/-- A step of a quadrant that takes no slot. -/
def State.slotless (s : State) (wi : Nat) : Option State :=
  match s.wave? wi with | some w => s.foundStep wi w w.select (s.find w w.select) | none => none

/-- A quadrant, as 4 core + quadrant, skips this issue cycle under the power cap; which cycles it skips is free (20: R339). -/
def State.skips (s : State) (q : Nat) : Bool := decide (s.powerCap ≠ 0) && Config.capSkips s.cyc q
/-- Quadrants with resident waves that have not issued in this cycle and do not skip it, as 4 core + quadrant. -/
def State.openQuadrants (s : State) : List Nat :=
  (((s.waves.filter (·.resident)).map fun w => 4 * w.core + w.quadrant).eraseDups).filter fun q => !s.issuedQ.contains q && !s.skips q

/-- The register fills that an issued word's fill field asks for (01: R25). -/
def State.hintFills (s : State) (wi : Nat) (m : LaneMask) (pc : Nat) (i : Instr) : State :=
  match s.wave? wi, i.view with
  | some w, some v =>
    if v.form ≠ .r ∨ v.hdr.fill = 0 then s
    else
      match s.waveWord w ((pc + 12 * v.hdr.fill.toNat) % 2 ^ 64) with
      | .error _ => s
      | .ok x =>
        match decodeWave x with
        | .illegal _ => s
        | .ok j =>
          match j.view with
          | none => s
          | some u =>
            if u.form = .l then s
            else
              let keep := (match s.nextInstr w m with | some k => ((k.view).map viewSources).getD [] | none => [])
              (viewSources u).eraseDups.foldl (fun s n => s.askFill wi n (w.missing n m) keep true) s
  | _, _ => s

/-! ### The sequencer (14: R247; 02: R58, R59; 16: R267) -/

/-- No pre-emption has reached the block. -/
def State.noPreempt (s : State) (b : Block) : Bool := b.waves.all fun i => match s.wave? i with | some w => w.preempt.isNone || !w.resident | none => true
/-- The sequencer of a block may fetch: when the granules of its block have left L1 (08: R163), until its waves have all
retired (14: R256), and under a pre-emption only the words
that a replay has discarded (16: R275). -/
def State.streamRuns (s : State) (b : Block) : Bool :=
  decide (b.state = .resident ∧ b.seq = .running) && !b.thaw && (s.noPreempt b || b.redo.isSome) &&
    (b.waves.all fun i => match s.wave? i with | some w => !w.arriving w.readyLanes s.cyc | none => true) &&
    (decide (b.waves = []) || b.waves.any fun i => match s.wave? i with | some w => !w.retired | none => false)
/-- What the sequencer fetches. -/
def State.streamFetch (s : State) (b : Block) : Except Refuse Nat :=
  s.fetchWord b.core (s.blockAsid b).1 false b.seqPc
/-- The word the sequencer may start now. -/
def State.streamInstr (s : State) (b : Block) : Option Instr :=
  if !s.streamRuns b then none
  else match s.streamFetch b with
    | .error _ => none
    | .ok x => match decodeStream x with
      | .ok i => if s.streamReady b i then some i else none
      | .illegal _ => none
/-- A refused stream fetch stops the sequencer with MATRIX_FAULT detail 7. -/
def State.streamRefused (s : State) (bi : Nat) : Option State :=
  match s.blocks[bi]? with
  | none => none
  | some b =>
    if !s.streamRuns b then none
    else match s.streamFetch b with
      | .error r => some (s.modBlock bi fun b => b.seqStop 0x42 [0, 0, 0] [7, BitVec.ofNat 64 r.addr])
      | .ok _ => none

def execSequencerIllegal (bi : Nat) (s : State) : Out :=
  match s.blocks[bi]? with
  | none => .fault (.notEnabled "SEQUENCER_ILLEGAL")
  | some b =>
    if !s.streamRuns b then .fault (.notEnabled "SEQUENCER_ILLEGAL")
    else match s.streamFetch b with
      | .error _ => .fault (.notEnabled "SEQUENCER_ILLEGAL")
      | .ok x => match decodeStream x with
        | .ok _ => .fault (.notEnabled "SEQUENCER_ILLEGAL")
        | .illegal r => .next (s.modBlock bi fun b => b.seqStop 0x07 ((wordsOf x).map fun n => BitVec.ofNat 64 n) [BitVec.ofNat 64 r])

/-- Lanes that a stopped sequencer traps: ready ones, and those that wait in NBWAIT, which leave the wait. -/
def Lane.atBoundary (l : Lane) : Bool :=
  !l.held && match l.status with | .ready => true | .inside (.nbwait _) => true | _ => false
/-- A wave of a block whose sequencer has stopped traps once (02: R59; 14: R249). -/
def State.seqTrap (s : State) (wi : Nat) : Option State :=
  match s.wave? wi with
  | none => none
  | some w =>
    match (s.blocks[w.block]?).bind (·.seqFault) with
    | some (cause :: details) =>
      let m := w.lanesWhere Lane.atBoundary
      if w.seqTrapped || !w.resident || w.inHandler || w.stoppedTrap || w.stoppedBrk || decide (m = 0) then none
      else
        let w1 := { ((lanesOf m).foldl (fun w l => w.cancelOwed l) w).modLanes m Lane.abandon with seqTrapped := true }
        some (((s.journalise wi w 0).setWave wi w1).takeTrapAt wi w1 ⟨m, cause.toNat, false, details⟩ (w1.pcOf m))
    | _ => none

/-! ### Matrix completions (14: R252, R257) -/

/-- A word of the stream is one of the array's. -/
def execMatrixOpComplete (bi : Nat) (s : State) : Out :=
  match (s.blocks[bi]?).bind fun b => b.dueOp s.cyc isArrayOp with
  | some o => .next (s.arrayDone bi o)
  | none => .fault (.notEnabled "MATRIX_OP_COMPLETE")
def fillFmt : Instr → TileFmt | .mfill m _ _ _ _ => m | _ => .bf16
def execMfillComplete (bi : Nat) (s : State) : Out :=
  match (s.blocks[bi]?).bind fun b => b.dueOp s.cyc isFill with
  | some o =>
    .next ((s.modBlock bi fun b => b.setSlot (match o.insn with | .mfill _ d _ _ _ => slotNo d | _ => 0) (Slot.filled (fillFmt o.insn) o.bytes)).streamDone bi o)
  | none => .fault (.notEnabled "MFILL_COMPLETE")

/-! ### The scheduler's timers -/

def execFairnessRun (wi : Nat) (s : State) : Out :=
  match s.wave? wi with
  | none => .fault (.notEnabled "FAIRNESS_RUN")
  | some w =>
    if s.runDue w then .next (s.setWave wi { w with fair := some (w.mostStarved w.readyLanes, 0) }) else .fault (.notEnabled "FAIRNESS_RUN")

def execAgeingPromotion (wi : Nat) (s : State) : Out :=
  match s.wave? wi with
  | none => .fault (.notEnabled "AGEING_PROMOTION")
  | some w =>
    if w.resident && decide (512 ≤ w.age) then .next (s.setWave wi { w with effClass := min 3 (w.effClass + 1), age := 0 })
    else .fault (.notEnabled "AGEING_PROMOTION")

/-- The watchdog interval of a wave's tenant (10: R202). -/
def State.interval (s : State) (w : Wave) : Nat := 2 ^ (s.tenant w.tenant).wdlog

/-- The count of a cohort, and whether it has been reported since the count restarted (09: R185). -/
def Wave.passedOf (w : Wave) (m : LaneMask) : Nat := ((lanesOf m).map fun l => (w.lane l).passed).foldl max 0
def Wave.toldOf (w : Wave) (m : LaneMask) : Bool := (lanesOf m).any fun l => (w.lane l).told
/-- NO_PROGRESS kind 0: the cohort of a lane, and the cohort that minimum-PC issue selects (09: R185, R186). The record's
own PC and LANES name the starved cohort too, which R286 (17) does not say of a watchdog's report (log entry 69). -/
def execNoProgress (wi lane : Nat) (s : State) : Out :=
  match s.wave? wi with
  | none => .fault (.notEnabled "NO_PROGRESS")
  | some w =>
    let l := w.lane lane
    let c := w.cohortAt l.pc
    if w.resident && !s.promised w && l.isReady && decide (s.interval w ≤ w.passedOf c) && !w.toldOf c then
      let m := w.minCohort
      let r := s.record w 0x30 true l.pc c
        [0, BitVec.ofNat 64 c.toNat, BitVec.ofNat 64 l.pc, BitVec.ofNat 64 m.toNat, BitVec.ofNat 64 (w.pcOf m), BitVec.ofNat 64 (w.passedOf c)] []
      .next ((s.notice w.tenant false r).modWave wi fun w => w.modLanes c fun x => { x with told := true })
    else .fault (.notEnabled "NO_PROGRESS")

/-- Lanes whose wait only their own wave's threads end (10: R201). -/
def Lane.selfWait (l : Lane) : Bool :=
  match l.status with
  | .exited | .wsync _ | .inside (.bar _) | .inside (.gbar _) | .inside (.gred _ _) | .inside (.nbwait _) => true
  | _ => false
def Wave.allWait (w : Wave) : Bool := (w.lanes.all Lane.selfWait) && w.lanes.any fun l => !l.isExited

/-- Barrier or entry, arrivals and expected arrivals of a kind 1 report: of the lowest lane in BAR, GBAR or GRED. -/
def State.waitCounts (s : State) (w : Wave) : List Word :=
  let at_ := w.lanes.findSome? fun l => match l.status with
    | .inside (.bar k) => some (k, false)
    | .inside (.gbar g) => some (g, true)
    | .inside (.gred g _) => some (g, true)
    | _ => none
  match at_ with
  | none => [0, 0, 0]
  | some (k, false) =>
    let b := ((s.blocks[w.block]?).map fun b => b.barrier k).getD ⟨0, 0⟩
    [BitVec.ofNat 64 k, BitVec.ofNat 64 b.arrived, BitVec.ofNat 64 b.expected]
  | some (g, true) =>
    let members := ((s.cartOf w).map fun c => c.members g).getD []
    let x := (s.groupStates.find? fun x => decide (x.launch = w.launch ∧ x.entry = g)).getD ⟨w.launch, g, []⟩
    [BitVec.ofNat 64 g, BitVec.ofNat 64 (members.filter (s.memberArrived x)).length, BitVec.ofNat 64 members.length]

/-- NO_PROGRESS kind 1 (10: R201). -/
def execStalledWaveReport (wi : Nat) (s : State) : Out :=
  match s.wave? wi with
  | none => .fault (.notEnabled "STALLED_WAVE_REPORT")
  | some w =>
    if w.resident && w.allWait && (s.tenant w.tenant).waitrep && decide (s.interval w ≤ w.idle) then
      let m := w.lanesWhere fun l => !l.isExited
      let app := (List.range 32).map fun l =>
        let x := w.lane l
        BitVec.ofNat 64 (x.pc / 4 * 4 + (match x.status with | .wsync _ => 2 | .inside _ => 3 | _ => 0))
      let r := s.record w 0x30 true (w.pcOf m) m (1 :: BitVec.ofNat 64 m.toNat :: s.waitCounts w) app
      .next ((s.notice w.tenant false r).modWave wi fun w => { w with idle := 0 })
    else .fault (.notEnabled "STALLED_WAVE_REPORT")

/-! ### What a cycle counts (10: R195, R196, R198) -/

/-- One more slot in which a ready lane is passed over. -/
def Lane.pass (l : Lane) : Lane := { l with starve := min (2 ^ 31 - 1) (l.starve + 1), passed := l.passed + 1 }
/-- Another wave of the quadrant, or this one, has issued in this cycle. -/
def State.quadrantUsed (s : State) (w : Wave) : Bool := s.issuedQ.contains (4 * w.core + w.quadrant)
/-- The lanes that this cycle passes over, if it is a slot of the wave: those ready outside the cohort that issued, that
was held, or that trapped at its issue (10: R196, R414; 09: R183). A cycle that the quadrant skips is no slot. -/
def State.passedLanes (s : State) (w : Wave) : Option LaneMask :=
  match w.owner with
  | some m => some (w.readyLanes &&& ~~~m)
  | none =>
    if s.quadrantUsed w || s.skips (4 * w.core + w.quadrant) then none
    else if w.trapCyc = some s.cyc then some w.passedOver
    else if w.readyLanes = 0 then none
    else some (w.readyLanes &&& ~~~w.select)
/-- The counts of a wave at the end of a cycle. -/
def State.countWave (s : State) (wi : Nat) (w : Wave) : Wave :=
  if !w.resident then w
  else
    let passed := s.passedLanes w
    let aged := decide (w.owner.isNone) && s.quadrantUsed w && (s.eligible wi).isSome
    let w := match passed with | none => w | some m => w.modLanes m Lane.pass
    { w with
      age := if aged then w.age + 1 else w.age
      idle := if w.allWait && w.owner.isNone then w.idle + 1 else 0
      yielding := if passed.isSome && w.owner.isNone then none else w.yielding
      fair := if w.fair.isSome && w.runCohort.isNone then none else w.fair
      replay := if w.replayBroken then [] else w.replay
      slotPassed := false, passedOver := 0, owner := none }
/-- Every wave counts the cycle, and what a count has reached is reported in that cycle (09: R185, R186; 10: R195,
R201). -/
def State.countWaves (s : State) : State :=
  let s1 := { s with waves := s.waves.mapIdx fun i w => s.countWave i w }
  (List.range s1.waves.length).foldl (fun st wi =>
    let reports := (List.range 32).map (execNoProgress wi) ++ [execStalledWaveReport wi, execAgeingPromotion wi]
    reports.foldl (fun st f => match f st with | .next t => t | _ => st) st) s1

end Sys2Proof.Machine
end

