-- ==== Sys2Proof/Machine/Replay.lean ====
section
/-! DEFINITION. Strike replay and what ages out of the window (16: R272 to R275; 04: R106), failures and their
retries (16: R280), commit drains (06: R157), and register injections (15: R262). -/

namespace Sys2Proof.Machine

/-! ### Rewinding (16: R273) -/

/-- The four cores of a zone: zones 16k to 16k + 15 tile cluster k row by row. -/
def zoneCores (z : Nat) : List Nat :=
  let y := 2 * (z % 16 / 4)
  let x := 2 * (z % 4)
  [0, 1, 8, 9].map fun d => 64 * (z / 16) + 8 * y + x + d

/-- The first entry of a wave in the window. -/
def State.firstEntry (s : State) (wi since : Nat) : Option JEntry := s.journal.find? fun e => decide (e.waveIx = wi ∧ since ≤ e.cyc)

/-- A lane whose wait has been met by something that stands goes on from it (16: R273, R274). One that waits for the outcome
of a CALLB gets the recorded one (04: R101). -/
def State.unstick (s : State) (wi : Nat) (k : Option Sweep) (l : Lane) : Lane :=
  let open_ := fun (id : Nat) => (s.reqs.any fun r => decide (r.id = id)) || (s.atomics.any fun a => decide (a.id = id ∧ a.wave = wi)) ||
    (s.linkWrites.any fun w => decide (w.id = id)) || s.durQueue.any fun w => decide (w.id = id)
  match l.status with
  | .blocked _ => { l with status := .ready }
  | .inside (.proceed id) => if open_ id then l else { l.goOn with acquired := s.cyc }
  | .inside (.outcome id) => if open_ id || (s.outcomes.any fun o => decide (o.id = id)) then l else { l.goOn with acquired := s.cyc }
  | .inside (.endElement (some id) _ _) =>
    if open_ id then l else match k with | some k => { l with elem := none }.backToSweep k | none => l
  | _ => l

/-- A result of the restored wave as it stands now: landed, still under way, or withdrawn. -/
def State.keepResult (s : State) (wi since : Nat) (now : Wave) (w : Wave) (b : WriteBack) : Wave :=
  match s.landed.find? fun e => decide (e.waveIx = wi ∧ e.wb.id = b.id) with
  | some e => w.land [] s.cyc e.wb
  | none =>
    match now.wbs.find? fun x => x.id = b.id with
    | some x => { w with wbs := w.wbs.map fun y => if y.id = b.id then x else y }
    | none =>
      if since ≤ b.issued then w
      else { w.modLanes b.lanes fun l => l.dropCount b.flag with wbs := w.wbs.filter fun y => decide (y.id ≠ b.id) }

/-- Array results written after the rewind point by operations that started before the window are kept
(16: R275). -/
def State.keepArray (s : State) (wi since : Nat) (e : JEntry) (w : Wave) : Wave :=
  s.landed.foldl (fun w x =>
    if x.waveIx = wi ∧ x.wb.lanes = 0 ∧ x.wb.issued < since ∧ e.id ≤ x.wb.id then x.wb.writes.foldl (Wave.arrayWrite [] s.cyc) w else w) w

/-- The granules that the GROWs of a stretch of frame sizes have obtained (04: R106). -/
def grownIn : List Nat → Nat
  | a :: b :: rest => (b - a) / 16 + grownIn (b :: rest)
  | _ => 0

/-- The wave as the window's first entry has it, with what stands and what is not rewound: its place, its scheduler counts
and fairness run, and the granules that rewound GROWs had obtained (04: R106; 10: R200). -/
def State.rewound (s : State) (wi since : Nat) (e : JEntry) (now : Wave) : Wave :=
  let old := e.wave
  let w := old.wbs.foldl (s.keepResult wi since now) old
  let w := s.keepArray wi since e w
  let mine := s.journal.filter fun x => decide (x.waveIx = wi ∧ since ≤ x.cyc)
  let grown := grownIn (mine.map (·.wave.frameSize) ++ [now.frameSize]) * (if now.mirrored then 2 else 1)
  { w with
    core := now.core, quadrant := now.quadrant, slot := now.slot, resident := now.resident, switchedOut := now.switchedOut
    preempt := now.preempt, noSafeReported := now.noSafeReported, effClass := now.effClass, age := now.age, lastIssue := now.lastIssue
    fair := now.fair, yielding := now.yielding, owner := now.owner, scoreboard := now.scoreboard, granted := now.granted + grown
    grantDue := now.grantDue, trapCyc := none
    lanes := w.lanes.mapIdx fun i l => { s.unstick wi w.sweep l with starve := (now.lane i).starve, passed := (now.lane i).passed, told := (now.lane i).told, lastIssue := none }
    replay := (mine.filter fun x => decide (x.lanes ≠ 0)).map fun x => (x.id, x.lanes) }

/-- Messages that rewound PRECVs took go back to the front of their pipes. -/
def State.giveBack (s : State) (wi since : Nat) : State :=
  let mine := s.taken.filter fun t => decide (t.2.1 = wi ∧ since ≤ t.1)
  mine.reverse.foldl (fun st t => st.modPipe t.2.2.1 fun p => { p with msgs := t.2.2.2 :: p.msgs })
    { s with taken := s.taken.filter fun t => !decide (t.2.1 = wi ∧ since ≤ t.1) }

/-- The recorded outcomes of the CALLBs that lanes of a wave wait inside are delivered again (04: R101). -/
def State.redeliver (s : State) (wi : Nat) : State :=
  (s.outcomes.filter fun o => decide (o.wave = wi)).foldl (fun st o => st.callbDeliver wi o.id o.lane o.va o.cell o.cells o.won) s

/-- One wave goes back; requests of it that have not left and were issued since are discarded. -/
def State.rewindWave (s : State) (since wi : Nat) : State :=
  match s.wave? wi, s.firstEntry wi since with
  | some now, some e =>
    if now.retired then s
    else
      let s1 := s.giveBack wi since
      let s2 := s1.setWave wi (s1.rewound wi since e now)
      { s2 with
        reqs := s2.reqs.filter fun r => !decide (r.wave = wi ∧ since ≤ r.issued) || r.kind.isNotice
        journal := s2.journal.filter fun x => !decide (x.waveIx = wi ∧ since ≤ x.cyc)
        injections := s2.injections.map fun j => if j.wave = some wi ∧ (j.done = 1 ∨ j.done = 3) ∧ since ≤ j.applied then { j with done := 0 } else j }
  | _, _ => s

/-- The block as it was at the rewind point: before the earliest entry of its waves or of its stream (11: R211;
16: R273, R275). -/
def State.blockBefore (s : State) (since bi : Nat) (b : Block) : Option (Nat × Block) :=
  let w := (s.journal.find? fun e => b.waves.contains e.waveIx && decide (since ≤ e.cyc)).bind fun e => e.block.map fun x => (e.id, x)
  let q := (s.seqJournal.find? fun e => decide (e.blockIx = bi ∧ since ≤ e.cyc)).map fun e => (e.id, e.block)
  match w, q with
  | some x, some y => some (if x.1 ≤ y.1 then x else y)
  | some x, none => some x
  | none, y => y
/-- A fill that started before the window and has completed since keeps its slot. -/
def keepFill (cur : List StreamOp) (b : Block) (o : StreamOp) : Block :=
  match o.insn with
  | .mfill m d _ _ _ => if cur.contains o then b else b.setSlot (slotNo d) (Slot.filled m o.bytes)
  | _ => b
/-- The words 0 to 29 of a saved image follow a rewind of the stream, with the handler's RELTILES; an image that was not
written stays so (16: R269, R275). -/
def imageBack (save : SMap Word) (b : Block) : SMap Word :=
  if save = [] then []
  else (List.range 30).foldl (fun m n => SMap.set 0 m n (if n = 1 then (SMap.get 0 save 1 &&& 5) ||| (b.seqst 1 &&& 2) else b.seqst n)) save
/-- A block goes back: its barriers, its commit buffer and the record of its effects, its stream and its slots. Words of
the stream that started in the window are discarded and issued again, before a freeze ends too; words that started before
it keep what they have written, and an MARRIVE that has counted since counts again. -/
def State.rewindBlock (s : State) (since bi : Nat) : State :=
  match s.blocks[bi]? with
  | none => s
  | some now =>
    match s.blockBefore since bi now with
    | none => s
    | some (_, old0) =>
      let old := old0.seqOps.foldl (keepFill now.seqOps) old0
      let live := decide (now.state = .resident)
      let back := { now with
        barriers := old.barriers, arr := old.arr, arrIds := old.arrIds, marr := old.marr, commit := old.commit, drain := old.drain
        exitDrained := old.exitDrained, effects := old.effects, faultMark := old.faultMark
        seq := if live ∧ (now.seq = .stopped ∨ now.seq = .ended ∨ old.seq ≠ .frozen) then old.seq else now.seq
        seqPc := old.seqPc, seqFault := old.seqFault, slots := if now.relTiles then now.slots else old.slots
        redo := if live ∧ old.seqPc ≠ now.seqPc then some now.seqPc else none
        seqOps := old0.seqOps.filter fun o => now.seqOps.contains o || (match o.insn with | .marrive _ => true | _ => false)
        frozenTrapped := if live then old.frozenTrapped else now.frozenTrapped
        seqSave := if live then old.seqSave else imageBack now.seqSave old }
      { s.modBlock bi (fun _ => back) with
        seqJournal := s.seqJournal.filter fun x => !decide (x.blockIx = bi ∧ since ≤ x.cyc)
        reqs := s.reqs.filter fun r => !(now.waves.contains r.wave && decide (since ≤ r.issued) &&
          (match r.kind with | .drain | .barFence _ => true | _ => false)) }

/-- A strike report for a zone: STRIKE_REPLAY to every tenant with a wave there, and the rewind. -/
def execStrikeReplay (zone : Nat) (s : State) : Out :=
  if 96 ≤ zone ∨ s.power ≠ .on then .fault (.notEnabled "STRIKE_REPLAY")
  else
    let since := s.cyc - 128
    let cores := zoneCores zone
    let here := (List.range s.waves.length).filter fun i => match s.waves[i]? with
      | some w => cores.contains w.core && !w.retired
      | none => false
    let blocks := (List.range s.blocks.length).filter fun i => match s.blocks[i]? with
      | some b => cores.contains b.core && b.holds
      | none => false
    let ts := (here.filterMap fun i => (s.wave? i).map (·.tenant)).eraseDups
    let s1 := ts.foldl (fun st t => st.ringRecord t true (st.tenantRecord t 0x50 0 0 [BitVec.ofNat 64 zone, BitVec.ofNat 64 since])) s
    let s2 := blocks.foldl (fun st bi => st.rewindBlock since bi) s1
    let s3 := here.foldl (fun st wi => (st.rewindWave since wi).redeliver wi) s2
    .next (ts.foldl (fun st t => st.wakeParked t) s3)

/-- The oldest entry of the journal has left the window: what SHRINK released returns (04: R106). -/
def execJournalAgeOut (id : Nat) (s : State) : Out :=
  match s.journal.find? fun e => decide (e.id = id) with
  | none => .fault (.notEnabled "JOURNAL_AGE_OUT")
  | some e =>
    if s.cyc < e.cyc + 128 then .fault (.notEnabled "JOURNAL_AGE_OUT")
    else
      let s1 := { s with journal := s.journal.filter fun x => decide (x.id ≠ id) }
      .next (s1.modBlock e.wave.block fun b => { b with gWaves := b.gWaves - e.granules })

/-- What the window no longer needs. -/
def State.pruneWindow (s : State) : State :=
  { s with
    seqJournal := s.seqJournal.filter fun e => decide (s.cyc < e.cyc + 128)
    landed := s.landed.filter fun e => decide (s.cyc < e.cyc + 128)
    outcomes := s.outcomes.filter fun o => decide (s.cyc < o.cyc + 128)
    taken := s.taken.filter fun t => decide (s.cyc < t.1 + 128) }

/-! ### What other agents have done to a waiting lane stands (16: R273, R274) -/

/-- A wait that only another agent ends, so that its end is not rewound. -/
def Status.external : Status → Bool
  | .parked _ => true
  | .inside k => (match k with
    | .gbar _ | .gred _ _ | .mwait _ | .psend _ _ | .walk _ _ _ _ | .commit => true
    | .bar _ | .nbwait _ | .sweep | .precv _ | .proceed _ | .outcome _ | .mdrain _ _ _ _ | .endElement _ _ _ => false)
  | _ => false
/-- A snapshot's lane waits as the lane did before its wait ended. -/
def Lane.follows (snap old new : Lane) : Bool :=
  old.status.external && decide (snap.status = old.status ∧ snap.pc = old.pc ∧ new.status ≠ old.status)
/-- The snapshot's lane goes on as the lane does, with the results that the wait's end puts under way. -/
def Lane.follow (snap old new : Lane) (results : List WriteBack) : Lane :=
  results.foldl (fun l b => l.bumpCount b.flag)
    { snap with status := new.status, pc := new.pc, prevPc := new.prevPc, insn := new.insn, owed := new.owed, acquired := new.acquired, watch := new.watch
                fstat := snap.fstat ||| (new.fstat &&& ~~~old.fstat) }
/-- A snapshot of a wave after a step that was no issue of the waves. -/
def Wave.followed (snap a b : Wave) : Wave :=
  let m := maskOf fun i => (snap.lane i).follows (a.lane i) (b.lane i)
  if m = 0 then snap
  else
    let fresh := b.wbs.filter fun x => decide (x.lanes &&& m ≠ 0) && !(a.wbs.any fun y => decide (y.id = x.id))
    { snap with
      lanes := snap.lanes.mapIdx fun i l => if m.getLsbD i then l.follow (a.lane i) (b.lane i) (fresh.filter fun x => x.lanes.getLsbD i) else l
      wbs := snap.wbs ++ fresh.map fun x => { x with lanes := x.lanes &&& m, writes := x.writes.filter fun r => m.getLsbD r.lane } }
/-- The journal after a step that was no issue of the waves. -/
def State.syncJournal (old new : State) : State :=
  { new with journal := new.journal.map fun e =>
      match old.wave? e.waveIx, new.wave? e.waveIx with
      | some a, some b => if a.lanes = b.lanes then e else { e with wave := e.wave.followed a b }
      | _, _ => e }

/-! ### Failures and retries (16: R280, R281) -/

/-- The wave and granule that lie at a location: a granule of its frame, or 64 its header. -/
def State.granuleAt (s : State) (loc : Nat) : Option (Nat × Nat) :=
  (List.range s.waves.length).findSome? fun wi => match s.waves[wi]? with
    | some w => if w.retired then none
      else ((List.range (w.frameSize / 16) ++ [64]).find? fun g => decide (w.granuleLoc wi g = loc)).map fun g => (wi, g)
    | none => none
/-- The block and granule of its region of a kind that lie at a location. -/
def State.regionOwner (s : State) (kind loc : Nat) : Option (Nat × Nat) :=
  (List.range s.blocks.length).findSome? fun i => match s.blocks[i]? with
    | some b => if b.holds then (s.regionAt i kind loc).map fun g => (i, g) else none
    | none => none
/-- The tenant that owns a location: of a pool unit the one whose wave or block holds it, of memory the one that maps
it. -/
def State.ownerOf (s : State) (kind loc : Nat) : Option Nat :=
  if kind ≤ 1 then ((s.granuleAt loc).bind fun p => s.wave? p.1).map (·.tenant)
  else if kind < 5 then ((s.regionOwner kind loc).bind fun p => s.blocks[p.1]?).map s.blockTenant
  else if kind < 8 then
    (s.pages.find? fun p => decide (p.kind = 0 ∧ p.pa ≤ loc ∧ loc < p.pa + p.size)).bind fun p =>
      (s.tenants.find? fun t => t.2.asids.contains p.asid).map (·.1)
  else none
/-- A report about a unit, to the fault log of its owner or the chart core's log. -/
def State.unitReport (s : State) (cause kind loc : Nat) : State :=
  match s.ownerOf kind loc with
  | some t => s.ringRecord t true (s.tenantRecord t cause 0 0 (unitWords (kind, loc)))
  | none => { s with chartLog := s.chartLog ++ [s.tenantRecord 0 cause 0 0 (unitWords (kind, loc))] }
/-- The policy bit of a unit kind. -/
def policyBit (kind : Nat) : Nat := if kind < 5 then 0 else if kind = 5 then 1 else if kind < 8 then 2 else 3

/-- The ways that hold a line leave its sets, with what they hold. -/
def State.disableWays (s : State) (line : Nat) : State :=
  let hit := fun (l : Line) => !l.l1 && decide (l.pa = line)
  { s with
    l2Off := s.l2Off ++ (s.lines.filter hit).map fun l => (l.unit, l2Set l.va, l.way)
    lines := s.lines.filter fun l => !hit l }
/-- The fence of a unit: pool granules, ways of L2, frames (16: R280). -/
def State.fence (s : State) (kind loc : Nat) : State :=
  let s1 := { s with fenced := s.fenced ++ [(kind, loc)] }
  let core := loc / 2 ^ 16 % 8 * 64 + loc / 2 ^ 10 % 64
  if kind < 5 then { s1 with fencedGranules := SMap.set 0 s1.fencedGranules core (SMap.get 0 s1.fencedGranules core + 1) }
  else if kind = 5 then s1.disableWays (loc / 64)
  else if kind = 6 ∨ kind = 7 then { s1 with retiredFrames := s1.retiredFrames ++ [loc / 4096] }
  else s1
/-- A second failure: a line of memory reads as uncorrectable, and the unit is fenced or stays in use. -/
def State.lasting (s : State) (kind loc : Nat) : State :=
  let s1 := if 5 ≤ kind ∧ kind ≤ 7 then { s with marked := s.marked ++ [(kind, loc)] } else s
  if s.raspol.getLsbD (policyBit kind) then (s1.fence kind loc).unitReport 0x56 kind loc else s1.unitReport 0x55 kind loc

/-- A block's granule has been written with the test patterns: what it held is gone, and the manual does not state what
it holds (log entry 68). -/
def Block.lose (b : Block) (n kind g : Nat) : Block :=
  let free := fun (m : SMap Byte) (from_ len : Nat) => (List.range len).foldl (fun m k => SMap.set 0 m (from_ + k) (Config.lostByte n k)) m
  if kind = 2 then { b with scratch := free b.scratch (4096 * g) 4096 }
  else if kind = 3 then [2 * g, 2 * g + 1].foldl (fun b k =>
    if (b.slot k).claimed then b.setSlot k { b.slot k with bytes := free (b.slot k).bytes 0 2304 } else b) b
  else b
/-- A granule whose retry has succeeded is in use again and marked no more (16: R280). -/
def State.recovered (s : State) (kind loc : Nat) : State :=
  let s1 := { s.bump with marked := s.marked.filter fun m => decide (m ≠ (kind, loc)) }
  match s.regionOwner kind loc with
  | some (bi, g) => if s.marked.contains (kind, loc) then s1.modBlock bi fun b => b.lose s.fresh kind g else s1
  | none => s1

/-- The registers of a frame granule lose their values in the lanes in which no entry of the operand cache is valid; those
of a header granule are the wave-uniform ones, of which a resident wave has its own copy (08: R172, R173). -/
def Wave.loseGranule (w : Wave) (g : Nat) : Wave :=
  if g = 64 then
    (if w.resident then w
    else (List.range 256).foldl (fun w n => if (w.wcell n).live then w.setW n { w.wcell n with bad := true } else w) w)
  else (List.range 16).foldl (fun w k =>
    let n := 16 * g + k
    w.loseV n (~~~(((w.ocache.find? fun e => e.reg = n).map (·.valid)).getD 0))) w
/-- An uncorrectable error in an entry of the operand cache: a clean one is dropped, and the values of a dirty one are
lost. Of the entries whose registers the granule holds it is the first (log entry 59). -/
def State.cacheError (s : State) (loc : Nat) : State :=
  match s.granuleAt loc with
  | none => s
  | some (wi, g) => match (s.wave? wi).bind fun w => w.ocache.find? fun e => decide (e.reg / 16 = g) with
    | none => s
    | some e =>
      let s1 := s.modWave wi fun w => (w.loseV e.reg e.dirty).cacheDrop e.reg (e.valid &&& ~~~e.dirty)
      s1.unitReport (if e.dirty = 0 then 0x23 else 0x25) 0 loc
/-- An uncorrectable error in a frame or header granule: a mirror repairs it, unless it has the error too. -/
def State.granuleError (s : State) (loc : Nat) (both : Bool) : State :=
  match s.granuleAt loc with
  | none => s.unitReport 0x25 1 loc
  | some (wi, g) => match s.wave? wi with
    | some w => if w.mirrored && !both then s.unitReport 0x24 1 loc
      else (s.modWave wi fun w => w.loseGranule g).unitReport 0x25 1 loc
    | none => s
/-- An uncorrectable error in the scratchpad, tiles or commit buffer kills a contained block, and marks the unit
for its readers otherwise (08: R172; 16: R276). -/
def State.poolError (s : State) (kind loc : Nat) : State :=
  match s.regionOwner kind loc with
  | none => s
  | some (bi, _) =>
    if (((s.blocks[bi]?).bind fun b => s.launches[b.launch]?).map (·.cart.contained)).getD false then s.killBlock bi 0x51 kind loc true
    else { s with marked := s.marked ++ [(kind, loc)] }
/-- What an error of the pool or the operand cache does when it is found. -/
def State.eccError (s : State) (kind loc : Nat) (both : Bool) : State :=
  match kind with
  | 0 => s.cacheError loc
  | 1 => s.granuleError loc both
  | _ => s.poolError kind loc

/-- Of a pool unit: an error of one bit is corrected, an uncorrectable one is found, or the retry that follows its
consumption ends. Of a line of memory the error and its retry are one step. -/
def execFaultRetry (kind loc : Nat) (found : RetryFind) (s : State) : Out :=
  if 8 ≤ kind ∨ s.power ≠ .on then .fault (.notEnabled "FAULT_RETRY")
  else match found with
    | .transient => .next ((s.recovered kind loc).unitReport 0x54 kind loc)
    | .lasting => .next (s.lasting kind loc)
    | .corrected => if 5 ≤ kind then .fault (.notEnabled "FAULT_RETRY") else .next (s.unitReport 0x23 kind loc)
    | .bad => if 5 ≤ kind then .fault (.notEnabled "FAULT_RETRY") else .next (s.eccError kind loc false)
    | .badBoth => if 5 ≤ kind then .fault (.notEnabled "FAULT_RETRY") else .next (s.eccError kind loc true)

/-- A fabric port that no route uses: it is absent, or one of its lanes is fenced (20: R325; log entry 94). -/
def State.portOut (s : State) (p : Nat) : Bool := s.absent.contains (6, p) || s.fenced.any fun u => decide (u.1 = 9 ∧ u.2 / 256 = p)
/-- With no port left there is no route to any other device, and all of them count as failed (20: R325, R328). -/
def State.dropUnreachable (s : State) : State :=
  if (List.range 18).all fun p => s.portOut p then
    s.groups.foldl (fun st x => x.members.foldl (fun st d => if d = Config.deviceNumber then st else st.removeMember x.g d) st) s
  else s
/-- A flit of the die link, or of a lane of a fabric port: 18 ports of 8 lanes (00: R1; 20: R325). -/
def execFlitCrcResend (kind loc : Nat) (ok : Bool) (s : State) : Out :=
  if (kind ≠ 8 ∧ (kind ≠ 9 ∨ 18 ≤ loc / 256 ∨ 8 ≤ loc % 256)) ∨ s.power ≠ .on then .fault (.notEnabled "FLIT_CRC_RESEND")
  else .next (if ok then s.unitReport 0x54 kind loc else (s.lasting kind loc).dropUnreachable)

/-- A doomed block is killed. -/
def State.killDoomed (s : State) : Option State :=
  (List.range s.blocks.length).findSome? fun i => match (s.blocks[i]?).bind (·.doomed) with
    | some u => some ((s.modBlock i fun b => { b with doomed := none }).killBlock i 0x51 u.1 u.2 true)
    | none => none

/-! ### Commit drains (06: R157) -/

/-- The writes of a drain are visible: the threads go on, and the record of effects is cleared. -/
def State.drainDone (s : State) (bi : Nat) (b : Block) : State :=
  let s1 := s.blockStands bi fun b => { b with commit := [], drain := none, effects := false }
  let s2 := b.waves.foldl (fun st wi => match st.wave? wi with
    | some w => (lanesOf (w.lanesWhere fun l => decide (l.status = .inside .commit))).foldl (fun st l => st.leaveInside wi l fun _ => 0) st
    | none => st) s1
  s2.blockRetire bi
def execCommitDrainDone (bi : Nat) (s : State) : Out :=
  match s.blocks[bi]? with
  | none => .fault (.notEnabled "COMMIT_DRAIN_DONE")
  | some b =>
    match b.drain with
    | none => .fault (.notEnabled "COMMIT_DRAIN_DONE")
    | some ids => if ids.any fun i => s.openWrites.contains i then .fault (.notEnabled "COMMIT_DRAIN_DONE") else .next (s.drainDone bi b)

/-- A block whose threads have all exited drains its buffer (06: R157; 10: R192). -/
def State.exitDrain (s : State) (bi : Nat) : State :=
  match s.blocks[bi]? with
  | none => s
  | some b =>
    let ws := b.waves.filterMap fun i => s.wave? i
    if b.state = .resident ∧ b.commit ≠ [] ∧ s.draining bi b = false ∧ ws ≠ [] ∧ (ws.all fun w => w.lanes.all Lane.isExited) = true then
      s.request (b.waves.headD 0) 0 b.core none none .drain
    else s

/-! ### Register injections (15: R262) -/

/-- The injected register's cell with its bit inverted. -/
def Wave.flip (w : Wave) (j : Injection) : Wave :=
  let c := w.vcell j.reg j.lane
  w.setV j.reg j.lane { c with val := c.val ^^^ BitVec.ofNat 64 (2 ^ (j.bit % 64)) }
/-- The wave's next instruction, if its quadrant is still to issue in this cycle and would issue it. -/
def State.nextOf (s : State) (wi : Nat) : Option (LaneMask × Instr) :=
  match s.wave? wi with
  | none => none
  | some w =>
    if s.issuedQ.contains (4 * w.core + w.quadrant) then none
    else match s.choose w.core w.quadrant with
      | some (i, m, x) => if i = wi then some (m, x) else none
      | none => none
def Wave.executes (w : Wave) (m : LaneMask) (i : Instr) (l : Nat) : Bool :=
  match i.view with | some v => (w.executing m v.hdr).getLsbD l | none => false
/-- The completion of an injection, to its requester. -/
def State.injectionDone (s : State) (j : Injection) (applied : Bool) : State :=
  { s with answers := s.answers ++ [⟨j.tenant, 5, 0, if applied then 1 else 2, []⟩] }
/-- The entry of the operand cache that is valid for the injected register and lane. -/
def Wave.injectedEntry (w : Wave) (j : Injection) : Option CacheEntry :=
  w.ocache.find? fun e => decide (e.reg = j.reg) && e.valid.getLsbD j.lane
/-- The FRAME_ECC_CORRECTED record of an injection: D0 says where the bit lay when it was inverted. -/
def State.injectionReport (s : State) (w : Wave) (wi : Nat) (j : Injection) : State :=
  s.waveLog w 0x23 0 0 [if j.cached then 0 else 1, frameLoc wi w j.reg, BitVec.ofNat 64 (j.reg * 32 + j.lane)]
def State.modInjection (s : State) (k : Nat) (f : Injection → Injection) : State := { s with injections := s.injections.modify k f }

/-- An executing lane of a cohort's instruction reads the injected unit (18: R302 keeps a read across lanes in its half). -/
def State.readsInjected (s : State) (wi : Nat) (w : Wave) (m : LaneMask) (i : Instr) (j : Injection) : Bool :=
  match i.view with
  | none => false
  | some v =>
    let cx : Cx := { wi := wi, w := w, all := m, ex := w.executing m v.hdr, pc := w.pcOf m, v := v, i := i }
    (lanesOf cx.ex).any fun l => (cx.cellsRead s v.lens l).contains (j.reg, j.lane)
/-- The unit is read by something else than a wave's instruction: an operation of the array on the register, a spill of the
entry, or, of a bit in the frame, a fill or the image of an evicted block (15: R262). -/
def State.unitRead (s : State) (wi : Nat) (w : Wave) (j : Injection) : Bool :=
  let block := s.blocks[w.block]?
  let array := match block with
    | some b => b.seqOps.any fun o => decide (o.wave = some wi ∧ j.applied ≤ o.started) && o.writes.any fun r => decide (r.lane = j.lane ∧ r.target = .v j.reg)
    | none => false
  array || (if j.cached then j.dirty && (w.injectedEntry j).isNone
    else (w.injectedEntry j).isSome || (match block with | some b => decide (b.state = .evicted) | none => false))
/-- The unit is gone and nothing has read it: a clean entry that was dropped. -/
def Wave.unitGone (w : Wave) (j : Injection) : Bool := w.retired || (j.cached && !j.dirty && (w.injectedEntry j).isNone)

/-- The injection is applied at its trigger; in ECC mode its report follows the first read. -/
def execRegisterInjection (k : Nat) (s : State) : Out :=
  match s.injections[k]?, (s.injections[k]?).bind fun j => j.wave.bind s.wave? with
  | some j, some w =>
    let wi := j.wave.getD 0
    if j.done = 0 ∧ (w.retired = true ∨ (w.lane j.lane).isExited = true) then
      .next ((s.modInjection k fun j => { j with done := 2 }).injectionDone j false)
    else if j.done = 3 ∧ s.unitRead wi w j = true then .next ((s.injectionReport w wi j).modInjection k fun j => { j with done := 1 })
    else if j.done = 3 ∧ w.unitGone j = true then .next (s.modInjection k fun j => { j with done := 1 })
    else
      match s.nextOf wi with
      | none => .fault (.notEnabled "REGISTER_INJECTION")
      | some (m, i) =>
        if j.done = 0 ∧ w.pcOf m = j.pc ∧ w.executes m i j.lane = true then
          let at_ := w.injectedEntry j
          let s1 := (s.journalise wi w 0).modInjection k fun j => { j with
            done := if j.ecc then 3 else 1, applied := s.cyc, cached := at_.isSome, dirty := at_.any fun e => e.dirty.getLsbD j.lane }
          .next ((if j.ecc then s1 else s1.setWave wi (w.flip j)).injectionDone j true)
        else if j.done = 3 ∧ s.readsInjected wi w m i j = true then
          .next ((s.injectionReport w wi j).modInjection k fun j => { j with done := 1 })
        else .fault (.notEnabled "REGISTER_INJECTION")
  | _, _ => .fault (.notEnabled "REGISTER_INJECTION")

end Sys2Proof.Machine
end

