-- ==== Sys2Proof/Machine/Episodes.lean ====
section
/-! DEFINITION. The field cluster: what an episode does to its mailboxes (25: R390; 27: R404), its services and its
quantum (27: R401, R402), its watchdogs (27: R406), and CREATE, DESTROY and QUERY (27: R396 to R398). -/

namespace Sys2Proof.Machine

/-! ### Mailbox windows (25: R390) -/

/-- A store to TAKE: in PHASE 1 the mailbox becomes TAKEN and its step counter starts; it is ignored otherwise. -/
def execTake (mb _v : Nat) (s : State) : Out :=
  if 4096 ≤ mb then .fault (.notEnabled "TAKE")
  else if (s.mb mb).phase = 1 then .next ((s.setMb mb { s.mb mb with counter := 0 }).mbPhase mb 2)
  else .next s

/-- A POST write: equal to STEP in PHASE 2 it posts the observation, of which the environment alone knows the
bytes; otherwise it is ignored and sets SEQERR. -/
def execPost (mb v : Nat) (s : State) : Out :=
  if 4096 ≤ mb then .fault (.notEnabled "POST")
  else
    let m := s.mb mb
    if m.phase = 2 ∧ v % 2 ^ 32 = m.step then
      .next ((s.bump.setMb mb { m with obs := bytesMap ((List.range 4096).map fun k => Config.obsByte s.fresh k) }).mbPhase mb 3)
    else .next (s.setMb mb { m with seqErr := true })

def execSeqerrClear (mb : Nat) (s : State) : Out :=
  if 4096 ≤ mb then .fault (.notEnabled "SEQERR_CLEAR") else .next (s.setMb mb { s.mb mb with seqErr := false })

/-! ### Services and scheduling (27: R401, R402) -/

/-- The episode that runs on its core. -/
def State.running (s : State) (core : Nat) : Option Nat := if s.power = .on then (s.runQueue core).head? else none
def State.runs (s : State) (e : Nat) : Bool :=
  decide ((s.episode e).state = 2) && decide (s.running (s.episode e).core = some e)
/-- The running episode goes to the tail of its queue, with a new quantum. -/
def State.rotate (s : State) (core : Nat) : State :=
  match s.runQueue core with
  | [] => s
  | e :: rest => (s.setEpisode e { s.episode e with used := 0 }).setRunQueue core (rest ++ [e])
/-- An episode register: x10 is a0. -/
def Episode.setReg (e : Episode) (n : Nat) (v : Word) : Episode := { e with regs := SMap.set 0 e.regs n v }

def execEpisodeExit (e : Nat) (code : Word) (s : State) : Out :=
  if s.runs e then .next ((s.setEpisode e ({ s.episode e with exitCode := code }.setReg 10 code)).endEpisode e 0 (s.episode e).firstMb 0 0)
  else .fault (.notEnabled "EPISODE_EXIT")
def execEpisodeYield (e : Nat) (s : State) : Out :=
  if s.runs e then .next ((s.setEpisode e ((s.episode e).setReg 10 0)).rotate (s.episode e).core)
  else .fault (.notEnabled "EPISODE_YIELD")
/-- Service 2: with a mailbox in PHASE 1 the episode goes on at once; without, it waits and is not runnable. -/
def execEpisodeWait (e : Nat) (s : State) : Out :=
  if s.runs e then
    let ep := s.episode e
    match (List.range ep.nmb).find? fun i => (s.mb (ep.firstMb + i)).phase = 1 with
    | some k => .next (s.setEpisode e (ep.setReg 10 (BitVec.ofNat 64 k)))
    | none => .next ((s.setEpisode e { ep with waiting := true, used := 0 }).setRunQueue ep.core ((s.runQueue ep.core).filter fun x => decide (x ≠ e)))
  else .fault (.notEnabled "EPISODE_WAIT")
def execEpisodeException (e : Nat) (cause tval : Word) (s : State) : Out :=
  if s.runs e then .next (s.endEpisode e 3 (s.episode e).firstMb cause tval) else .fault (.notEnabled "EPISODE_EXCEPTION")
def execEpisodeEccError (core : Nat) (s : State) : Out :=
  match s.running core with
  | some e => if s.runs e then .next (s.endEpisode e 3 (s.episode e).firstMb 19 0) else .fault (.notEnabled "EPISODE_ECC_ERROR")
  | none => .fault (.notEnabled "EPISODE_ECC_ERROR")
def execQuantumExpiry (core : Nat) (s : State) : Out :=
  match s.running core with
  | some e => if 30000 ≤ (s.episode e).used then .next (s.rotate core) else .fault (.notEnabled "QUANTUM_EXPIRY")
  | none => .fault (.notEnabled "QUANTUM_EXPIRY")

/-! ### Watchdogs (27: R406) -/

def execStepWatchdogExpiry (e k : Nat) (s : State) : Out :=
  let ep := s.episode e
  let m := s.mb (ep.firstMb + k)
  if ep.state = 2 ∧ k < ep.nmb ∧ m.phase = 2 ∧ ep.stepLim ≠ 0 ∧ ep.stepLim ≤ m.counter then .next (s.endEpisode e 1 (ep.firstMb + k) 0 0)
  else .fault (.notEnabled "STEP_WATCHDOG_EXPIRY")
def execDeadlineExpiry (e : Nat) (s : State) : Out :=
  let ep := s.episode e
  if ep.state = 2 ∧ ep.deadline ≠ 0 ∧ ep.created + 1800 * ep.deadline ≤ s.cyc then .next (s.endEpisode e 2 ep.firstMb 0 0)
  else .fault (.notEnabled "DEADLINE_EXPIRY")
def execEpisodeReset (e : Nat) (s : State) : Out :=
  if (s.episode e).state = 2 then .next (s.endEpisode e 5 (s.episode e).firstMb 0 0) else .fault (.notEnabled "EPISODE_RESET")

/-- Field-core cycles in the cycle from `cyc` to the next: 3.0 GHz against 1800 cycles a microsecond. -/
def fieldCycles (cyc : Nat) : Nat := (cyc + 1) * 5 / 3 - cyc * 5 / 3
/-- What a running episode's cycle counts: its own cycles, its quantum, and the step counters of its mailboxes in
PHASE 2. -/
def State.countEpisode (s : State) (core : Nat) : State :=
  match s.running core with
  | none => s
  | some e =>
    let ep := s.episode e
    let n := fieldCycles s.cyc
    (List.range ep.nmb).foldl (fun (st : State) i =>
      let m := st.mb (ep.firstMb + i)
      if m.phase = 2 then st.setMb (ep.firstMb + i) { m with counter := m.counter + n } else st)
      (s.setEpisode e { ep with used := ep.used + n, cycles := ep.cycles + n })

/-! ### CREATE, DESTROY, QUERY (27: R396 to R398) -/

def wordOf (q : SvcReq) (n : Nat) : Word := q.getD n 0
/-- A field of R397 (27) breaks its table, or a mailbox may not be attached. -/
def State.createBad (s : State) (t : Nat) (q : SvcReq) : Bool :=
  let w1 := wordOf q 1
  let nmb := field w1 16 4
  let wsize := field w1 20 4
  let first := field w1 24 12
  let size := 2 ^ (16 + wsize)
  !(s.tenant t).asids.contains (field w1 0 16) || decide (nmb = 0 ∨ 8 < nmb ∨ 10 < wsize ∨ field w1 36 28 ≠ 0 ∨ (wordOf q 2).toNat % 64 ≠ 0 ∨
    size < (wordOf q 3).toNat ∨ field (wordOf q 4) 26 38 ≠ 0 ∨ (wordOf q 4).toNat % 2 ≠ 0 ∨ size ≤ (wordOf q 4).toNat ∨ wordOf q 7 ≠ 0) ||
  decide (first / 2048 ≠ (first + nmb - 1) / 2048 ∨ 4096 < first + nmb) ||
  (List.range nmb).any fun i =>
    (s.attached (first + i)).isSome || match (s.mb (first + i)).owner with
      | some (u, id) => decide (u ≠ t) || !(s.launches.any fun L => decide (L.tenant = t ∧ L.id = id) && !L.ended)
      | none => true

/-- Live episodes of a field core. -/
def State.episodesOn (s : State) (core : Nat) : Nat := (s.episodes.filter fun e => decide (e.2.state = 2 ∧ e.2.core = core)).length
/-- The field core of a die that takes a new episode. -/
def State.fieldCore (s : State) (die : Nat) : Option Nat :=
  ((List.range 64).map (64 * die + ·)).foldl (fun (b : Option Nat) c =>
    if 32 ≤ s.episodesOn c then b
    else match b with | some x => if s.episodesOn c < s.episodesOn x then some c else b | none => some c) none
def State.freeEpisode (s : State) : Option Nat := (List.range 4096).find? fun e => decide ((s.episode e).state ≠ 1 ∧ (s.episode e).state ≠ 2)

def State.createRun (s : State) (t : Nat) (q : SvcReq) : Served :=
  if s.createBad t q then (s, 4, 0, [])
  else
    let w1 := wordOf q 1
    let first := field w1 24 12
    let die := first / 2048
    let size := 2 ^ (16 + field w1 20 4)
    match s.freeEpisode, s.fieldCore die, s.freeFrames (framesOf size) (dieStacks die) with
    | some e, some core, some f =>
      (match s.devRead (field w1 0 16) true (wordOf q 2).toNat (wordOf q 3).toNat with
      | .error _ => (s, 4, 0, [])
      | .ok image =>
        let base := 4096 * f
        let s1 := (s.takeFrames f (framesOf size)).zeroFrame base size
        let s2 := { s1 with view0 := Memory.write s1.view0 base image, view1 := Memory.write s1.view1 base image }
        let ep : Episode := {
          state := 2, tenant := t, reason := 0, core := core, firstMb := first, nmb := field w1 16 4, wsize := field w1 20 4, wbase := base
          stepLim := field (wordOf q 6) 0 32, deadline := field (wordOf q 6) 32 32, created := s.cyc, exitCode := 0, waiting := false, used := 0
          pc := wordOf q 4, regs := SMap.set 0 (SMap.set 0 (SMap.set 0 [] 2 (BitVec.ofNat 64 size)) 10 0x40000000) 11 (wordOf q 5)
          cycles := 0, instret := 0 }
        ((s2.setEpisode e ep).setRunQueue core (s2.runQueue core ++ [e]), 0, BitVec.ofNat 64 e, []))
    | _, _, _ => (s, 3, 0, [])
def execCreate (t : Nat) (req : SvcReq) (s : State) : Out := serve s "CREATE" t 32 req (some (s.createRun t req))

/-- An episode number that the tenant holds. -/
def State.holdsEpisode (s : State) (t : Nat) (q : SvcReq) : Option Nat :=
  let e := (wordOf q 1).toNat
  if e < 4096 ∧ (s.episode e).state ≠ 0 ∧ (s.episode e).tenant = t then some e else none
def State.destroyRun (s : State) (t : Nat) (q : SvcReq) : Served :=
  match s.holdsEpisode t q with
  | some e => (s.endEpisode e 5 (s.episode e).firstMb 0 0, 0, 0, [])
  | none => (s, 4, 0, [])
def execDestroy (t : Nat) (req : SvcReq) (s : State) : Out := serve s "DESTROY" t 33 req (some (s.destroyRun t req))
def State.queryRun (s : State) (t : Nat) (q : SvcReq) : Served :=
  match s.holdsEpisode t q with
  | some e =>
    let ep := s.episode e
    (s, 0, BitVec.ofNat 64 (ep.state + ep.reason * 2 ^ 4 + ep.core * 2 ^ 8 + ep.exitCode.toNat % 2 ^ 32 * 2 ^ 32), [])
  | none => (s, 4, 0, [])
def execQuery (t : Nat) (req : SvcReq) (s : State) : Out := serve s "QUERY" t 34 req (some (s.queryRun t req))

end Sys2Proof.Machine
end

