-- ==== Sys2Proof/Machine/Signature.lean ====
section
/-! DEFINITION. The signature of a code object (19: R311): SHA-512 and Ed25519, as RFC 8032 defines them; and of a
quote (20: R335). The numbers of the two algorithms are the standards' own: log entry 95. -/

namespace Sys2Proof.Machine

/-! ### SHA-512 -/

def shaKeys0 : List Nat :=
  [0x428A2F98D728AE22, 0x7137449123EF65CD, 0xB5C0FBCFEC4D3B2F, 0xE9B5DBA58189DBBC,
   0x3956C25BF348B538, 0x59F111F1B605D019, 0x923F82A4AF194F9B, 0xAB1C5ED5DA6D8118,
   0xD807AA98A3030242, 0x12835B0145706FBE, 0x243185BE4EE4B28C, 0x550C7DC3D5FFB4E2,
   0x72BE5D74F27B896F, 0x80DEB1FE3B1696B1, 0x9BDC06A725C71235, 0xC19BF174CF692694]
def shaKeys1 : List Nat :=
  [0xE49B69C19EF14AD2, 0xEFBE4786384F25E3, 0x0FC19DC68B8CD5B5, 0x240CA1CC77AC9C65,
   0x2DE92C6F592B0275, 0x4A7484AA6EA6E483, 0x5CB0A9DCBD41FBD4, 0x76F988DA831153B5,
   0x983E5152EE66DFAB, 0xA831C66D2DB43210, 0xB00327C898FB213F, 0xBF597FC7BEEF0EE4,
   0xC6E00BF33DA88FC2, 0xD5A79147930AA725, 0x06CA6351E003826F, 0x142929670A0E6E70]
def shaKeys2 : List Nat :=
  [0x27B70A8546D22FFC, 0x2E1B21385C26C926, 0x4D2C6DFC5AC42AED, 0x53380D139D95B3DF,
   0x650A73548BAF63DE, 0x766A0ABB3C77B2A8, 0x81C2C92E47EDAEE6, 0x92722C851482353B,
   0xA2BFE8A14CF10364, 0xA81A664BBC423001, 0xC24B8B70D0F89791, 0xC76C51A30654BE30,
   0xD192E819D6EF5218, 0xD69906245565A910, 0xF40E35855771202A, 0x106AA07032BBD1B8]
def shaKeys3 : List Nat :=
  [0x19A4C116B8D2D0C8, 0x1E376C085141AB53, 0x2748774CDF8EEB99, 0x34B0BCB5E19B48A8,
   0x391C0CB3C5C95A63, 0x4ED8AA4AE3418ACB, 0x5B9CCA4F7763E373, 0x682E6FF3D6B2B8A3,
   0x748F82EE5DEFB2FC, 0x78A5636F43172F60, 0x84C87814A1F0AB72, 0x8CC702081A6439EC,
   0x90BEFFFA23631E28, 0xA4506CEBDE82BDE9, 0xBEF9A3F7B2C67915, 0xC67178F2E372532B]
def shaKeys4 : List Nat :=
  [0xCA273ECEEA26619C, 0xD186B8C721C0C207, 0xEADA7DD6CDE0EB1E, 0xF57D4F7FEE6ED178,
   0x06F067AA72176FBA, 0x0A637DC5A2C898A6, 0x113F9804BEF90DAE, 0x1B710B35131C471B,
   0x28DB77F523047D84, 0x32CAAB7B40C72493, 0x3C9EBE0A15C9BEBC, 0x431D67C49C100D4C,
   0x4CC5D4BECB3E42B6, 0x597F299CFC657E2A, 0x5FCB6FAB3AD6FAEC, 0x6C44198C4A475817]
/-- The constants of the 80 rounds. -/
def shaKeys : List Nat := shaKeys0 ++ shaKeys1 ++ shaKeys2 ++ shaKeys3 ++ shaKeys4
/-- The hash value before the first block. -/
def shaStart : List Nat :=
  [0x6A09E667F3BCC908, 0xBB67AE8584CAA73B, 0x3C6EF372FE94F82B, 0xA54FF53A5F1D36F1,
   0x510E527FADE682D1, 0x9B05688C2B3E6C1F, 0x1F83D9ABFB41BD6B, 0x5BE0CD19137E2179]

def rotr64 (x n : Nat) : Nat := x / 2 ^ n + x % 2 ^ n * 2 ^ (64 - n)
def shaSigma0 (x : Nat) : Nat := rotr64 x 28 ^^^ rotr64 x 34 ^^^ rotr64 x 39
def shaSigma1 (x : Nat) : Nat := rotr64 x 14 ^^^ rotr64 x 18 ^^^ rotr64 x 41
def shaMix0 (x : Nat) : Nat := rotr64 x 1 ^^^ rotr64 x 8 ^^^ x / 2 ^ 7
def shaMix1 (x : Nat) : Nat := rotr64 x 19 ^^^ rotr64 x 61 ^^^ x / 2 ^ 6

/-- A number of big-endian bytes. -/
def beNat (bs : List Byte) : Nat := bs.foldl (fun n b => 256 * n + b.toNat) 0
def natBe (n x : Nat) : List Byte := (natLe n x).reverse
/-- The message padded to whole blocks of 128 bytes. -/
def shaPad (bs : List Byte) : List Byte :=
  bs ++ 0x80 :: List.replicate ((239 - bs.length % 128) % 128) 0 ++ natBe 16 (8 * bs.length)
/-- The next `n` words of a schedule from its last sixteen. -/
def shaExpand : Nat → List Nat → List Nat
  | n + 1, a :: b :: w => a :: shaExpand n (b :: w ++ [(shaMix1 (w.getD 12 0) + w.getD 7 0 + shaMix0 b + a) % 2 ^ 64])
  | _, _ => []
/-- The 80 words of a block's schedule. -/
def shaSchedule (block : List Byte) : List Nat :=
  shaExpand 80 ((List.range 16).map fun i => beNat ((block.drop (8 * i)).take 8))
/-- One round on the eight working words. -/
def shaRound (v : List Nat) (kw : Nat × Nat) : List Nat :=
  match v with
  | [a, b, c, d, e, f, g, h] =>
    let t := h + shaSigma1 e + ((e &&& f) ^^^ ((2 ^ 64 - 1 - e) &&& g)) + kw.1 + kw.2
    let u := shaSigma0 a + ((a &&& b) ^^^ (a &&& c) ^^^ (b &&& c))
    [(t + u) % 2 ^ 64, a, b, c, (d + t) % 2 ^ 64, e, f, g]
  | v => v
def shaBlock (v : List Nat) (block : List Byte) : List Nat :=
  ((shaKeys.zip (shaSchedule block)).foldl shaRound v).zipWith (fun x y => (x + y) % 2 ^ 64) v
/-- The digest of 64 bytes. -/
def sha512 (bs : List Byte) : List Byte :=
  let m := shaPad bs
  ((List.range (m.length / 128)).foldl (fun v i => shaBlock v ((m.drop (128 * i)).take 128)) shaStart).flatMap (natBe 8)

/-! ### Ed25519 -/

/-- The field, the group order and the curve's constant. -/
def edP : Nat := 2 ^ 255 - 19
def edL : Nat := 2 ^ 252 + 27742317777372353535851937790883648493
/-- A power modulo a number, by the bits of the exponent from the highest. -/
def powMod (m b e : Nat) : Nat :=
  (List.range 256).foldl (fun r i => let q := r * r % m; if e.testBit (255 - i) then q * b % m else q) 1
def edInv (x : Nat) : Nat := powMod edP x (edP - 2)
def edD : Nat := (edP - 121665) * edInv 121666 % edP

/-- A point in extended coordinates X, Y, Z, T. -/
abbrev EdPoint := Nat × Nat × Nat × Nat
def edZero : EdPoint := (0, 1, 1, 0)
/-- The complete sum of two points. -/
def edAdd (p q : EdPoint) : EdPoint :=
  let a := (p.2.1 + edP - p.1) * (q.2.1 + edP - q.1) % edP
  let b := (p.2.1 + p.1) * (q.2.1 + q.1) % edP
  let c := 2 * p.2.2.2 * q.2.2.2 % edP * edD % edP
  let d := 2 * p.2.2.1 * q.2.2.1 % edP
  let e := b + edP - a
  let f := d + edP - c
  let g := d + c
  let h := b + a
  (e * f % edP, g * h % edP, f * g % edP, e * h % edP)
/-- A multiple of a point, by the bits of the scalar from the highest. -/
def edMul (k : Nat) (p : EdPoint) : EdPoint :=
  (List.range 256).foldl (fun r i => let q := edAdd r r; if k.testBit (255 - i) then edAdd q p else q) edZero
/-- Two points are one. -/
def edEq (p q : EdPoint) : Bool :=
  decide (p.1 * q.2.2.1 % edP = q.1 * p.2.2.1 % edP ∧ p.2.1 * q.2.2.1 % edP = q.2.1 * p.2.2.1 % edP)
/-- A point from its 32 bytes: y, and the lowest bit of x at the top; none when there is no such point. -/
def edPoint (bs : List Byte) : Option EdPoint :=
  let n := leNat bs
  let y := n % 2 ^ 255
  let sign := n / 2 ^ 255
  let u := (y * y + edP - 1) % edP
  let v := (edD * y % edP * y + 1) % edP
  let x2 := u * edInv v % edP
  let r := powMod edP x2 ((edP + 3) / 8)
  let x := if r * r % edP = x2 then r else r * powMod edP 2 ((edP - 1) / 4) % edP
  if edP ≤ y ∨ x * x % edP ≠ x2 ∨ (x = 0 ∧ sign = 1) then none
  else
    let x := if x % 2 = sign then x else edP - x
    some (x, y, 1, x * y % edP)
/-- The base point: y = 4/5, x even. -/
def edBase : Option EdPoint := edPoint (natLe 32 (4 * edInv 5 % edP))
/-- A signature of 64 bytes over a message verifies under a public key of 32 bytes. -/
def edVerify (key msg sig : List Byte) : Bool :=
  let s := leNat (sig.drop 32)
  match edPoint key, edPoint (sig.take 32), edBase with
  | some a, some r, some b =>
    decide (s < edL) && edEq (edMul s b) (edAdd r (edMul (leNat (sha512 (sig.take 32 ++ key ++ msg)) % edL) a))
  | _, _, _ => false

/-- The 32 bytes of a point: y, and the lowest bit of x at the top. -/
def edBytes (p : EdPoint) : List Byte :=
  let z := edInv p.2.2.1
  natLe 32 (p.2.1 * z % edP + p.1 * z % edP % 2 * 2 ^ 255)
/-- The signature of a message under a private key of 32 bytes. -/
def edSign (key msg : List Byte) : List Byte :=
  let h := sha512 key
  let a := leNat (h.take 32) % 2 ^ 254 / 8 * 8 + 2 ^ 254
  let b := edBase.getD edZero
  let pub := edBytes (edMul a b)
  let r := leNat (sha512 (h.drop 32 ++ msg)) % edL
  let R := edBytes (edMul r b)
  R ++ natLe 32 ((r + leNat (sha512 (R ++ pub ++ msg)) % edL * a) % edL)

end Sys2Proof.Machine
end

