-- ==== Sys2Proof/Machine/Objects.lean ====
section
/-! DEFINITION. Code objects (19: R307 to R313): the container as an ELF64 file, its notes, cartouches and
relocations, the order of the load checks, and what a load writes. The numbers of the ELF64 format itself are the
format's own: log entry 41. -/

namespace Sys2Proof.Machine

/-! ### The container (19: R307) -/

/-- `n` bytes of a file as a number. -/
def fileNat (f : List Byte) (off n : Nat) : Nat := leNat ((f.drop off).take n)

/-- A section header. -/
structure Section where
  name : String
  kind : Nat
  flags : Nat
  addr : Nat
  off : Nat
  size : Nat
  link : Nat
  info : Nat
deriving DecidableEq, Repr

/-- A zero-terminated name in a string table. -/
def nameAt (f : List Byte) (off : Nat) : String :=
  String.ofList (((f.drop off).takeWhile fun b => decide (b ≠ 0)).map fun b => Char.ofNat b.toNat)

def sectionCount (f : List Byte) : Nat := fileNat f 60 2
/-- Field of section header `i`. -/
def sectionNat (f : List Byte) (i off n : Nat) : Nat := fileNat f (fileNat f 40 8 + 64 * i + off) n
/-- The section headers, named through the table of section names. -/
def sections (f : List Byte) : List Section :=
  let names := sectionNat f (fileNat f 62 2) 24 8
  (List.range (sectionCount f)).map fun i =>
    let g := sectionNat f i
    ⟨nameAt f (names + g 0 4), g 4 4, g 8 8, g 16 8, g 24 8, g 32 8, g 40 4, g 44 4⟩

/-- The sections R307 names. -/
def sectionNames : List String :=
  [".text", ".rodata", ".data", ".bss", ".symtab", ".strtab", ".rela.text", ".rela.data", ".note.kryndorik"]
def findSection (f : List Byte) (name : String) : Option Section := (sections f).find? fun x => x.name = name
/-- The bytes of a section of the file. -/
def Section.bytes (x : Section) (f : List Byte) : List Byte := if x.kind = 8 then [] else (f.drop x.off).take x.size

/-- The identification, and every section named by R307 and inside the file. -/
def containerOk (f : List Byte) : Bool :=
  decide (64 ≤ f.length ∧ fileNat f 0 4 = 0x464C457F ∧ fileNat f 4 1 = 2 ∧ fileNat f 5 1 = 1 ∧ fileNat f 7 1 = 0 ∧ fileNat f 8 1 = 0 ∧
    fileNat f 16 2 = 3 ∧ fileNat f 18 2 = 0x4A39 ∧ fileNat f 48 4 = 0 ∧ fileNat f 40 8 + 64 * sectionCount f ≤ f.length) &&
  (sections f).all fun x => decide (x.kind = 0) ||
    (sectionNames.contains x.name && (decide (x.kind = 8) || decide (x.off + x.size ≤ f.length)) &&
      (decide (x.name ≠ ".text") || x.flags.testBit 2) && (decide (x.name ≠ ".note.kryndorik") || decide (x.kind = 7)))

/-! ### Notes (19: R309) -/

def pad4 (n : Nat) : Nat := (n + 3) / 4 * 4
/-- The notes of a section: type and descriptor; none where one breaks off or has another name. -/
def notesOf : Nat → List Byte → Option (List (Nat × List Byte))
  | 0, _ => none
  | fuel + 1, bs =>
    if bs.isEmpty then some []
    else
      let nameLen := leNat (bs.take 4)
      let len := leNat ((bs.drop 4).take 4)
      let kind := leNat ((bs.drop 8).take 4)
      let rest := bs.drop 12
      if bs.length < 12 + pad4 nameLen + pad4 len ∨ nameAt rest 0 ≠ "KRYNDORIK" ∨ nameLen ≠ 10 then none
      else (notesOf fuel (rest.drop (pad4 nameLen + pad4 len))).map fun l => (kind, (rest.drop (pad4 nameLen)).take len) :: l

def objectNotes (f : List Byte) : Option (List (Nat × List Byte)) :=
  (findSection f ".note.kryndorik").bind fun x => notesOf (f.length + 1) (x.bytes f)
/-- The counts, lengths and order of R309. -/
def notesOk (ns : List (Nat × List Byte)) : Bool :=
  let of := fun k => ns.filter fun p => decide (p.1 = k)
  (ns.all fun p => decide (1 ≤ p.1 ∧ p.1 ≤ 4)) && decide ((of 2).length = 1 ∧ (of 3).length = 1 ∧ (of 4).length ≤ 1) &&
  decide ((ns.getLast?.map (·.1)) = some 3) &&
  (of 2).all (fun p => decide (p.2.length = 8 ∧ (fileNat p.2 2 1 = 16 ∨ fileNat p.2 2 1 = 32) ∧ fileNat p.2 3 5 = 0)) &&
  (of 3).all (fun p => decide (p.2.length = 72 ∧ fileNat p.2 4 4 = 0)) && (of 4).all fun p => decide (p.2.length % 8 = 0)
def noteOf (ns : List (Nat × List Byte)) (k : Nat) : List Byte := ((ns.find? fun p => p.1 = k).map (·.2)).getD []

/-! ### Cartouches (19: R310) -/

/-- A group record. -/
def groupOf (w : Nat) : GroupRec := ⟨fld w 0 8, fld w 8 5, fld w 13 5, fld w 32 32⟩
def groupOk (w : Nat) : Bool := decide (fld w 8 5 ≤ fld w 13 5 ∧ fld w 18 14 = 0)
/-- A pipe binding. -/
def pipeOk (w : Nat) : Bool := decide (fld w 2 6 = 0 ∧ fld w 12 20 = 0 ∧ fld w 8 4 ≤ 8)
/-- The group records' words. -/
def groupWords (d : List Byte) : List Nat := (List.range (fileNat d 44 2)).map fun i => fileNat d (fileNat d 40 4 + 8 * i) 8

/-- The ranges of the table of R310. -/
def cartoucheOk (d : List Byte) : Bool :=
  let w := fun (k : Nat) => fileNat d (8 * k) 8
  let frame := fld (w 2) 16 11
  let maxframe := fld (w 2) 32 11
  let commit := fld (w 3) 32 5
  decide (192 ≤ d.length ∧ fld (w 0) 9 55 = 0 ∧ w 1 % 4 = 0) &&
  decide (fld (w 2) 5 11 = 0 ∧ fld (w 2) 27 5 = 0 ∧ fld (w 2) 43 21 = 0 ∧ frame % 16 = 0 ∧ 16 ≤ frame ∧ frame ≤ 1024 ∧
    maxframe % 16 = 0 ∧ frame ≤ maxframe ∧ maxframe ≤ 1024) &&
  decide (fld (w 3) 10 6 = 0 ∧ fld (w 3) 25 7 = 0 ∧ fld (w 3) 37 3 = 0 ∧ fld (w 3) 44 20 = 0 ∧ fld (w 3) 0 10 ≤ 768 ∧ fld (w 3) 16 9 ≤ 256 ∧
    commit ≤ 16 ∧ fld (w 3) 40 4 ≤ 8) && (decide (commit ≠ 0) == (w 0).testBit 4) &&
  decide (fld (w 5) 48 16 = 0 ∧ fld (w 6) 13 19 = 0 ∧ fld (w 6) 0 13 ≤ 4096 ∧ fld (w 7) 32 32 = 0) &&
  ((List.range 16).all fun i => pipeOk (w (8 + i))) &&
  decide (fileNat d 44 2 = 0 ∨ fileNat d 40 4 + 8 * fileNat d 44 2 ≤ d.length) && (groupWords d).all groupOk

/-- Waves per block of a kernel: a source of width 16 has its n waves in ceil(n / 2) of 32 lanes (18: R305). -/
def wavesOf (narrow : Bool) (d : List Byte) : Nat := let n := fld (fileNat d 16 8) 0 5 + 1; if narrow then (n + 1) / 2 else n
/-- A group record of such a source: its waves 2k and 2k + 1 are wave k. -/
def GroupRec.narrowed (narrow : Bool) (g : GroupRec) : GroupRec :=
  if narrow then { g with wfirst := g.wfirst / 2, wlast := g.wlast / 2 } else g
def GroupRec.word (g : GroupRec) : Nat := g.entry + g.wfirst * 2 ^ 8 + g.wlast * 2 ^ 13 + g.block * 2 ^ 32
/-- The record the chart core keeps of a cartouche. -/
def cartoucheOf (tenant object addr entry mstream : Nat) (narrow : Bool) (d : List Byte) : Cartouche :=
  let w := fun (k : Nat) => fileNat d (8 * k) 8
  { addr := addr, tenant := tenant, object := object
    compat16 := (w 0).testBit 0 || narrow, progOff := (w 0).testBit 1, forerunner := (w 0).testBit 2, idempotent := (w 0).testBit 3
    contained := (w 0).testBit 4, mirror := (w 0).testBit 5, checkstall := (w 0).testBit 6, role := fld (w 0) 7 2
    entry := entry, waves := wavesOf narrow d, frame := fld (w 2) 16 11, maxframe := fld (w 2) 32 11, scratchG := fld (w 3) 0 10
    tiles := fld (w 3) 16 9, commitG := fld (w 3) 32 5, ncap := fld (w 3) 40 4, mstream := mstream
    groups := (groupWords d).map fun g => (groupOf g).narrowed narrow, mboxn := fld (w 6) 0 13, gangsym := fld (w 7) 0 32
    pipes := (List.range 16).filterMap fun i =>
      let p := w (8 + i)
      if p.testBit 0 then some ⟨i, p.testBit 1, fld p 8 4, fld p 32 32⟩ else none }
/-! ### Symbols and relocations (19: R308) -/

structure Symbol where
  name : String
  defined : Bool
  value : Nat
deriving DecidableEq, Repr

def objectSymbols (f : List Byte) : List Symbol :=
  match findSection f ".symtab" with
  | none => []
  | some x =>
    let names := ((findSection f ".strtab").map (·.off)).getD 0
    (List.range (x.size / 24)).map fun i =>
      let o := x.off + 24 * i
      ⟨nameAt f (names + fileNat f o 4), decide (fileNat f (o + 6) 2 ≠ 0), fileNat f (o + 8) 8⟩

structure Reloc where
  at_ : Nat
  kind : Nat
  sym : Nat
  addend : Int
deriving DecidableEq, Repr

def objectRelocs (f : List Byte) : List Reloc :=
  [".rela.text", ".rela.data"].flatMap fun n =>
    match findSection f n with
    | none => []
    | some x => (List.range (x.size / 24)).map fun i =>
        let o := x.off + 24 * i
        ⟨fileNat f o 8, fileNat f (o + 8) 4, fileNat f (o + 12) 4, sext 64 (fileNat f (o + 16) 8)⟩

/-- The translated address of an address of the file. -/
def placeOf (base n a : Nat) : Nat := base + Config.translatedPlace n a
/-- S + A, with the symbol's translated address. -/
def Reloc.target (r : Reloc) (f : List Byte) (base n : Nat) : Int :=
  (match (objectSymbols f)[r.sym]? with | some y => (placeOf base n y.value : Int) | none => 0) + r.addend
/-- The imm32 of a PCWORD, when it is one. -/
def Reloc.pcWord (r : Reloc) (f : List Byte) (base n : Nat) : Option Nat :=
  let d := r.target f base n - placeOf base n r.at_
  if d % 4 = 0 ∧ -(2 ^ 31) ≤ d / 4 ∧ d / 4 < 2 ^ 31 then some (wrap 32 (d / 4)) else none
/-- A relocation that R312 refuses. -/
def Reloc.bad (r : Reloc) (f : List Byte) (base n : Nat) : Bool :=
  match (objectSymbols f)[r.sym]? with
  | none => true
  | some y =>
    if r.kind = 5 then false
    else !y.defined || decide (r.kind = 0 ∨ 5 < r.kind) || (decide (r.kind = 2) && (r.pcWord f base n).isNone)

/-- Writes bytes over a list from an offset. -/
def overlayAt (bs : List Byte) (off : Nat) (new : List Byte) : List Byte :=
  bs.mapIdx fun i b => if off ≤ i ∧ i < off + new.length then new.getD (i - off) 0 else b
/-- Sets imm32 of the L-form word at an offset (01: R26). -/
def patchImm (bs : List Byte) (off imm : Nat) : List Byte :=
  let x := leNat ((bs.drop off).take 12)
  overlayAt bs off (natLe 12 (x - fld x 7 32 * 2 ^ 7 + imm % 2 ^ 32 * 2 ^ 7))
/-- Applies a relocation to the translated bytes. -/
def Reloc.apply (r : Reloc) (f : List Byte) (base n : Nat) (bs : List Byte) : List Byte :=
  let off := Config.translatedPlace n r.at_
  let v := wrap 64 (r.target f base n)
  match r.kind with
  | 1 => overlayAt bs off (natLe 8 v)
  | 2 => patchImm bs off ((r.pcWord f base n).getD 0)
  | 3 => patchImm bs off (v % 2 ^ 32)
  | 4 => patchImm bs off (v / 2 ^ 32)
  | _ => overlayAt bs off (natLe 8 (r.sym * 4 + 1))

/-- The copy of a cartouche in the destination region, with the group records. -/
def cartoucheCopy (entry mstream : Nat) (narrow : Bool) (d : List Byte) : List Byte :=
  let w0 := fileNat d 0 8
  let w2 := fileNat d 16 8
  let head := natLe 8 (if narrow && !w0.testBit 0 then w0 + 1 else w0) ++ natLe 8 entry ++
    natLe 8 (w2 - fld w2 0 5 + (wavesOf narrow d - 1)) ++ (d.drop 24).take 8 ++ natLe 8 mstream ++ d.drop 40
  (List.range (groupWords d).length).foldl (fun bs i =>
    overlayAt bs (fileNat d 40 4 + 8 * i) (natLe 8 ((groupOf ((groupWords d).getD i 0)).narrowed narrow).word)) head

/-! ### What a load writes (19: R313) -/

/-- Places a section's bytes, or zeros for `.bss`, whatever the file holds for it. -/
def placeSection (f : List Byte) (n : Nat) (bs : List Byte) (name : String) : List Byte :=
  match findSection f name with
  | none => bs
  | some x =>
    let new := if name = ".bss" ∨ x.kind = 8 then List.replicate x.size 0 else x.bytes f
    overlayAt bs (Config.translatedPlace n x.addr) new
/-- The cartouche descriptors of an object. -/
def objectCarts (ns : List (Nat × List Byte)) : List (List Byte) := (ns.filter fun p => decide (p.1 = 1)).map (·.2)
def narrowOf (ns : List (Nat × List Byte)) : Bool := decide (fileNat (noteOf ns 2) 2 1 = 16)
/-- Where the translated `.rodata` ends, as an offset in the destination. -/
def rodataEnd (f : List Byte) (n : Nat) : Nat :=
  match findSection f ".rodata" with | some x => Config.translatedPlace n x.addr + x.size | none => 0
/-- The offset of the k-th cartouche: after `.rodata`, at an address that is a multiple of 64. -/
def cartoucheOff (f : List Byte) (base n k : Nat) : Nat := (base + rodataEnd f n + 63) / 64 * 64 + 64 * Config.cartouchePlace n k - base
def cartoucheAt (f : List Byte) (base n k : Nat) : Nat := base + cartoucheOff f base n k
/-- ENTRY and MSTREAM of a cartouche. -/
def entryAt (base n : Nat) (d : List Byte) : Nat := placeOf base n (fileNat d 8 8)
def mstreamAt (base n : Nat) (d : List Byte) : Nat := if fileNat d 32 8 = 0 then 0 else placeOf base n (fileNat d 32 8)
def placeCarts (f : List Byte) (base n : Nat) (narrow : Bool) (ds : List (List Byte)) (bs : List Byte) : List Byte :=
  (List.range ds.length).foldl (fun bs k =>
    let d := ds.getD k []
    overlayAt bs (cartoucheOff f base n k) (cartoucheCopy (entryAt base n d) (mstreamAt base n d) narrow d)) bs
/-- How much of the destination the translated object takes: every cartouche's end at least. -/
def translatedLen (f : List Byte) (ns : List (Nat × List Byte)) (base n : Nat) : Nat :=
  let ds := objectCarts ns
  (List.range ds.length).foldl (fun m k => max m (cartoucheOff f base n k + (ds.getD k []).length)) (max (Config.translatedSize n) (rodataEnd f n))
/-- The translated object. What becomes of the words of `.text` is free: the manual does not give the portable encoding
(log entry 71). -/
def translate (f : List Byte) (ns : List (Nat × List Byte)) (base n : Nat) : List Byte :=
  let b0 := (List.range (translatedLen f ns base n)).map (Config.translatedByte n)
  let b1 := [".rodata", ".data", ".bss"].foldl (placeSection f n) b0
  let b2 := placeCarts f base n (narrowOf ns) (objectCarts ns) b1
  (objectRelocs f).foldl (fun bs r => r.apply f base n bs) b2

/-! ### LOAD_OBJECT and UNLOAD_OBJECT (19: R312, R313) -/

/-- BINDTAB lists the symbol of each CELL relocation, in relocation order (19: R309). -/
def bindTabOk (f : List Byte) (ns : List (Nat × List Byte)) : Bool :=
  let tab := noteOf ns 4
  decide (((List.range (tab.length / 8)).map fun i => fileNat tab (8 * i) 8) = ((objectRelocs f).filter fun r => decide (r.kind = 5)).map (·.sym))
/-- The file with its 64 signature bytes taken as zero: they end the last note of the note section (19: R309, R311). -/
def signedBytes (f : List Byte) : List Byte :=
  match findSection f ".note.kryndorik" with
  | some x => overlayAt f (x.off + x.size - 64) (List.replicate 64 0)
  | none => f
/-- The signature verifies under a key, over the digest of the whole file (19: R311). -/
def signatureOk (f : List Byte) (ns : List (Nat × List Byte)) (key : Nat) : Bool :=
  edVerify (natLe 32 key) (sha512 (signedBytes f)) ((noteOf ns 3).drop 8)
/-- The destination is mapped writable, all of it (19: R312). -/
def State.destinationOk (s : State) (asid base len : Nat) : Bool :=
  match s.walk asid true base len .store with | .ok _ => true | .error _ => false
/-- Why a load of a file is refused; 0 when it is not. A signature can fail only under a key: of an empty slot the status
is 3. -/
def State.loadStatus (s : State) (t asid : Nat) (f : List Byte) (base len n : Nat) : Nat :=
  match (if containerOk f then objectNotes f else none) with
  | none => 1
  | some ns =>
    if !notesOk ns || !bindTabOk f ns then 1
    else
      let slot := fileNat (noteOf ns 3) 0 4
      let key := if slot < 8 then SMap.get 0 (s.tenant t).keys slot else 0
      let ver := fileNat (noteOf ns 2) 0 2
      if key ≠ 0 ∧ signatureOk f ns key = false then 2
      else if key = 0 then 3
      else if ver < 5 ∨ 9 < ver then 4
      else if (objectCarts ns).any fun d => !cartoucheOk d then 5
      else if (objectRelocs f).any fun r => r.bad f base n then 6
      else if len < translatedLen f ns base n ∨ s.destinationOk asid base len = false then 7 else 0

/-- Arguments: the file's address and length, the destination's address and length, the ASID. -/
def State.loadRun (s : State) (t : Nat) (q : SvcReq) : Served :=
  let w := fun k => (wordOf q k).toNat
  let base := w 3
  let n := s.fresh
  match (if (s.tenant t).asids.contains (w 5) then s.devRead (w 5) true (w 1) (w 2) else .error ⟨0, 0, 0⟩) with
  | .error _ => (s, 1, 0, [])
  | .ok f =>
    let st := s.loadStatus t (w 5) f base (w 4) n
    let ns := (objectNotes f).getD []
    if st ≠ 0 then (s, st, 0, [])
    else
      match s.bump.devWrite (w 5) true base (translate f ns base n) with
      | .error _ => (s, 7, 0, [])
      | .ok s1 =>
        let ds := objectCarts ns
        let carts := (List.range ds.length).map fun k =>
          let d := ds.getD k []
          cartoucheOf t base (cartoucheAt f base n k) (entryAt base n d) (mstreamAt base n d) (narrowOf ns) d
        let s2 := s1.modTenant t fun x => { x with objects := x.objects ++ [(base, n, f)] }
        ({ s2 with carts := s2.carts ++ carts }, 0, BitVec.ofNat 64 base, carts.map fun c => BitVec.ofNat 64 c.addr)
def execLoadObject (t : Nat) (req : SvcReq) (s : State) : Out := serve s "LOAD_OBJECT" t 1 req (some (s.loadRun t req))

/-- Argument: the base address. The object's kernels are no longer sources for CART; launches made run on. -/
def State.unloadRun (s : State) (t : Nat) (q : SvcReq) : Served :=
  let base := (wordOf q 1).toNat
  if (s.tenant t).objects.any fun o => decide (o.1 = base) then
    let s1 := s.modTenant t fun x => { x with objects := x.objects.filter fun o => decide (o.1 ≠ base) }
    ({ s1 with carts := s1.carts.filter fun c => !decide (c.tenant = t ∧ c.object = base) }, 0, 0, [])
  else (s, 1, 0, [])
def execUnloadObject (t : Nat) (req : SvcReq) (s : State) : Out := serve s "UNLOAD_OBJECT" t 2 req (some (s.unloadRun t req))

/-! ### BIND_SERVICE (19: R314; 04: R100) -/

/-- The object whose translated bytes a cell lies in. -/
def State.objectAt (s : State) (t va : Nat) : Option (Nat × Nat × List Byte) :=
  (s.tenant t).objects.find? fun o => decide (o.1 ≤ va ∧ va < o.1 + translatedLen o.2.2 ((objectNotes o.2.2).getD []) o.1 o.2.1)
/-- The symbol that an index means in the object that holds a cell, by BINDTAB: its object and the symbol. -/
def State.cellSymbol (s : State) (t va index : Nat) : Option ((Nat × Nat × List Byte) × Symbol) :=
  (s.objectAt t va).bind fun o =>
    let tab := noteOf ((objectNotes o.2.2).getD []) 4
    if (List.range (tab.length / 8)).any fun i => decide (fileNat tab (8 * i) 8 = index) then
      ((objectSymbols o.2.2)[index]?).map fun y => (o, y)
    else none
/-- Where a name is defined in the tenant's loaded objects. -/
def State.definedAt (s : State) (t : Nat) (name : String) : Option Nat :=
  (s.tenant t).objects.findSome? fun o =>
    ((objectSymbols o.2.2).find? fun z => decide (z.name = name) && z.defined).map fun z => placeOf o.1 o.2.1 z.value
/-- The target of a symbol index: the object's own symbol, or the one of that name in another loaded object, or in the object
that the translator then loads for it, which object and where being its own choice (log entry 71). -/
def State.resolveSymbol (s : State) (t va index : Nat) : State × Option Nat :=
  match s.cellSymbol t va index with
  | none => (s, none)
  | some (o, y) =>
    if y.defined then (s, some (placeOf o.1 o.2.1 y.value))
    else match s.definedAt t y.name, Config.objectFor s.fresh y.name with
      | some a, _ => (s, some a)
      | none, none => (s, none)
      | none, some q => let r := s.bump.loadRun t q; (r.1, r.1.definedAt t y.name)

/-- The translator writes a cell that asks for it, bound or failed; one that is bound or failed already keeps what it holds, so
that two requests for one cell resolve alike (19: R314). -/
def State.bindCell (s : State) (t asid va : Nat) : State :=
  match s.devRead asid true va 8 with
  | .error _ => s
  | .ok bs =>
    let c := leNat bs
    if c % 4 = 0 ∨ c % 4 = 3 then s
    else
      let r := s.resolveSymbol t va (c / 4)
      match r.1.devWrite asid true va (natLe 8 (match r.2 with | some a => a / 4 * 4 | none => c / 4 * 4 + 3)) with
      | .ok s2 => s2
      | .error _ => r.1
/-- The translator takes the request at HEAD: the cell becomes bound or failed, and HEAD rises. -/
def State.bindNext (s : State) (t : Nat) : Option State :=
  let tn := s.tenant t
  let r := tn.bindRing
  if tn.live = false ∨ r.log2n = 0 then none
  else
    match s.ringWord r (r.base + 8), s.ringWord r (r.slotVa tn.bindHead), s.ringWord r (r.slotVa tn.bindHead + 8) with
    | some tail, some va, some id =>
      if tail ≤ tn.bindHead then none
      else
        let asid := ((s.launches.find? fun L => decide (L.tenant = t ∧ L.id = id)).map (·.asid)).getD r.asid
        let s1 := s.bindCell t asid va
        let s2 := s1.modTenant t fun x => { x with bindHead := x.bindHead + 1 }
        some (s2.ringPut r r.base (natLe 8 (tn.bindHead + 1)))
    | _, _, _ => none
def execBindService (t : Nat) (s : State) : Out :=
  match s.bindNext t with
  | some s1 => .next s1
  | none => .fault (.notEnabled "BIND_SERVICE")

end Sys2Proof.Machine
end

