-- ==== Sys2Proof/Machine/Services.lean ====
section
/-! DEFINITION. The other services of the service ring (20: R334): collective windows (20: R329), the debug service
(17: R293; 15: R262; 10: R207; 08: R180), quotes (20: R335), and requests that the chart core takes from the ring
itself. The manual does not lay out their arguments: log entry 42. -/

namespace Sys2Proof.Machine

/-! ### COLLECTIVE_WINDOW (20: R329) -/

def redOpOf (n : Nat) : Option RedOp := match n with | 0 => some .add | 1 => some .min | 2 => some .max | _ => none
/-- Word 1: [15:0] ASID, [16] unmap, [18:17] operation, [19] BF16, [20] MEAN, [31:24] device group; words 2 to 4: the
window's address and length, and the destination buffer. -/
def State.windowRun (s : State) (t : Nat) (q : SvcReq) : Served :=
  let w1 := wordOf q 1
  let asid := field w1 0 16
  let base := (wordOf q 2).toNat
  let len := (wordOf q 3).toNat
  if !(s.tenant t).asids.contains asid then (s, 1, 0, [])
  else if w1.getLsbD 16 then
    if s.windows.any fun x => decide (x.tenant = t ∧ x.asid = asid ∧ x.base = base ∧ 0 < x.len) then
      ({ s with windows := s.windows.map fun x =>
          if x.tenant = t ∧ x.asid = asid ∧ x.base = base then { x with len := 0 } else x }, 0, wordOf q 2, [])
    else (s, 1, 0, [])
  else
    match redOpOf (field w1 17 2), s.groups.find? fun g => decide (g.g = field w1 24 8) with
    | some op, some g =>
      ({ s with windows := s.windows ++ [⟨t, asid, base, len, g.g, op, w1.getLsbD 19, w1.getLsbD 20, (wordOf q 4).toNat, 0⟩] },
        0, wordOf q 2, [])
    | _, _ => (s, 1, 0, [])
def execCollectiveWindow (t : Nat) (req : SvcReq) (s : State) : Out := serve s "COLLECTIVE_WINDOW" t 3 req (some (s.windowRun t req))

/-! ### The debug service -/

/-- A wave stopped at a BRK goes on where it stands: outside a handler all its lanes, inside one the handler's. -/
def Wave.resumeBrk (w : Wave) : Wave :=
  if !w.stoppedBrk then w
  else { w with stoppedBrk := false, lanes := w.lanes.mapIdx fun i l =>
    if l.isExited then l else if w.inHandler && !w.tlanes.getLsbD i then l else { l with held := false } }
/-- Word 1: the launch; word 2: 0 detach, 1 attach, 2 resume. -/
def State.debugRun (s : State) (t : Nat) (q : SvcReq) : Served :=
  match s.launchIx t (wordOf q 1), (wordOf q 2).toNat with
  | some li, 0 => (s.modLaunch li fun L => { L with debugger := false }, 0, 0, [])
  | some li, 1 => (s.modLaunch li fun L => { L with debugger := true }, 0, 0, [])
  | some li, 2 => ({ s with waves := s.waves.map fun w => if w.launch = li then w.resumeBrk else w }, 0, 0, [])
  | _, _ => (s, 1, 0, [])
def execDebuggerAttach (t : Nat) (req : SvcReq) (s : State) : Out := serve s "DEBUGGER_ATTACH" t 4 req (some (s.debugRun t req))

/-- The wave of a launch by block and number, while it has not retired. -/
def State.waveNamed (s : State) (li block number : Nat) : Option Nat :=
  (List.range s.waves.length).find? fun i => match s.waves[i]? with
    | some w => decide (w.launch = li ∧ w.number = number ∧ ((s.blocks[w.block]?).map (·.index)) = some block) && !w.retired
    | none => false
/-- Word 1: the launch; word 2: [31:0] block, [36:32] wave; word 3: [9:0] register, [14:10] lane, [20:15] bit, [21] ECC
mode; word 4: the trigger PC. The launch may be one that the tenant has not made yet (15: R262; log entry 93). -/
def State.armRun (s : State) (t : Nat) (q : SvcReq) : Served :=
  let w3 := wordOf q 3
  let id := (wordOf q 1).toNat
  let block := field (wordOf q 2) 0 32
  let number := field (wordOf q 2) 32 5
  let j : Injection := { applied := 0, target := (id, block, number), wave := (s.launchIx t (wordOf q 1)).bind fun li => s.waveNamed li block number
                         lane := field w3 10 5, reg := field w3 0 10, bit := field w3 15 6, pc := (wordOf q 4).toNat
                         ecc := w3.getLsbD 21, tenant := t, done := 0, cached := false, dirty := false }
  if (s.launchIx t (wordOf q 1)).isSome ∨ ((s.tenant t).nextLaunch ≤ id ∧ id < 2 ^ 63) then ({ s with injections := s.injections ++ [j] }, 0, 0, [])
  else (s, 1, 0, [])
def execArmInjection (t : Nat) (req : SvcReq) (s : State) : Out := serve s "ARM_INJECTION" t 5 req (some (s.armRun t req))

/-- Word 1: the launch; word 2: 1 on, 0 off. A wave whose cartouche asks for the scoreboard keeps it (10: R207). -/
def State.scoreboardRun (s : State) (t : Nat) (q : SvcReq) : Served :=
  let on := (wordOf q 2).getLsbD 0
  match s.launchIx t (wordOf q 1) with
  | none => (s, 1, 0, [])
  | some li =>
    let s1 := s.modLaunch li fun L => { L with scoreboard := on }
    ({ s1 with waves := s1.waves.map fun w =>
        if w.launch = li then { w with scoreboard := on || ((s1.cartOf w).map (·.checkstall)).getD false } else w }, 0, 0, [])
def execScoreboardSwitch (t : Nat) (req : SvcReq) (s : State) : Out := serve s "SCOREBOARD_SWITCH" t 6 req (some (s.scoreboardRun t req))

/-- Word 1: the launch; word 2: the block. RESULT is the address of the block's first image in the save area, and
MORE begins with how many images follow one another there (08: R180). -/
def State.imageRun (s : State) (t : Nat) (q : SvcReq) : Served :=
  match (s.launchIx t (wordOf q 1)).bind fun li => (s.blockAt li (wordOf q 2).toNat).bind fun i => s.blocks[i]? with
  | none => (s, 1, 0, [])
  | some b =>
    match b.evictedTo with
    | none => (s, 1, 0, [])
    | some va => (s, 0, BitVec.ofNat 64 va, [BitVec.ofNat 64 (s.imageCount b)])
def execMapGranuleImage (t : Nat) (req : SvcReq) (s : State) : Out := serve s "MAP_GRANULE_IMAGE" t 8 req (some (s.imageRun t req))

/-! ### ATTESTATION_QUOTE (20: R335) -/

/-- What a quote signs: the measurement log, with the objects that the tenant has loaded, in load order, the nonce, EPOCH and the
serial number. -/
def State.quoteBody (s : State) (t : Nat) (q : SvcReq) : List Byte :=
  (List.range 256).map Config.measurement ++ ((s.tenant t).objects.flatMap fun o => sha512 o.2.2) ++
    ((List.range 4).flatMap fun k => natLe 8 (wordOf q (k + 1)).toNat) ++ natLe 8 s.epoch ++ Config.serialNumber
/-- A quote: its body, and the signature by the device key over the digest of it. -/
def State.quote (s : State) (t : Nat) (q : SvcReq) : List Byte :=
  s.quoteBody t q ++ edSign ((List.range 32).map Config.deviceKey) (sha512 (s.quoteBody t q))
/-- Words 1 to 4: the nonce; word 5: where the quote goes; word 6: the ASID. The layout is the model's (log entry 42). -/
def State.quoteRun (s : State) (t : Nat) (q : SvcReq) : Served :=
  let asid := (wordOf q 6).toNat
  if !(s.tenant t).asids.contains asid then (s, 1, 0, [])
  else
    match s.devWrite asid true (wordOf q 5).toNat (s.quote t q) with
    | .error _ => (s, 1, 0, [])
    | .ok s1 => (s1, 0, wordOf q 5, [])
def execAttestationQuote (t : Nat) (req : SvcReq) (s : State) : Out := serve s "ATTESTATION_QUOTE" t 7 req (some (s.quoteRun t req))

/-! ### The ring as the chart core reads it (20: R334) -/

/-- The meaning of the service step that an OP names. -/
def serviceStep (op : Nat) : Option (Nat → SvcReq → State → Out) :=
  match op with
  | 1 => some execLoadObject | 2 => some execUnloadObject | 3 => some execCollectiveWindow | 4 => some execDebuggerAttach
  | 5 => some execArmInjection | 6 => some execScoreboardSwitch | 7 => some execAttestationQuote | 8 => some execMapGranuleImage
  | 16 => some execMap | 17 => some execUnmap | 18 => some execProtect | 19 => some execMigrate | 20 => some execDiscard
  | 21 => some execUnshare | 22 => some execShare | 23 => some execResume | 24 => some execInval | 25 => some execPartition
  | 32 => some execCreate | 33 => some execDestroy | 34 => some execQuery
  | _ => none
/-- The request at HEAD of a tenant's service ring. -/
def State.nextRequest (s : State) (t : Nat) : Option SvcReq :=
  let tn := s.tenant t
  let r := tn.svcRing
  if tn.live = false ∨ r.log2n = 0 then none
  else
    match s.ringWord r (r.base + 8), s.devRead r.asid true (r.slotVa tn.svcHead) 64 with
    | some tail, .ok bs => if tn.svcHead < tail then some ((List.range 8).map (wordAt bs)) else none
    | _, _ => none
/-- The chart core serves the request at HEAD; one with an unknown OP is answered with STATUS 1. -/
def State.serveNext (s : State) (t : Nat) : Option State :=
  match s.nextRequest t with
  | none => none
  | some q =>
    match serviceStep (q.headD 0).toNat with
    | none => some (s.answer t (q.headD 0).toNat 1 0 [])
    | some f => match f t q s with | .next s1 => some s1 | _ => none

end Sys2Proof.Machine
end

