-- ==== Sys2Proof/Machine/Tenants.lean ====
section
/-! DEFINITION. Tenants and their control waves (19: R315; 20: R336, R337), their rings and gazetteer (19: R314;
20: R332 to R334), and the management commands that set quotas, keys, policy, frames and the power cap (20: R336). -/

namespace Sys2Proof.Machine

/-! ### What the chart core maps for a tenant -/

/-- Gazetteer entry `id` stands here; the rings and the recovery page: log entry 43. -/
def gazVa (id : Nat) : Nat := 0x00FFFF0000000000 + 2 ^ 16 * (id - 1)
def svcVa : Nat := 0x00FFFD0000000000
def bindVa : Nat := 0x00FFFD0000001000
def recVa : Nat := 0x00FFFE0000000000

/-- Maps a run of fresh zeroed frames as pages of one size, global in the tenant's ASIDs. -/
def State.mapFixed (s : State) (t va size count : Nat) (w : Bool) : Option State :=
  let n := framesOf size * count
  match s.freeFrames n (dieStacks 2) with
  | none => none
  | some f =>
    let new := (s.tenant t).asids.flatMap fun a => (List.range count).map fun i =>
      ({ asid := a, va := va + i * size, size := size, r := true, w := w, x := false, u := true, g := true, sw := false, res := 0
         kind := 0, pa := 4096 * f + i * size, dev := 0, disc := none, mig := none, orig := none } : Page)
    some { ((s.takeFrames f n).zeroFrame (4096 * f) (4096 * n)) with pages := s.pages ++ new }

/-- The chart core's own write of a page that it holds mapped for a tenant. -/
def State.chartWrite (s : State) (asid va : Nat) (bytes : List Byte) : State :=
  match s.walk asid true va bytes.length .load with
  | .ok pas => s.devWriteAt va pas bytes
  | .error _ => s

/-! ### The gazetteer (20: R332, R333) -/

/-- MEMBER of a group. -/
def Group.mask (g : Group) : Nat := g.members.foldl (fun m d => m ||| 2 ^ d) 0
/-- The words of an entry's body; of DEVICE the manual gives no values. Log entry 44 lays the bodies out. -/
def State.gazBody (s : State) (t id : Nat) : List Word :=
  let num := fun (n : Nat) => BitVec.ofNat 64 n
  let tn := s.tenant t
  let bits := fun (kind n : Nat) => (List.range ((n + 63) / 64)).map fun w =>
    num (packNat 1 ((List.range 64).map fun i => if 64 * w + i < n ∧ s.isAbsent kind (64 * w + i) = false then 1 else 0))
  match id with
  | 2 => num (packNat 1 ((List.range 6).map fun k => if (clusterCores k).any fun c => !s.isAbsent 0 c then 1 else 0)) ::
      (bits 0 384 ++ bits 1 1536 ++ bits 2 128 ++ bits 3 256 ++ bits 4 12 ++ bits 5 4 ++ bits 6 18)
  | 3 => s.fenced.flatMap fun u => [num u.1, num u.2]
  | 4 => ((List.range 4).flatMap fun k => [num (durBase + k * 2 ^ 38), num (2 ^ 38)]) ++ [num s.holdupNs, num s.wbmax]
  | 5 => [num tn.bindRing.base, num tn.svcRing.base]
  | 6 => (s.groups.filter fun g => s.windows.any fun x => decide (x.tenant = t ∧ x.g = g.g ∧ 0 < x.len)).flatMap fun g =>
      [num g.g, num (g.mask % 2 ^ 64), num (g.mask / 2 ^ 64), num (g.members.length + g.epoch * 2 ^ 32), num (groupScale g.members.length)]
  | 7 => (List.range 384).map (fun c => num (SMap.get 0 tn.qmax c)) ++ [num tn.frames.length]
  | _ => (List.range 16).map fun k => num (leNat ((List.range 8).map fun i => Config.gazetteerByte id (8 * k + i)))
def gazKey (t id : Nat) : Nat := 16 * t + id
/-- An entry's header: ID, VERSION, SEQ; NEXT; CAP; BODYLEN. -/
def gazHeader (id seq len : Nat) : List Byte :=
  natLe 8 (id + 2 ^ 16 + seq % 2 ^ 32 * 2 ^ 32) ++ natLe 8 (if id < 7 then gazVa (id + 1) else 0) ++
    natLe 8 (gazVa id + 48) ++ natLe 8 (len + 2 ^ 60) ++ natLe 8 len ++ natLe 8 0
/-- SEQ is raised, the body rewritten, and SEQ raised again. -/
def State.gazWrite (s : State) (t id : Nat) (body : List Word) : State :=
  let asid := (s.tenant t).asids.headD 0
  let seq := SMap.get 0 s.gazetteerSeq (gazKey t id)
  let bytes := (body.flatMap fun w => natLe 8 w.toNat).take (2 ^ 16 - 48)
  let s1 := s.chartWrite asid (gazVa id) (gazHeader id (seq + 1) bytes.length)
  let s2 := s1.chartWrite asid (gazVa id + 48) bytes
  let s3 := s2.chartWrite asid (gazVa id) (gazHeader id (seq + 2) bytes.length)
  { s3 with gazetteer := SMap.set [] s3.gazetteer (gazKey t id) body
            gazetteerSeq := SMap.set 0 s3.gazetteerSeq (gazKey t id) (seq + 2) }

def execGazetteerUpdate (entry : Nat) (body : List Word) (s : State) : Out :=
  let t := entry / 16
  let id := entry % 16
  if (s.tenant t).live && decide (1 ≤ id ∧ id ≤ 7) && (decide (id = 1) || decide (body = s.gazBody t id)) then .next (s.gazWrite t id body)
  else .fault (.notEnabled "GAZETTEER_UPDATE")

/-! ### The control wave (19: R315) -/

/-- Starts a tenant's control wave once its kernel is loaded and a core has room for it. -/
def State.startControl (s : State) (t : Nat) : State :=
  let tn := s.tenant t
  match (if tn.live && tn.ctlWave.isNone then s.kernel t tn.ctlCart else none) with
  | none => s
  | some k =>
    let k := { k with waves := 1, ncap := 0, mboxn := 0 }
    match s.richest t ((List.range 384).filter fun c => k.room.within ⟨s.freeSlots c, s.grantable c t, 768 - s.regionUsed c (·.gScratch), 128 - s.regionUsed c (·.gTiles)⟩) with
    | none => s
    | some core =>
      let L : Launch := {
        id := tn.nextLaunch, tenant := t, cart := k, bx := 1, by_ := 1, bz := 1, asid := tn.asids.headD 0, prio := 3, nojoin := false
        rect := none, args := 0, caps := [], gang := none, made := 0, completed := 0, faulted := 0, killed := 0, relaunched := 0
        ended := false, ending := none, known := true, mbox := 0, task := none, regions := [], debugger := false, scoreboard := false
        preempted := false, stayOut := false, displaced := false, home := core / 64, freeing := false, waiters := [] }
      let li := s.launches.length
      let s1 := ({ s with launches := s.launches ++ [L] } : State).modTenant t fun x =>
        { x with nextLaunch := x.nextLaunch + 1, ctlWave := some s.waves.length }
      let r := s1.makeBlock li 0 core
      (r.1.takeCore r.2 core k .reserved).startBlock r.2 true
def State.startControls (s : State) : State := s.tenants.foldl (fun st e => st.startControl e.1) s

/-! ### TENANT_CREATE -/

/-- Every launch of a tenant is killed, its control wave's too. -/
def State.killTenant (s : State) (t : Nat) : State :=
  let s1 := (List.range s.launches.length).foldl (fun st i => match st.launches[i]? with
    | some L => if L.tenant = t ∧ L.ended = false then st.killLaunch i else st
    | none => st) s
  s1.modTenant t fun x => { x with ctlWave := none }
/-- The episodes of a tenant end (27: R408). -/
def State.endEpisodesOf (s : State) (t : Nat) : State :=
  s.episodes.foldl (fun st e => if e.2.state = 2 ∧ e.2.tenant = t then st.endEpisode e.1 7 e.2.firstMb 0 0 else st) s

/-- A tenant goes: its launches, episodes, pages, cached lines, objects and windows. Its durable frames wait for
their next owner. -/
def State.destroyTenant (s : State) (t : Nat) : State :=
  let asids := (s.tenant t).asids
  let s1 := (s.killTenant t).endEpisodesOf t
  let gone := s1.pages.filter fun p => asids.contains p.asid
  let s2 := ({ s1 with pages := s1.pages.filter fun p => !asids.contains p.asid } : State).freePages gone
  { s2.setTenant t { Tenant.absent with frames := (s2.tenant t).frames, nextLaunch := (s2.tenant t).nextLaunch } with
    carts := s2.carts.filter fun c => decide (c.tenant ≠ t)
    windows := s2.windows.map fun x => if x.tenant = t then { x with len := 0 } else x
    lines := s2.lines.filter fun l => decide (l.tenant ≠ t)
    deferred := s2.deferred.filter fun d => decide (d.1 ≠ t) }

/-- The rings and the gazetteer of a tenant. -/
def State.tenantPages (s : State) (t : Nat) : Option State :=
  (s.mapFixed t svcVa 4096 1 true).bind fun s1 => (s1.mapFixed t bindVa 4096 1 true).bind fun s2 =>
    (s2.mapFixed t (gazVa 1) (2 ^ 16) 7 false).map fun s3 =>
      let asid := (s3.tenant t).asids.headD 0
      let s4 := s3.modTenant t fun x => { x with svcRing := ⟨svcVa, false, 5, asid⟩, bindRing := ⟨bindVa, false, 5, asid⟩, svcHead := 0, bindHead := 0 }
      (List.range 7).foldl (fun st i => st.gazWrite t (i + 1) (st.gazBody t (i + 1))) s4
/-- The names and numbers of a new tenant are free, and its quota is one (08: R164). -/
def State.tenantOk (s : State) (t : Nat) (r : TenantReq) : Bool :=
  decide (t < 64 ∧ r.qmax ≤ 928 ∧ r.asids ≠ [] ∧ s.power = .on) && !(s.tenant t).live &&
  (r.asids.all fun a => decide (a < 2 ^ 16) && !(s.tenants.any fun e => e.2.live && e.2.asids.contains a)) && r.partitions.all fun p => decide (p < 32)
def State.newTenant (s : State) (t : Nat) (r : TenantReq) : Option State :=
  let old := s.tenant t
  let low := (sortNat r.partitions).headD 0
  let x : Tenant := { Tenant.absent with
    live := true, asids := r.asids, frames := old.frames, nextLaunch := old.nextLaunch, ctlCart := r.ctlCart, partitions := r.partitions
    qmax := (List.range 384).foldl (fun m c => SMap.set 0 m c r.qmax) []
    partitionOf := r.asids.foldl (fun m a => SMap.set 0 m a low) [] }
  ((s.setTenant t x).tenantPages t).map fun s1 => s1.startControl t

def execTenantCreate (t : Nat) (make : Option TenantReq) (s : State) : Out :=
  match make with
  | none => if (s.tenant t).live then .next (s.destroyTenant t) else .fault (.notEnabled "TENANT_CREATE")
  | some r =>
    match (if s.tenantOk t r then s.newTenant t r else none) with
    | some s1 => .next s1
    | none => .fault (.notEnabled "TENANT_CREATE")

/-! ### Quotas, keys, policy, power, telemetry -/

def execSetQmax (t core q : Nat) (s : State) : Out :=
  if (s.tenant t).live && decide (core < 384 ∧ q ≤ 928) then .next (s.modTenant t fun x => { x with qmax := SMap.set 0 x.qmax core q })
  else .fault (.notEnabled "SET_QMAX")

def execWriteKeySlot (t slot key : Nat) (s : State) : Out :=
  if (s.tenant t).live && decide (slot < 8) then .next (s.modTenant t fun x => { x with keys := SMap.set 0 x.keys slot key })
  else .fault (.notEnabled "WRITE_KEY_SLOT")

/-- Only the four policy bits are kept (16: R281). -/
def execWriteRaspol (v : Nat) (s : State) : Out := .next { s with raspol := BitVec.ofNat 4 v }

def execSetPowerCap (watts : Nat) (s : State) : Out := .next { s with powerCap := watts }

/-- Power, temperatures, flow and fault counts, as the sensors show them, and the cap in force. -/
def execReadTelemetry (s : State) : Out :=
  .next { s.bump with answers := s.answers ++
    [⟨64, 9, 0, Config.telemetry s.fresh 0, ((List.range 4).map fun i => Config.telemetry s.fresh (i + 1)) ++ [BitVec.ofNat 64 s.powerCap]⟩] }

/-! ### ASSIGN_DURABLE_FRAMES (20: R336; 13: R230) -/

/-- Physical bytes become zero for good. -/
def State.wipe (s : State) (pa n : Nat) : State :=
  { s.zeroFrame pa n with media := Memory.zeroRange s.media pa n, mediaOld := Memory.zeroRange s.mediaOld pa n
                          accepted := s.accepted.filter fun e => !decide (e.pa < pa + n ∧ pa < e.pa + e.bytes.length) }
/-- The tenant that holds a durable frame. -/
def State.frameOwner (s : State) (f : Nat) : Option Nat := (s.tenants.find? fun e => e.2.frames.contains f).map (·.1)
/-- One frame goes to a tenant, zeroed when another had it; so is one that no tenant holds, which is zero already unless a
migration has left it. -/
def State.assignFrame (s : State) (t f : Nat) : State :=
  match s.frameOwner f with
  | none => (s.wipe (durBase + 4096 * f) 4096).modTenant t fun x => { x with frames := x.frames ++ [f] }
  | some u =>
    if u = t then s
    else
      let asids := (s.tenant u).asids
      let s1 := s.modTenant u fun x => { x with frames := x.frames.filter fun g => decide (g ≠ f) }
      let s2 : State := { s1 with pages := s1.pages.filter fun p =>
        !(asids.contains p.asid && decide (p.kind = 0 ∧ p.pa ≤ durBase + 4096 * f ∧ durBase + 4096 * f < p.pa + p.size)) }
      (s2.wipe (durBase + 4096 * f) 4096).modTenant t fun x => { x with frames := x.frames ++ [f] }

/-- Frames are assigned when no access that was confirmed for them has still to perform. -/
def execAssignDurableFrames (t first count : Nat) (s : State) : Out :=
  if (s.tenant t).live && decide (first + count ≤ 2 ^ 28) && !s.confirmedIn (durBase + 4096 * first) (4096 * count) then
    .next ((List.range count).foldl (fun st i => st.assignFrame t (first + i)) s)
  else .fault (.notEnabled "ASSIGN_DURABLE_FRAMES")

end Sys2Proof.Machine
end

