-- ==== Sys2Proof/Machine/Power.lean ====
section
/-! DEFINITION. Host accesses over CXL.mem (12: R229; 20: R327), power loss and power-up (13: R237 to R242; 20:
R338, R339), and the resets (20: R337). -/

namespace Sys2Proof.Machine

/-! ### HOST_WRITE and HOST_READ (12: R229) -/

/-- A host write enters the home die's view as one write for each aligned 8-byte unit. -/
def execHostWrite (pa : Nat) (bytes : List Byte) (s : State) : Out :=
  if s.power = .on then
    .next ((vaPieces (bytes.length + 1) pa bytes).foldl (fun (s : State) p =>
      (s.revive p.1).bump.enterView s.fresh (homeDie p.1) p.1 p.2 none none) s)
  else .fault (.notEnabled "HOST_WRITE")

/-- A host read takes each byte from its home die's view. -/
def execHostRead (pa n : Nat) (s : State) : Out :=
  if s.power = .on then
    .next { s with hostData := (List.range n).map fun i => Memory.get (s.view (homeDie (pa + i))) (pa + i) }
  else .fault (.notEnabled "HOST_READ")

/-! ### Power loss (13: R238 to R240; 20: R339) -/

/-- Every controller stops accepting at one value P of CYC; CLEAN when no launch was running then. -/
def State.lose (s : State) (clean : Bool) : State := { s with power := .failed, pfcyc := s.cyc, clean := clean && s.recovery.isEmpty }
def execPowerFail (s : State) : Out := if s.power = .on then .next (s.lose true) else .fault (.notEnabled "POWER_FAIL")
/-- The module removes its own power; the next recovery page has CLEAN = 0. -/
def execThermalTrip (s : State) : Out :=
  if s.power = .on then .next { s.lose false with thermal := true } else .fault (.notEnabled "THERMAL_TRIP")

/-- The media after a drain that did not finish: the lines it has reached hold what was accepted for them, and those whose
bytes stood in a buffer hold what the media held before it. Lines that the media had been given already keep it
(13: R239, R240). -/
def State.partDrain (s : State) : Memory :=
  s.accepted.foldl (fun (m : Memory) e => (List.range e.bytes.length).foldl (fun m k =>
    if Config.lineReached s.fresh ((e.pa + k) / 64) then Memory.set m (e.pa + k) (e.bytes.getD k 0) else m) m) s.mediaOld
/-- The drain and the seal have ended, whole or not. -/
def execDurableDrainDone (complete : Bool) (s : State) : Out :=
  if s.power = .failed then
    let kept := if complete then s.media else s.partDrain
    .next { s.bump with power := .drained, incomplete := !complete, accepted := [], media := kept, mediaOld := kept }
  else .fault (.notEnabled "DURABLE_DRAIN_DONE")

/-! ### The recovery page (13: R241, R242) -/

def boolNat (b : Bool) (n : Nat) : Nat := if b then n else 0
/-- Wave records of a launch, by block and then by wave. -/
def sortRecords (l : List (Nat × Nat × Bool × Word)) : List (Nat × Nat × Bool × Word) :=
  let before := fun (a b : Nat × Nat × Bool × Word) => decide (a.1 < b.1 ∨ (a.1 = b.1 ∧ a.2.1 ≤ b.2.1))
  l.foldr (fun a l => (l.takeWhile fun b => !before a b) ++ a :: l.dropWhile fun b => !before a b) []
def launchEntry (e : RecoveryEntry) (off : Nat) : List Byte :=
  natLe 8 e.launch ++ natLe 8 e.entry ++ natLe 8 (e.asid + boolNat e.overflow (2 ^ 16)) ++ natLe 8 (e.bx + e.by_ * 2 ^ 32) ++
    natLe 8 (e.bz + (e.waves - 1) * 2 ^ 32) ++ natLe 8 off ++ natLe 8 e.records.length ++ natLe 8 0
def waveRecord (r : Nat × Nat × Bool × Word) : List Byte :=
  natLe 8 (r.1 + r.2.1 * 2 ^ 32 + boolNat r.2.2.1 (2 ^ 37)) ++ natLe 8 r.2.2.2.toNat
/-- Each launch with the offset of its first record. -/
def withOffsets : Nat → List RecoveryEntry → List (RecoveryEntry × Nat)
  | _, [] => []
  | off, e :: rest => (e, off) :: withOffsets (off + 16 * e.records.length) rest
/-- The bytes of a tenant's recovery page, and its size. -/
def State.recoveryBytes (s : State) (t epoch : Nat) : List Byte × Nat :=
  let es := s.recovery.filter fun e => decide (e.tenant = t)
  let used := 64 + 64 * es.length + 16 * (es.map fun e => e.records.length).sum
  let size := (used + 4095) / 4096 * 4096
  let flags := boolNat s.clean 1 + boolNat s.incomplete 2 + boolNat (es.any (·.overflow)) 4
  (natLe 8 (1 + t * 2 ^ 16 + es.length * 2 ^ 32) ++ natLe 8 epoch ++ natLe 8 s.pfcyc ++ natLe 8 flags ++ natLe 8 size ++ List.replicate 24 0 ++
    ((withOffsets (64 + 64 * es.length) es).flatMap fun p => launchEntry p.1 p.2) ++
    es.flatMap fun e => (sortRecords e.records).flatMap waveRecord, size)

/-! ### POWER_UP (20: R338) -/

/-- The hold-up time a power-up measures, and WBMAX (13: R237). -/
def holdupAt (epoch : Nat) : Nat := 2000000 + Config.holdupExtra epoch
def wbmaxFor (holdupNs : Nat) : Nat := min (64 * 2 ^ 20) (125 * (holdupNs - 200000) / 2)
/-- What a tenant keeps over a power loss: its ASIDs, quotas, keys, partitions, frames and registered kernel. -/
def Tenant.survive (x : Tenant) : Tenant :=
  { Tenant.absent with live := x.live, asids := x.asids, qmax := x.qmax, nextLaunch := x.nextLaunch, keys := x.keys, partitions := x.partitions
                       partitionOf := x.partitionOf, frames := x.frames, ctlCart := x.ctlCart }
/-- What a new power epoch begins with. A migration of a durable page needs nothing more: its new frames hold every
byte already (21: R357). -/
def State.epochStart (s : State) : State :=
  { State.reset with
    view0 := s.media, view1 := s.media, media := s.media, mediaOld := s.media, epoch := s.epoch + 1, pfcyc := s.pfcyc, clean := s.clean
    incomplete := s.incomplete, holdupNs := holdupAt (s.epoch + 1), wbmax := wbmaxFor (holdupAt (s.epoch + 1))
    tenants := s.tenants.foldl (fun m e => SMap.set Tenant.absent m e.1 e.2.survive) []
    carts := s.carts.filter fun c => decide ((s.tenant c.tenant).ctlCart = c.addr)
    groups := Config.formedGroups.map fun g => ⟨g.1, g.2, 0⟩
    chartLog := s.chartLog, retiredFrames := s.retiredFrames, absent := s.absent, inputs := s.inputs, fresh := s.fresh }
/-- The recovery page of a tenant, and DURABLE_INCOMPLETE. -/
def State.buildRecovery (old : State) (s : State) (t : Nat) : State :=
  let r := old.recoveryBytes t s.epoch
  let s1 := match s.mapFixed t recVa 4096 (r.2 / 4096) false with
    | some s1 => (s1.chartWrite ((s.tenant t).asids.headD 0) recVa r.1).modTenant t fun x => { x with recbase := recVa }
    | none => s
  if s.incomplete then s1.ringRecord t true (s1.tenantRecord t 0x57 0 0 [BitVec.ofNat 64 s.epoch]) else s1
def State.powerUp (s : State) : State :=
  let s1 := s.tenants.foldl (fun (st : State) e =>
    if e.2.live then
      let st1 := State.buildRecovery s st e.1
      (st1.tenantPages e.1).getD st1
    else st) s.epochStart
  s1.startControls
def execPowerUp (s : State) : Out := if s.power = .drained then .next s.powerUp else .fault (.notEnabled "POWER_UP")

/-! ### Resets (20: R337) -/

/-- Everything but the durable media, the assignment of durable frames and the fused-off units; CYC, whose reset column holds a
dash, goes on (00: R7; 17: R288). -/
def State.moduleReset (s : State) : State :=
  { State.reset with
    cyc := s.cyc, absent := s.absent
    view0 := s.media, view1 := s.media, media := s.media, mediaOld := s.mediaOld, accepted := s.accepted, epoch := s.epoch
    holdupNs := s.holdupNs, wbmax := s.wbmax, inputs := s.inputs, fresh := s.fresh
    tenants := s.tenants.foldl (fun m e => SMap.set Tenant.absent m e.1 { Tenant.absent with frames := e.2.frames }) [] }
def execModuleReset (s : State) : Out := if s.power = .on then .next s.moduleReset else .fault (.notEnabled "MODULE_RESET")

/-- Writes on the die link to a reset die are lost; one failure is reported for them, and what waited for one goes
on (16: R280). -/
def State.loseLink (s : State) (die : Nat) : State :=
  let lost := s.linkWrites.filter fun w => decide (w.toDie = die)
  if lost.isEmpty then s
  else
    let s1 : State := { s with linkWrites := s.linkWrites.filter fun w => decide (w.toDie ≠ die) }
    lost.foldl (fun st w => st.linkReturned w) (s1.lasting 8 die)
/-- A reset die's view: what it is home of, and of the rest what the other die has. -/
def State.homeView (s : State) (die : Nat) : Memory :=
  ((s.view (1 - die)).filter fun e => decide (homeDie e.1 ≠ die)).foldl (fun (m : Memory) e => Memory.set m e.1 e.2)
    ((s.view die).filter fun e => decide (homeDie e.1 = die))
/-- The blocks on a die end; their tenants' control waves are to be started again. -/
def State.killDie (s : State) (die : Nat) : State :=
  let s1 := (List.range s.blocks.length).foldl (fun st i => match st.blocks[i]? with
    | some b => if b.holds && decide (dieOfCore b.core = die) then st.killBlock i 0 0 0 false else st
    | none => st) s
  s1.tenants.foldl (fun (st : State) e => match e.2.ctlWave.bind fun i => st.wave? i with
    | some w => if dieOfCore w.core = die then st.modTenant e.1 fun x => { x with ctlWave := none } else st
    | none => st) s1
def State.endDieEpisodes (s : State) (die : Nat) : State :=
  s.episodes.foldl (fun st e => if e.2.state = 2 ∧ e.2.core / 64 = die then st.endEpisode e.1 7 e.2.firstMb 0 0 else st) s
def State.dieReset (s : State) (die : Nat) : State :=
  let s1 := ((s.killDie die).endDieEpisodes die).loseLink die
  let away := fun (core : Nat) => decide (dieOfCore core ≠ die)
  let s2 : State := { s1 with
    coreWrites := s1.coreWrites.filter fun w => away w.core
    atomics := s1.atomics.filter fun a => away a.core
    reqs := s1.reqs.filter fun r => r.kind.isNotice || away r.core
    lines := s1.lines.filter fun l => if l.l1 then away l.unit else decide (l.unit ≠ die)
    copies := s1.copies.filter fun e => away e.1
    watchRegs := s1.watchRegs.filter fun e => away e.1
    poolQueue := s1.poolQueue.filter fun e => away e.1
    preempts := s1.preempts.filter fun p => away p.1 }
  let s3 := s2.setView die (s2.homeView die)
  (if die = 0 then { s3 with own0 := [], clock01 := s3.clock11 } else { s3 with own1 := [], clock10 := s3.clock00 }).startControls
def execDieReset (die : Nat) (s : State) : Out :=
  if s.power = .on ∧ die < 2 then .next (s.dieReset die) else .fault (.notEnabled "DIE_RESET")

/-- The heads and tails of the rings that the tenant writes. -/
def State.emptyRing (s : State) (r : Ring) : State := if r.log2n = 0 then s else s.ringPut r r.base (List.replicate 24 0)
/-- A tenant's launches are killed, its rings and special registers are as after reset, its floors are 0 (25: R384), its line
watches are gone (24: R377), its control wave starts again; its durable frames and objects stay, and so does RECBASE, whose reset column holds a dash (00: R7; 17: R288). -/
def State.tenantReset (s : State) (t : Nat) : State :=
  let s1 := (s.killTenant t).endEpisodesOf t
  let x := s1.tenant t
  let s2 := (s1.emptyRing x.svcRing).emptyRing x.bindRing
  let s2 : State := { s2 with
    watchRegs := s2.watchRegs.foldl (fun m e => SMap.set [] m e.1 (e.2.filter fun r => decide (r.tenant ≠ t))) [] }
  (s2.modTenant t fun x => { x with
    floors := [], tvec := 0, ctlq := .off, flog := .off, waitrep := true, wdlog := 20, poolsaveBase := 0, poolsaveSize := 0, svcHead := 0, bindHead := 0 }).startControl t
def execTenantReset (t : Nat) (s : State) : Out :=
  if (s.tenant t).live && decide (s.power = .on) then .next (s.tenantReset t) else .fault (.notEnabled "TENANT_RESET")

end Sys2Proof.Machine
end

