-- ==== Sys2Proof/Machine/Settle.lean ====
section
/-! DEFINITION. What the end of a cycle settles: barriers and groups that release (06: R152 to R154; 11: R210; 18:
R304), waits that something has ended, drains, fills, counters (10: R195 to R201; 16: R267), and the cycle count
(00: R3). -/

namespace Sys2Proof.Machine

/-- Applies a function to the state for each wave, block or launch in turn. -/
def State.eachWave (s : State) (f : State → Nat → State) : State := (List.range s.waves.length).foldl f s
def State.eachBlock (s : State) (f : State → Nat → State) : State := (List.range s.blocks.length).foldl f s

/-! ### Block barriers (06: R152; 11: R210) -/

/-- Lanes of a wave that wait at barrier `k`, or did when a freeze or thaw handler began. -/
def Wave.atBar (w : Wave) (k : Nat) : LaneMask :=
  maskOf fun l => decide ((w.lane l).status = .inside (.bar k) ∨ (w.waiting l).status = .inside (.bar k))
/-- Waves of a block with lanes at barrier `k`. -/
def State.barWaiters (s : State) (b : Block) (k : Nat) : List (Nat × Wave) :=
  b.waves.filterMap fun i => match s.wave? i with | some w => if w.atBar k = 0 then none else some (i, w) | none => none
/-- A waiter of barrier `k` has been released and is inside its FENCE.ACQREL.BLK, request `id`. -/
def Lane.fromBar (k id : Nat) (l : Lane) : Lane :=
  if l.status = .inside (.bar k) then { l with status := .inside (.proceed id) } else l
/-- The waiters of barrier `k` are released, and A returns to 0. Each goes on when the FENCE.ACQREL.BLK of the release,
which is one for all of them, is complete: when the earlier accesses of every one of them have performed (06: R152; 12:
R222; log entry 91). -/
def State.releaseBar (s : State) (bi k : Nat) (ws : List (Nat × Wave)) : State :=
  let s1 := ws.foldl (fun st p => st.journalise p.1 p.2 0) s
  let s2 := s1.request ((ws.map (·.1)).headD 0) 0 ((ws.map fun p => p.2.core).headD 0) none none (.barFence (ws.map fun p => (p.1, p.2.atBar k)))
  let s3 := ws.foldl (fun st p => st.modWave p.1 fun w =>
    { w with lanes := w.lanes.map (Lane.fromBar k s1.fresh), savedLanes := w.savedLanes.map (Lane.fromBar k s1.fresh) }) s2
  s3.modBlock bi fun b => b.setBarrier k ⟨(b.barrier k).expected, 0⟩
/-- The test A = E of a cycle. -/
def State.settleBar (s : State) (bi : Nat) : State :=
  (List.range 8).foldl (fun st k =>
    match st.blocks[bi]? with
    | none => st
    | some b =>
      let x := b.barrier k
      if x.arrived ≠ x.expected ∨ x.arrived = 0 then st else st.releaseBar bi k (st.barWaiters b k)) s

/-! ### Groups (06: R153; 10: R209; 18: R304) -/

/-- The smallest k with n ≤ 2^k. -/
def log2Up (n : Nat) : Nat := ((List.range 64).find? fun k => n ≤ 2 ^ k).getD 64
/-- The second tree over the members' roots of sub-element `k`; halves are leaves of their own (18: R304). -/
def groupRoot (m : RedMod) (halves : Nat) (roots : List (List Nat)) (k : Nat) : FRes :=
  let n := 64 / m.ty.posTy.width
  let leaves := roots.flatMap fun r => (List.range halves).map fun h => r.getD (h * n + k) (redIdentity m.op m.ty.posTy)
  let h := log2Up leaves.length
  redRoot (redNode m.op m.ty.posTy) h (leaves ++ List.replicate (2 ^ h - leaves.length) (redIdentity m.op m.ty.posTy))
/-- The result of a GRED in every lane, and the events of every node. -/
def State.groupResult (s : State) (x : GroupState) (c : Cartouche) (m : RedMod) : Word × Events :=
  let roots := (c.members x.entry).map fun p => match s.memberWave x.launch p with
    | some i => ((x.arrived.find? fun a => a.1 = i).map (·.2.1)).getD []
    | none => []
  let rs := (List.range (64 / m.ty.posTy.width)).map (groupRoot m (if c.compat16 then 2 else 1) roots)
  (pack m.ty.posTy.width (rs.map (·.1)), rs.foldl (fun e r => e ||| r.2) (x.arrived.foldl (fun e a => e ||| a.2.2) evNone))

/-- The waiters of an entry go on, with the root of a GRED and its events; so do those of a wave 0 that runs a freeze or
thaw handler, after it. -/
def State.releaseGroup (s : State) (x : GroupState) (c : Cartouche) : State :=
  let s1 := x.arrived.foldl (fun st a =>
    match st.wave? a.1 with
    | none => st
    | some w =>
      let r := match w.gredMod x.entry with | some m => s.groupResult x c m | none => (0, evNone)
      let saved := maskOf fun l => (w.savedLanes.getD l Lane.dead).atGroup x.entry
      let live := w.lanesWhere (Lane.atGroup x.entry)
      let st1 := (lanesOf saved).foldl (fun st l => st.leaveSaved a.1 l fun _ => r.1) st
      let st2 := (lanesOf live).foldl (fun st l => st.leaveInside a.1 l fun _ => r.1) st1
      st2.modWave a.1 fun w => w.modLanes (saved ||| live) fun y => { y with acquired := s.cyc, fstat := y.fstat ||| r.2 }) s
  { s1 with groupStates := s1.groupStates.filter fun g => !decide (g.launch = x.launch ∧ g.entry = x.entry) }
def State.settleGroups (s : State) : State :=
  s.groupStates.foldl (fun st x =>
    match (st.launches[x.launch]?).map (·.cart) with
    | some c => if (c.members x.entry).all (st.memberArrived x) then st.releaseGroup x c else st
    | none => st) s

/-! ### Waits of one wave -/

/-- A lane in NBWAIT with a credit passes it (06: R154). -/
def State.settleCredit (s : State) (wi l : Nat) : State :=
  match s.wave? wi with
  | none => s
  | some w =>
    match (w.lane l).status with
    | .inside (.nbwait j) =>
      if 0 < (w.lane l).creditOf j then (s.modWave wi fun w => w.modLane l fun x => x.takeCredit j).leaveInside wi l fun _ => 0 else s
    | _ => s
/-- Lanes in PSEND and PRECV try again, in lane order (06: R155, R156). -/
def State.settlePipe (s : State) (wi l : Nat) : State :=
  match ((s.wave? wi).map fun w => (w.lane l).status : Option Status) with
  | some (.inside (.psend k msg)) => s.trySend wi l k msg
  | some (.inside (.precv k)) => s.tryRecv wi l k
  | _ => s
/-- Lanes of a wave in PRECV on a pipe that is empty and poisoned, at one PC, trap PIPE_POISONED (06: R156). -/
def State.settlePoison (s : State) (wi : Nat) : State :=
  match s.wave? wi with
  | none => s
  | some w =>
    let bad := fun (l : Nat) => match (w.lane l).status with
      | .inside (.precv k) => if (s.pipe k).msgs.isEmpty && !(w.lane l).held then (s.pipe k).poison.map fun L => (k, L) else none
      | _ => none
    let all := maskOf fun l => (bad l).isSome
    match lowest all with
    | none => s
    | some l0 =>
      let m := all &&& w.lanesWhere fun x => decide (x.pc = (w.lane l0).pc)
      let b := (bad l0).getD (0, 0)
      let index := (((s.launchOf w).bind fun L => L.cart.pipes.find? fun p => p.recv && decide (p.symbol = (s.pipe b.1).symbol)).map (·.index)).getD 0
      if !w.resident || w.stoppedTrap || w.stoppedBrk then s
      else
        let w1 := ((lanesOf m).foldl (fun w l => w.cancelOwed l) w).modLanes m Lane.abandon
        ((s.journalise wi w 0).setWave wi w1).takeTrapAt wi w1 ⟨m, 0x41, false, [BitVec.ofNat 64 index, BitVec.ofNat 64 b.2]⟩ (w1.pcOf m)

/-- What a lane blocked before an instruction waited for has come. -/
def State.unblocks (s : State) (w : Wave) (k : Blocked) : Bool :=
  match k with
  | .atomic id => !(s.reqs.any fun r => decide (r.id = id)) && !(s.atomics.any fun a => decide (a.id = id)) &&
      !(s.linkWrites.any fun x => decide (x.id = id) && x.result.isSome)
  | .copyFull => decide (s.copyLoad w.core < 16)
  | .taskFull => decide (s.taskLoad (w.core / 64) < 512)
  | .grow => decide (0 < w.granted ∧ w.grantDue ≤ s.cyc + 1)
  | .launchCheck => decide (SMap.get 0 s.checking w.tenant ≤ s.cyc + 1)
  | .ahead _ | .sleep _ | .callb _ | .join _ => false
/-- Blocked lanes for which it has come, and lanes whose element is loaded (24: R373), become ready. -/
def State.settleBlocked (s : State) (wi : Nat) : State :=
  s.modWave wi fun w => { w with lanes := w.lanes.map fun l =>
    match l.status with
    | .blocked k => if s.unblocks w k then { l with status := .ready } else l
    | .loading => if l.readyAt ≤ s.cyc + 1 then { l with status := .ready } else l
    | _ => l }

/-- All that one wave's lanes wait for. -/
def State.settleWave (s : State) (wi : Nat) : State :=
  match s.wave? wi with
  | none => s
  | some w =>
    if !w.resident then s
    else
      let s1 := if w.syncDue then s.setWave wi w.syncRelease else s
      let s1 := s1.groupsArrive wi
      let s2 := (List.range 32).foldl (fun st l => (((st.settleCredit wi l).settlePipe wi l).endElement wi l).mdrainTry wi l) s1
      (s2.settlePoison wi).settleBlocked wi

/-! ### Blocks -/

/-- A pre-emption freezes the stream once nothing issued remains; a cancelled one lets it go on (16: R267). -/
def State.settleFreeze (s : State) (bi : Nat) : State :=
  match s.blocks[bi]? with
  | none => s
  | some b =>
    if b.state ≠ .resident then s
    else if b.seq = .running ∧ s.noPreempt b = false ∧ b.seqOps = [] ∧ b.redo = none then s.modBlock bi fun b => { b with seq := .frozen }
    else if b.redo.isSome ∧ (b.seq ≠ .running ∨ s.noPreempt b = true) then s.modBlock bi fun b => { b with redo := none }
    else if b.seq = .frozen ∧ s.noPreempt b = true ∧ b.thaw = false then s.modBlock bi fun b => { b with seq := .running, frozenTrapped := false }
    else s
def State.settleBlock (s : State) (bi : Nat) : State :=
  match s.blocks[bi]? with
  | none => s
  | some b =>
    if b.state.isEnded then s
    else
      let s1 := ((s.claimsDone bi).countArrives bi (b.seqOps.length + 1)).settleBar bi
      (((s1.commitSettle bi).exitDrain bi).settleFreeze bi).blockRetire bi

/-- Threads that waited in LJOIN for a launch and have retired no longer keep its entry (17: R299). -/
def State.settleJoiners (s : State) : State :=
  { s with launches := s.launches.map fun L =>
      if L.waiters.isEmpty then L
      else Launch.settleFree { L with waiters := (L.waiters.map fun p =>
          (p.1, match s.wave? p.1 with | some w => p.2 &&& w.lanesWhere (fun l => !l.isExited) | none => 0)).filter fun p => decide (p.2 ≠ 0) } }

/-! ### What a cycle counts -/

/-- Demand fills of the next instruction of every cohort, the selected one's first (08: R174). -/
def State.askFills (s : State) (wi : Nat) : State :=
  match s.wave? wi with
  | none => s
  | some w =>
    if s.waveRuns { w with owner := none } = false then s
    else
      let keep := s.nextSources w
      w.cohorts.foldl (fun st m => st.fillFor wi w keep m) s
/-- The first `k` dirty entries of a cache have been spilled. -/
def spillEntries : Nat → List CacheEntry → List CacheEntry
  | _, [] => []
  | k, e :: rest =>
    if e.dirty = 0 then e :: spillEntries k rest
    else match k with
      | 0 => e :: spillEntries 0 rest
      | k + 1 => { e with dirty := 0 } :: spillEntries k rest
/-- Stopped waves spill the dirty entries of their caches, before other fills and spills of the core's engine (08: R178,
R182). -/
def State.spillStopped (s : State) : State :=
  (List.range s.waves.length).foldl (fun (st : State) wi =>
    match st.wave? wi with
    | none => st
    | some w =>
      if w.resident && w.preempt.isSome && st.isStopped wi w then
        let used := SMap.get 0 st.engineUsed w.core
        let w1 := { w with ocache := spillEntries (16 - used) w.ocache }
        { st.setWave wi w1 with engineUsed := SMap.set 0 st.engineUsed w.core (used + (w.dirtyEntries - w1.dirtyEntries)) }
      else st) s

/-- Everything that a cycle settles, in order. -/
def State.settle (s : State) : State :=
  let s1 := s.settleReleases.settleLaunches
  let s2 := (s1.eachWave State.settleWave).eachBlock State.settleBlock
  let s3 := s2.settleGroups.settleJoiners
  if s3.heldWakes.all (·.due.isSome) then s3.startControls else s3.retryWakes.startControls
/-- The end of a cycle: what it was for each wave is counted before anything that it settles is let go on. -/
def State.tick (s : State) : State :=
  let s1 := s.countWaves.settle
  let s2 := ((s1.spillStopped.eachWave State.askFills).moveRestores).moveCopies
  let s3 := s2.watchHeads.askRestores
  let s4 := (s3.runQueues.map (·.1)).foldl (fun st c => st.countEpisode c) s3
  { s4.pruneWindow with
    cyc := s4.cyc + 1, issuedQ := [], engineUsed := [], headersUsed := [], shown := []
    hostQueue := s4.hostQueue.filter fun w => decide (s4.cyc < w.2) }

end Sys2Proof.Machine
end

