-- ==== Sys2Proof/Machine/Dispatch.lean ====
section
/-! DEFINITION. The dispatcher: one arm for each constructor, a direct call of its meaning. -/

namespace Sys2Proof.Machine

def exec (i : Instr) (s : State) : Host.Outcome State Fault Refusal :=
  match i with
  | .iadd h m d a b => Sys2Proof.Machine.execIadd h m d a b s
  | .isub h m d a b => Sys2Proof.Machine.execIsub h m d a b s
  | .imul h m d a b => Sys2Proof.Machine.execImul h m d a b s
  | .imulh h m d a b => Sys2Proof.Machine.execImulh h m d a b s
  | .imad h m d a b x => Sys2Proof.Machine.execImad h m d a b x s
  | .imin h m d a b => Sys2Proof.Machine.execImin h m d a b s
  | .imax h m d a b => Sys2Proof.Machine.execImax h m d a b s
  | .iabs h m d a => Sys2Proof.Machine.execIabs h m d a s
  | .ineg h m d a => Sys2Proof.Machine.execIneg h m d a s
  | .idiv h m d a b => Sys2Proof.Machine.execIdiv h m d a b s
  | .irem h m d a b => Sys2Proof.Machine.execIrem h m d a b s
  | .isad h m d a b x => Sys2Proof.Machine.execIsad h m d a b x s
  | .iaddi h m d a imm => Sys2Proof.Machine.execIaddi h m d a imm s
  | .imuli h m d a imm => Sys2Proof.Machine.execImuli h m d a imm s
  | .lea h m d a b imm => Sys2Proof.Machine.execLea h m d a b imm s
  | .idot4 h m d a b x => Sys2Proof.Machine.execIdot4 h m d a b x s
  | .and h d a b => Sys2Proof.Machine.execAnd h d a b s
  | .or h d a b => Sys2Proof.Machine.execOr h d a b s
  | .xor h d a b => Sys2Proof.Machine.execXor h d a b s
  | .not h d a => Sys2Proof.Machine.execNot h d a s
  | .andn h d a b => Sys2Proof.Machine.execAndn h d a b s
  | .shl h m d a b => Sys2Proof.Machine.execShl h m d a b s
  | .shr h m d a b => Sys2Proof.Machine.execShr h m d a b s
  | .sar h m d a b => Sys2Proof.Machine.execSar h m d a b s
  | .rol h m d a b => Sys2Proof.Machine.execRol h m d a b s
  | .shli h m d a imm => Sys2Proof.Machine.execShli h m d a imm s
  | .shri h m d a imm => Sys2Proof.Machine.execShri h m d a imm s
  | .sari h m d a imm => Sys2Proof.Machine.execSari h m d a imm s
  | .popc h m d a => Sys2Proof.Machine.execPopc h m d a s
  | .clz h m d a => Sys2Proof.Machine.execClz h m d a s
  | .ctz h m d a => Sys2Proof.Machine.execCtz h m d a s
  | .brev h m d a => Sys2Proof.Machine.execBrev h m d a s
  | .bfx h m d a b => Sys2Proof.Machine.execBfx h m d a b s
  | .bfi h m d a b x => Sys2Proof.Machine.execBfi h m d a b x s
  | .andi h d a imm => Sys2Proof.Machine.execAndi h d a imm s
  | .ori h d a imm => Sys2Proof.Machine.execOri h d a imm s
  | .xori h d a imm => Sys2Proof.Machine.execXori h d a imm s
  | .isetp h m d a b x => Sys2Proof.Machine.execIsetp h m d a b x s
  | .fsetp h m d a b x => Sys2Proof.Machine.execFsetp h m d a b x s
  | .isetpi h m d a imm => Sys2Proof.Machine.execIsetpi h m d a imm s
  | .pand h d a b => Sys2Proof.Machine.execPand h d a b s
  | .por h d a b => Sys2Proof.Machine.execPor h d a b s
  | .pxor h d a b => Sys2Proof.Machine.execPxor h d a b s
  | .pnot h d a => Sys2Proof.Machine.execPnot h d a s
  | .sel h d a b x => Sys2Proof.Machine.execSel h d a b x s
  | .pmask h d a => Sys2Proof.Machine.execPmask h d a s
  | .psetm h d a => Sys2Proof.Machine.execPsetm h d a s
  | .bra h imm => Sys2Proof.Machine.execBra h imm s
  | .brx h a => Sys2Proof.Machine.execBrx h a s
  | .call h d imm => Sys2Proof.Machine.execCall h d imm s
  | .callx h d a => Sys2Proof.Machine.execCallx h d a s
  | .callb h d a b imm => Sys2Proof.Machine.execCallb h d a b imm s
  | .ret h a => Sys2Proof.Machine.execRet h a s
  | .exit h => Sys2Proof.Machine.execExit h s
  | .wsync h a => Sys2Proof.Machine.execWsync h a s
  | .nop h => Sys2Proof.Machine.execNop h s
  | .mov h d a => Sys2Proof.Machine.execMov h d a s
  | .movw h d a b => Sys2Proof.Machine.execMovw h d a b s
  | .movi h d imm => Sys2Proof.Machine.execMovi h d imm s
  | .movl h m d imm => Sys2Proof.Machine.execMovl h m d imm s
  | .grow h m d a => Sys2Proof.Machine.execGrow h m d a s
  | .shrink h d a => Sys2Proof.Machine.execShrink h d a s
  | .capmk h d a b => Sys2Proof.Machine.execCapmk h d a b s
  | .capnrw h d a b x => Sys2Proof.Machine.execCapnrw h d a b x s
  | .capchk h m d a b x => Sys2Proof.Machine.execCapchk h m d a b x s
  | .caprd h d a b => Sys2Proof.Machine.execCaprd h d a b s
  | .fadd h m d a b => Sys2Proof.Machine.execFadd h m d a b s
  | .fmul h m d a b => Sys2Proof.Machine.execFmul h m d a b s
  | .ffma h m d a b x => Sys2Proof.Machine.execFfma h m d a b x s
  | .fmin h m d a b => Sys2Proof.Machine.execFmin h m d a b s
  | .fmax h m d a b => Sys2Proof.Machine.execFmax h m d a b s
  | .fabs h m d a => Sys2Proof.Machine.execFabs h m d a s
  | .fneg h m d a => Sys2Proof.Machine.execFneg h m d a s
  | .frcp h m d a => Sys2Proof.Machine.execFrcp h m d a s
  | .fsqrt h m d a => Sys2Proof.Machine.execFsqrt h m d a s
  | .frsq h m d a => Sys2Proof.Machine.execFrsq h m d a s
  | .fexp2 h m d a => Sys2Proof.Machine.execFexp2 h m d a s
  | .flog2 h m d a => Sys2Proof.Machine.execFlog2 h m d a s
  | .fsin h m d a => Sys2Proof.Machine.execFsin h m d a s
  | .fcos h m d a => Sys2Proof.Machine.execFcos h m d a s
  | .fdiv h m d a b => Sys2Proof.Machine.execFdiv h m d a b s
  | .fclass h m d a => Sys2Proof.Machine.execFclass h m d a s
  | .ckcmp h d a b => Sys2Proof.Machine.execCkcmp h d a b s
  | .ckfix h d a b x => Sys2Proof.Machine.execCkfix h d a b x s
  | .faddH h m d a b => Sys2Proof.Machine.execFaddH h m d a b s
  | .fmulH h m d a b => Sys2Proof.Machine.execFmulH h m d a b s
  | .ffmaH h m d a b x => Sys2Proof.Machine.execFfmaH h m d a b x s
  | .fminH h m d a b => Sys2Proof.Machine.execFminH h m d a b s
  | .fmaxH h m d a b => Sys2Proof.Machine.execFmaxH h m d a b s
  | .fabsH h m d a => Sys2Proof.Machine.execFabsH h m d a s
  | .fnegH h m d a => Sys2Proof.Machine.execFnegH h m d a s
  | .frcpH h m d a => Sys2Proof.Machine.execFrcpH h m d a s
  | .fexp2H h m d a => Sys2Proof.Machine.execFexp2H h m d a s
  | .fdot2 h m d a b x => Sys2Proof.Machine.execFdot2 h m d a b x s
  | .cvt h m d a => Sys2Proof.Machine.execCvt h m d a s
  | .packk h m d a => Sys2Proof.Machine.execPackk h m d a s
  | .unpkk h m d a b => Sys2Proof.Machine.execUnpkk h m d a b s
  | .ftag h d a imm => Sys2Proof.Machine.execFtag h d a imm s
  | .ftagrd h d a => Sys2Proof.Machine.execFtagrd h d a s
  | .shfl h m d a b => Sys2Proof.Machine.execShfl h m d a b s
  | .shfli h m d a imm => Sys2Proof.Machine.execShfli h m d a imm s
  | .vote h m d a => Sys2Proof.Machine.execVote h m d a s
  | .red h m d a => Sys2Proof.Machine.execRed h m d a s
  | .scan h m d a => Sys2Proof.Machine.execScan h m d a s
  | .scanx h m d a => Sys2Proof.Machine.execScanx h m d a s
  | .ld h m d a b imm => Sys2Proof.Machine.execLd h m d a b imm s
  | .st h m d a b imm => Sys2Proof.Machine.execSt h m d a b imm s
  | .ldl h m d a b imm => Sys2Proof.Machine.execLdl h m d a b imm s
  | .stl h m d a b imm => Sys2Proof.Machine.execStl h m d a b imm s
  | .ldt h m d a b imm => Sys2Proof.Machine.execLdt h m d a b imm s
  | .stt h m d a b imm => Sys2Proof.Machine.execStt h m d a b imm s
  | .pref h m a b imm => Sys2Proof.Machine.execPref h m a b imm s
  | .atomAdd h m d a b => Sys2Proof.Machine.execAtomAdd h m d a b s
  | .atomSmin h m d a b => Sys2Proof.Machine.execAtomSmin h m d a b s
  | .atomSmax h m d a b => Sys2Proof.Machine.execAtomSmax h m d a b s
  | .atomUmin h m d a b => Sys2Proof.Machine.execAtomUmin h m d a b s
  | .atomUmax h m d a b => Sys2Proof.Machine.execAtomUmax h m d a b s
  | .atomAnd h m d a b => Sys2Proof.Machine.execAtomAnd h m d a b s
  | .atomOr h m d a b => Sys2Proof.Machine.execAtomOr h m d a b s
  | .atomXor h m d a b => Sys2Proof.Machine.execAtomXor h m d a b s
  | .atomExch h m d a b => Sys2Proof.Machine.execAtomExch h m d a b s
  | .atomFadd h m d a b => Sys2Proof.Machine.execAtomFadd h m d a b s
  | .atomcas h m d a b x => Sys2Proof.Machine.execAtomcas h m d a b x s
  | .fence h m => Sys2Proof.Machine.execFence h m s
  | .pbar h => Sys2Proof.Machine.execPbar h s
  | .psync h a => Sys2Proof.Machine.execPsync h a s
  | .cpy h d a b => Sys2Proof.Machine.execCpy h d a b s
  | .sleep h a b => Sys2Proof.Machine.execSleep h a b s
  | .monitor h d a b imm => Sys2Proof.Machine.execMonitor h d a b imm s
  | .mwait h d a => Sys2Proof.Machine.execMwait h d a s
  | .bar h imm => Sys2Proof.Machine.execBar h imm s
  | .bardrop h imm => Sys2Proof.Machine.execBardrop h imm s
  | .gbar h imm => Sys2Proof.Machine.execGbar h imm s
  | .gred h m d a b => Sys2Proof.Machine.execGred h m d a b s
  | .nbarrive h imm => Sys2Proof.Machine.execNbarrive h imm s
  | .nbwait h imm => Sys2Proof.Machine.execNbwait h imm s
  | .psend h d a b => Sys2Proof.Machine.execPsend h d a b s
  | .precv h d b x => Sys2Proof.Machine.execPrecv h d b x s
  | .commit h => Sys2Proof.Machine.execCommit h s
  | .mclaim d imm => Sys2Proof.Machine.execMclaim d imm s
  | .mrelease d imm => Sys2Proof.Machine.execMrelease d imm s
  | .mfill m d a b imm => Sys2Proof.Machine.execMfill m d a b imm s
  | .mma m d a b x => Sys2Proof.Machine.execMma m d a b x s
  | .mmack m d a b x => Sys2Proof.Machine.execMmack m d a b x s
  | .marrive imm => Sys2Proof.Machine.execMarrive imm s
  | .mwaitnb imm => Sys2Proof.Machine.execMwaitnb imm s
  | .mend => Sys2Proof.Machine.execMend s
  | .trap h a imm => Sys2Proof.Machine.execTrap h a imm s
  | .tret h m a => Sys2Proof.Machine.execTret h m a s
  | .srd h d imm => Sys2Proof.Machine.execSrd h d imm s
  | .swr h a imm => Sys2Proof.Machine.execSwr h a imm s
  | .launch h d a => Sys2Proof.Machine.execLaunch h d a s
  | .launchg h d a b => Sys2Proof.Machine.execLaunchg h d a b s
  | .ljoin h m d a x => Sys2Proof.Machine.execLjoin h m d a x s
  | .task h d a b x => Sys2Proof.Machine.execTask h d a b x s
  | .brk h imm => Sys2Proof.Machine.execBrk h imm s
  | .mdrainSave h a b => Sys2Proof.Machine.execMdrainSave h a b s
  | .mdrainLoad h a b => Sys2Proof.Machine.execMdrainLoad h a b s
  | .sweep h d a b x => Sys2Proof.Machine.execSweep h d a b x s
  | .ewait h a b => Sys2Proof.Machine.execEwait h a b s
  | .edone h a b => Sys2Proof.Machine.execEdone h a b s
  | .ewake h d a b => Sys2Proof.Machine.execEwake h d a b s
  | .mbbind h d a b x => Sys2Proof.Machine.execMbbind h d a b x s
  | .mbpost h d a b x => Sys2Proof.Machine.execMbpost h d a b x s
  | .mbtake h d a b => Sys2Proof.Machine.execMbtake h d a b s
  | .mbstat h d a => Sys2Proof.Machine.execMbstat h d a s
  | .mbfloor h d a b => Sys2Proof.Machine.execMbfloor h d a b s
  | .mbfree h d a => Sys2Proof.Machine.execMbfree h d a s
  | .fillLand w reg ecc => Sys2Proof.Machine.execFillLand w reg ecc s
  | .writeBack w id => Sys2Proof.Machine.execWriteBack w id s
  | .requestLeavesCore id => Sys2Proof.Machine.execRequestLeavesCore id s
  | .l2Accept id => Sys2Proof.Machine.execL2Accept id s
  | .dieLinkApply id => Sys2Proof.Machine.execDieLinkApply id s
  | .atomicExecute id => Sys2Proof.Machine.execAtomicExecute id s
  | .durableAccept id => Sys2Proof.Machine.execDurableAccept id s
  | .wbmaxRelease stack bytes => Sys2Proof.Machine.execWbmaxRelease stack bytes s
  | .translationWalk w lane => Sys2Proof.Machine.execTranslationWalk w lane s
  | .faultReport w lane => Sys2Proof.Machine.execFaultReport w lane s
  | .lineWriteWake w lane => Sys2Proof.Machine.execLineWriteWake w lane s
  | .mwaitTimeout w lane => Sys2Proof.Machine.execMwaitTimeout w lane s
  | .sleepWake w lane => Sys2Proof.Machine.execSleepWake w lane s
  | .copyComplete core => Sys2Proof.Machine.execCopyComplete core s
  | .copyFault core => Sys2Proof.Machine.execCopyFault core s
  | .collectiveInstance group k => Sys2Proof.Machine.execCollectiveInstance group k s
  | .memberAnnounceRemoval group dev => Sys2Proof.Machine.execMemberAnnounceRemoval group dev s
  | .memberSilenceTimeout group dev => Sys2Proof.Machine.execMemberSilenceTimeout group dev s
  | .flitCrcResend kind loc ok => Sys2Proof.Machine.execFlitCrcResend kind loc ok s
  | .faultRetry kind loc found => Sys2Proof.Machine.execFaultRetry kind loc found s
  | .strikeReplay zone => Sys2Proof.Machine.execStrikeReplay zone s
  | .preemptRequestArrival core => Sys2Proof.Machine.execPreemptRequestArrival core s
  | .switchOut w => Sys2Proof.Machine.execSwitchOut w s
  | .noSafePoint w => Sys2Proof.Machine.execNoSafePoint w s
  | .matrixFreeze b => Sys2Proof.Machine.execMatrixFreeze b s
  | .switchIn b => Sys2Proof.Machine.execSwitchIn b s
  | .poolGrant core => Sys2Proof.Machine.execPoolGrant core s
  | .fairnessRun w => Sys2Proof.Machine.execFairnessRun w s
  | .ageingPromotion w => Sys2Proof.Machine.execAgeingPromotion w s
  | .noProgress w lane => Sys2Proof.Machine.execNoProgress w lane s
  | .stalledWaveReport w => Sys2Proof.Machine.execStalledWaveReport w s
  | .blockPlacement cluster => Sys2Proof.Machine.execBlockPlacement cluster s
  | .priorityPreempt cluster => Sys2Proof.Machine.execPriorityPreempt cluster s
  | .waveRetire w => Sys2Proof.Machine.execWaveRetire w s
  | .matrixOpComplete b => Sys2Proof.Machine.execMatrixOpComplete b s
  | .mfillComplete b => Sys2Proof.Machine.execMfillComplete b s
  | .sequencerIllegal b => Sys2Proof.Machine.execSequencerIllegal b s
  | .commitDrainDone b => Sys2Proof.Machine.execCommitDrainDone b s
  | .bindService tenant => Sys2Proof.Machine.execBindService tenant s
  | .migrationPull asid va => Sys2Proof.Machine.execMigrationPull asid va s
  | .gazetteerUpdate entry body => Sys2Proof.Machine.execGazetteerUpdate entry body s
  | .hostWrite pa bytes => Sys2Proof.Machine.execHostWrite pa bytes s
  | .hostRead pa n => Sys2Proof.Machine.execHostRead pa n s
  | .powerFail => Sys2Proof.Machine.execPowerFail s
  | .durableDrainDone complete => Sys2Proof.Machine.execDurableDrainDone complete s
  | .powerUp => Sys2Proof.Machine.execPowerUp s
  | .thermalTrip => Sys2Proof.Machine.execThermalTrip s
  | .registerInjection idx => Sys2Proof.Machine.execRegisterInjection idx s
  | .sweepLaneLoad w => Sys2Proof.Machine.execSweepLaneLoad w s
  | .sweepCountPass w => Sys2Proof.Machine.execSweepCountPass w s
  | .lineWatchWakeScan core slot => Sys2Proof.Machine.execLineWatchWakeScan core slot s
  | .take mb v => Sys2Proof.Machine.execTake mb v s
  | .post mb v => Sys2Proof.Machine.execPost mb v s
  | .episodeExit e code => Sys2Proof.Machine.execEpisodeExit e code s
  | .episodeYield e => Sys2Proof.Machine.execEpisodeYield e s
  | .episodeWait e => Sys2Proof.Machine.execEpisodeWait e s
  | .episodeException e cause tval => Sys2Proof.Machine.execEpisodeException e cause tval s
  | .episodeEccError core => Sys2Proof.Machine.execEpisodeEccError core s
  | .quantumExpiry core => Sys2Proof.Machine.execQuantumExpiry core s
  | .stepWatchdogExpiry e k => Sys2Proof.Machine.execStepWatchdogExpiry e k s
  | .deadlineExpiry e => Sys2Proof.Machine.execDeadlineExpiry e s
  | .wctlPreempt tenant launch => Sys2Proof.Machine.execWctlPreempt tenant launch s
  | .wctlCancel tenant launch => Sys2Proof.Machine.execWctlCancel tenant launch s
  | .wctlResume tenant launch => Sys2Proof.Machine.execWctlResume tenant launch s
  | .wctlKillLaunch tenant launch => Sys2Proof.Machine.execWctlKillLaunch tenant launch s
  | .wctlKillBlock tenant launch block => Sys2Proof.Machine.execWctlKillBlock tenant launch block s
  | .wctlKillWaveBlock tenant launch block wave => Sys2Proof.Machine.execWctlKillWaveBlock tenant launch block wave s
  | .recbaseRelease tenant => Sys2Proof.Machine.execRecbaseRelease tenant s
  | .loadObject tenant req => Sys2Proof.Machine.execLoadObject tenant req s
  | .unloadObject tenant req => Sys2Proof.Machine.execUnloadObject tenant req s
  | .collectiveWindow tenant req => Sys2Proof.Machine.execCollectiveWindow tenant req s
  | .debuggerAttach tenant req => Sys2Proof.Machine.execDebuggerAttach tenant req s
  | .armInjection tenant req => Sys2Proof.Machine.execArmInjection tenant req s
  | .scoreboardSwitch tenant req => Sys2Proof.Machine.execScoreboardSwitch tenant req s
  | .attestationQuote tenant req => Sys2Proof.Machine.execAttestationQuote tenant req s
  | .mapGranuleImage tenant req => Sys2Proof.Machine.execMapGranuleImage tenant req s
  | .map tenant req => Sys2Proof.Machine.execMap tenant req s
  | .unmap tenant req => Sys2Proof.Machine.execUnmap tenant req s
  | .protect tenant req => Sys2Proof.Machine.execProtect tenant req s
  | .migrate tenant req => Sys2Proof.Machine.execMigrate tenant req s
  | .discard tenant req => Sys2Proof.Machine.execDiscard tenant req s
  | .unshare tenant req => Sys2Proof.Machine.execUnshare tenant req s
  | .share tenant req => Sys2Proof.Machine.execShare tenant req s
  | .resume tenant req => Sys2Proof.Machine.execResume tenant req s
  | .inval tenant req => Sys2Proof.Machine.execInval tenant req s
  | .partition tenant req => Sys2Proof.Machine.execPartition tenant req s
  | .create tenant req => Sys2Proof.Machine.execCreate tenant req s
  | .destroy tenant req => Sys2Proof.Machine.execDestroy tenant req s
  | .query tenant req => Sys2Proof.Machine.execQuery tenant req s
  | .tenantCreate tenant make => Sys2Proof.Machine.execTenantCreate tenant make s
  | .setQmax tenant core q => Sys2Proof.Machine.execSetQmax tenant core q s
  | .writeKeySlot tenant slot key => Sys2Proof.Machine.execWriteKeySlot tenant slot key s
  | .writeRaspol v => Sys2Proof.Machine.execWriteRaspol v s
  | .assignDurableFrames tenant first count => Sys2Proof.Machine.execAssignDurableFrames tenant first count s
  | .moduleReset => Sys2Proof.Machine.execModuleReset s
  | .dieReset die => Sys2Proof.Machine.execDieReset die s
  | .tenantReset tenant => Sys2Proof.Machine.execTenantReset tenant s
  | .episodeReset e => Sys2Proof.Machine.execEpisodeReset e s
  | .readmitDevice group dev => Sys2Proof.Machine.execReadmitDevice group dev s
  | .setPowerCap watts => Sys2Proof.Machine.execSetPowerCap watts s
  | .readTelemetry => Sys2Proof.Machine.execReadTelemetry s
  | .spuriousWake w lane => Sys2Proof.Machine.execSpuriousWake w lane s
  | .journalAgeOut id => Sys2Proof.Machine.execJournalAgeOut id s
  | .seqerrClear mb => Sys2Proof.Machine.execSeqerrClear mb s

end Sys2Proof.Machine
end

