-- ==== Sys2Proof/Machine/Step.lean ====
section
/-! DEFINITION. One step of the machine. A step is the first of these that is due: an input of the environment, an
event of the device's own units, an instruction that a quadrant or a sequencer issues, and otherwise the end of the
cycle (00: R3; 10: R193). -/

namespace Sys2Proof.Machine

def tryOut : Out → Option State
  | .next t => some t
  | _ => none

/-! ### Inputs -/

/-- The first listed input whose cycle has come. An input is a device step, never an instruction. -/
def State.dueInput (s : State) : Option (Nat × Instr) :=
  s.inputs.find? fun e => decide (e.1 ≤ s.cyc) && (encode e.2).isNone
/-- An input is consumed; it has its effect where the device takes it. -/
def State.takeInput (s : State) (e : Nat × Instr) : State :=
  let s1 := { s with inputs := s.inputs.erase e, curLanes := 0 }
  match exec e.2 s1 with
  | .next t => s.syncJournal t
  | _ => s1

/-! ### The device's own events -/

/-- Wakes first, then every other request (24: R371). -/
def State.leaveEvent (s : State) : Option State :=
  let wakes := fun (r : Request) => match r.kind with | .wake _ _ _ _ => true | _ => false
  let go := fun (rs : List Request) => rs.findSome? fun r => tryOut (execRequestLeavesCore r.id s)
  (go (s.reqs.filter wakes)).or (go (s.reqs.filter fun r => !wakes r))
def State.lineScanEvent (s : State) : Option State :=
  s.watchRegs.findSome? fun e => e.2.findSome? fun r => tryOut (execLineWatchWakeScan e.1 r.slot s)
/-- Bytes of the media buffer drain when a write that is due finds no room. -/
def State.drainEvent (s : State) : Option State :=
  s.durQueue.findSome? fun w =>
    if w.due ≤ s.cyc ∧ s.wbmax < s.bufferedAt w.stack + w.size then tryOut (execWbmaxRelease w.stack (s.bufferedAt w.stack) s)
    else none
def State.memoryEvent (s : State) : Option State :=
  (((s.scanOn).or s.lineScanEvent).or s.leaveEvent).or
    ((s.coreWrites.findSome? fun w => tryOut (execL2Accept w.id s)).or
      ((s.linkWrites.findSome? fun w => tryOut (execDieLinkApply w.id s)).or
        ((s.atomics.findSome? fun a => tryOut (execAtomicExecute a.id s)).or
          ((s.durQueue.findSome? fun w => tryOut (execDurableAccept w.id s)).or s.drainEvent))))

/-- What a waiting lane's wait ends in. -/
def State.laneEvent (s : State) (wi : Nat) (w : Wave) (l : Nat) : Option State :=
  match (w.lane l).status with
  | .parked _ => tryOut (execFaultReport wi l s)
  | .inside (.walk _ _ _ _) => tryOut (execTranslationWalk wi l s)
  | .inside (.mwait _) => (tryOut (execLineWriteWake wi l s)).or (tryOut (execMwaitTimeout wi l s))
  | .blocked (.sleep _) => tryOut (execSleepWake wi l s)
  | .ready => tryOut (execNoProgress wi l s)
  | _ => none
/-- What one wave's units do by themselves. -/
def State.waveEvent (s : State) (wi : Nat) (w : Wave) : Option State :=
  if w.retired then none
  else
    ((w.wbs.findSome? fun b => tryOut (execWriteBack wi b.id s)).or
      (w.ocache.findSome? fun e => if e.fill.isSome then tryOut (execFillLand wi e.reg .clean s) else none)).or
    (((List.range 32).findSome? (s.laneEvent wi w)).or
      (if !w.resident then none
       else
        ([s.seqTrap wi, tryOut (execSweepLaneLoad wi s), tryOut (execSweepCountPass wi s), tryOut (execSwitchOut wi s),
          tryOut (execNoSafePoint wi s), tryOut (execFairnessRun wi s), tryOut (execAgeingPromotion wi s),
          tryOut (execStalledWaveReport wi s), tryOut (execWaveRetire wi s)]).findSome? id))
def State.wavesEvent (s : State) : Option State :=
  (List.range s.waves.length).findSome? fun i => (s.wave? i).bind (s.waveEvent i)

/-- What one block's sequencer, queue and buffer do by themselves. -/
def State.blockEvent (s : State) (bi : Nat) (b : Block) : Option State :=
  if b.state.isEnded then none
  else
    ([tryOut (execMatrixOpComplete bi s), tryOut (execMfillComplete bi s), s.streamRefused bi, tryOut (execSequencerIllegal bi s),
      tryOut (execCommitDrainDone bi s), tryOut (execMatrixFreeze bi s), tryOut (execSwitchIn bi s)]).findSome? id
def State.blocksEvent (s : State) : Option State :=
  (List.range s.blocks.length).findSome? fun i => (s.blocks[i]?).bind (s.blockEvent i)

/-- Copies and collective instances. -/
def State.copyEvent (s : State) : Option State :=
  (s.copies.findSome? fun e => match e.2 with
    | [] => none
    | c :: _ => if c.start ≤ s.cyc then (tryOut (execCopyComplete e.1 s)).or (tryOut (execCopyFault e.1 s)) else none).or
  (s.collectives.findSome? fun k => tryOut (execCollectiveInstance k.g k.k s))

/-- Pre-emption, the pool, placement and the journal. -/
def State.schedulerEvent (s : State) : Option State :=
  ((s.preempts.findSome? fun p => tryOut (execPreemptRequestArrival p.1 s)).or
    (s.poolQueue.findSome? fun e => tryOut (execPoolGrant e.1 s))).or
  (((List.range 6).findSome? fun k => (tryOut (execBlockPlacement k s)).or (tryOut (execPriorityPreempt k s))).or
    (s.journal.findSome? fun e => tryOut (execJournalAgeOut e.id s)))

/-- The chart cores' services and what they move. -/
def State.serviceEvent (s : State) : Option State :=
  ((s.tenants.findSome? fun e => (tryOut (execBindService e.1 s)).or (s.serveNext e.1)).or
    (s.pages.findSome? fun p => p.mig.bind fun m => m.2.head?.bind fun line => tryOut (execMigrationPull p.asid (p.va + 64 * line) s))).or
  ((List.range s.injections.length).findSome? fun k => tryOut (execRegisterInjection k s))

/-- The field cluster's timers. -/
def State.fieldEvent (s : State) : Option State :=
  (s.episodes.findSome? fun e =>
    ((List.range e.2.nmb).findSome? fun k => tryOut (execStepWatchdogExpiry e.1 k s)).or (tryOut (execDeadlineExpiry e.1 s))).or
  (s.runQueues.findSome? fun e => tryOut (execQuantumExpiry e.1 s))

/-- The first event that is due. -/
def State.internal (s : State) : Option State :=
  (s.killDoomed).or <|
    let t := { s with curLanes := 0 }
    (t.memoryEvent).or ((t.wavesEvent).or ((t.blocksEvent).or ((t.copyEvent).or ((t.schedulerEvent).or ((t.serviceEvent).or t.fieldEvent)))))

/-! ### Issue -/

/-- The machine with its attention on one cohort. -/
def State.focus (s : State) (wi : Nat) (m : LaneMask) : State := { s with cur := wi, curLanes := m }
/-- A cohort's instruction is run; when it issues, its fill field asks for operands. -/
def State.issueAt (s : State) (wi : Nat) (m : LaneMask) (i : Instr) : Out :=
  let pc := match s.wave? wi with | some w => w.pcOf m | none => 0
  match exec i (s.focus wi m) with
  | .next t => .next (if s.issuedQ.length < t.issuedQ.length then t.hintFills wi m pc i else t)
  | o => o
/-- A step of a wave of a quadrant that takes no slot. -/
def State.slotlessOn (s : State) (core q : Nat) : Option State :=
  (s.wavesOn core q).findSome? fun wi => (s.wave? wi).bind fun w => (s.focus wi w.select).slotless wi
/-- What a quadrant does now. -/
def State.quadrantStep (s : State) (c : Nat) : Option Out :=
  match s.slotlessOn (c / 4) (c % 4) with
  | some t => some (.next t)
  | none => (s.choose (c / 4) (c % 4)).map fun p => s.issueAt p.1 p.2.1 p.2.2
/-- The code of a block's sequencer among the slots of a cycle. -/
def streamCode (bi : Nat) : Nat := 1536 + bi
/-- A sequencer issues one word in a cycle (14: R247). -/
def State.streamStep (s : State) (bi : Nat) : Option Out :=
  if s.issuedQ.contains (streamCode bi) then none
  else
    ((s.blocks[bi]?).bind s.streamInstr).map fun i =>
      exec i { s with curBlock := bi, issuedQ := s.issuedQ ++ [streamCode bi] }
def State.issueStep (s : State) : Option Out :=
  (s.openQuadrants.findSome? s.quadrantStep).or ((List.range s.blocks.length).findSome? s.streamStep)

/-! ### The step -/

def step (s : State) : Host.Outcome State Fault Refusal :=
  match s.dueInput with
  | some e => .next (s.takeInput e)
  | none =>
    if s.power ≠ .on then .next { s with cyc := s.cyc + 1 }
    else
      match s.internal with
      | some t => .next (s.syncJournal t)
      | none =>
        match s.issueStep with
        | some o => o
        | none => .next (s.syncJournal s.tick)

/-! ### A word where the next step fetches (log entry 3) -/

/-- The address and the frame at which a program of one word is placed. -/
def loadVa : Nat := 0x10000
def loadPage : Page :=
  { asid := 1, va := loadVa, size := 4096, r := true, w := true, x := true, u := true, g := false, sw := false, res := 0
    kind := 0, pa := 0, dev := 0, disc := none, mig := none, orig := none }
def loadCart : Cartouche :=
  { addr := 0, tenant := 1, object := 0, compat16 := false, progOff := false, forerunner := false, idempotent := false, contained := false
    mirror := false, checkstall := false, role := 0, entry := loadVa, waves := 1, frame := 256, maxframe := 256, scratchG := 0
    tiles := 64, commitG := 0, ncap := 0, mstream := loadVa, groups := [], mboxn := 0, gangsym := 0, pipes := [] }
def loadLaunch : Launch :=
  { id := 1, tenant := 1, cart := loadCart, bx := 1, by_ := 1, bz := 1, asid := 1, prio := 0, nojoin := true, rect := none, args := 0
    caps := [], gang := none, made := 1, completed := 0, faulted := 0, killed := 0, relaunched := 0, ended := false, ending := none
    known := true, mbox := 0, task := none, regions := [], debugger := false, scoreboard := false, preempted := false, stayOut := false, displaced := false
    home := 0, freeing := false, waiters := [] }
def loadBlock (li wi : Nat) (stream : Option Instr) : Block :=
  { launch := li, index := 0, state := .resident, core := 0, waves := [wi], barriers := [], arrIds := [], marr := [], slots := []
    arr := (match stream with | some (.mwaitnb n) => SMap.set 0 [] (n.toNat % 16) (n.toNat / 16) | _ => [])
    seq := if stream.isSome then .running else .none, seqPc := loadVa, redo := none, seqOps := [], seqFault := none, seqSave := [], relTiles := false
    frozenTrapped := false, thaw := false, scratch := [], commit := [], drain := none, exitDrained := false, effects := false
    relaunched := false, faultMark := false, gScratch := 0, gTiles := 64, gCommit := 0, gWaves := 16, outSince := 0
    evictedTo := none, leaving := none, evictFailed := false, restore := none, doomed := none }
/-- A wave with lane 0 at the word, or with no lane where the word is the sequencer's. The operands the word names are
in its cache. -/
def loadWave (li bi : Nat) (i : Option Instr) (stream : Bool) : Wave :=
  let w := loadLaunch.newWave li bi 0 0 0 0 false
  let lane := if stream then { Lane.start loadVa with stopped := true } else Lane.start loadVa
  { w with
    lanes := lane :: List.replicate 31 Lane.dead
    ocache := ((i.bind Instr.view).map fun v => (viewSources v).eraseDups.map fun n => (⟨n, 1, 0, none, 0, [], 0⟩ : CacheEntry)).getD [] }
/-- The instruction of `nbits` bits `w`, stored where the next step fetches: a loaded program of one word. -/
def State.withFetchWord (s : State) (nbits w : Nat) : State :=
  let i := decodeTableWord nbits w
  let stream := decide (fld w 92 4 = 0xC)
  let li := s.launches.length
  let bi := s.blocks.length
  let wi := s.waves.length
  let bytes := natLe 12 w
  { s with
    view0 := Memory.write s.view0 0 bytes, view1 := Memory.write s.view1 0 bytes
    pages := loadPage :: s.pages
    tenants := SMap.set Tenant.absent s.tenants 1 { Tenant.absent with live := true, asids := [1] }
    launches := s.launches ++ [loadLaunch]
    blocks := s.blocks ++ [loadBlock li wi (if stream then i else none)]
    waves := s.waves ++ [loadWave li bi i stream] }

end Sys2Proof.Machine
end

