-- ==== Sys2Proof/Safety.lean ====
section
/-! DEFINITION. The terms the claims use: the invariant of a state, what an issue leaves unchanged, and when an
instruction has its own effect rather than a trap. -/

namespace Sys2Proof.Machine

/-! ### The invariant -/

/-- The memories of both dies, the media and the media of the last epoch are in their canonical form. -/
abbrev State.memOk (s : State) : Prop :=
  s.view0.wf = true ∧ s.view1.wf = true ∧ s.media.wf = true ∧ s.mediaOld.wf = true

/-- A wave's registers are in canonical form, it has 32 lanes, and its results have identifiers that have been given
out. -/
def Wave.tidy (w : Wave) (fresh : Nat) : Prop :=
  SMap.wf RegCell.zero w.frame = true ∧ SMap.wf RegCell.zero w.wregs = true ∧ w.lanes.length = 32 ∧ ∀ b ∈ w.wbs, b.id < fresh
/-- A block's slots and scratchpad are in canonical form. -/
def Block.tidy (b : Block) : Prop := SMap.wf Slot.free b.slots = true ∧ SMap.wf (0 : Byte) b.scratch = true
/-- Every table of the device is in its canonical form, in the waves and blocks and in what the journals keep of them. -/
structure State.tidy (s : State) : Prop where
  tenants : SMap.wf Tenant.absent s.tenants = true
  mailboxes : SMap.wf Mailbox.unbound s.mailboxes = true
  episodes : SMap.wf Episode.free s.episodes = true
  runQueues : SMap.wf [] s.runQueues = true
  copies : SMap.wf [] s.copies = true
  poolQueue : SMap.wf [] s.poolQueue = true
  gazetteer : SMap.wf [] s.gazetteer = true ∧ SMap.wf 0 s.gazetteerSeq = true
  engines : SMap.wf 0 s.engineUsed = true ∧ SMap.wf 0 s.evictFree = true ∧ SMap.wf 0 s.checking = true
  waves : ∀ w ∈ s.waves, w.tidy s.fresh
  kept : ∀ e ∈ s.journal, e.wave.tidy s.fresh ∧ ∀ b, e.block = some b → b.tidy
  blocks : ∀ b ∈ s.blocks, b.tidy
  streams : ∀ e ∈ s.seqJournal, e.block.tidy
  requests : ∀ r ∈ s.reqs, r.id < s.fresh

/-! ### No check of issue fails -/

/-- The common checks of R413 (04) find nothing. -/
abbrev Cx.passes (cx : Cx) (s : State) : Prop := cx.commonTrap s (fun _ => cx.v.lens) none = none

/-! ### What an issue does -/

/-- Everything but the waves and what every issue writes: the journal, the fresh counter and the slots of the cycle. -/
def State.rest (s : State) : State := { s with waves := [], journal := [], fresh := 0, issuedQ := [] }
/-- The state without one of its parts, so that a claim can say what an instruction leaves unchanged. -/
def State.sansBlocks (s : State) : State := { s with blocks := [] }
def State.sansPool (s : State) : State := { s with poolQueue := [] }
def State.sansLines (s : State) : State := { s with lines := [] }
def State.sansReqs (s : State) : State := { s with reqs := [] }

/-- A lane of the wave as the issue leaves it, before it goes on: its stall counter, starvation and status events,
and the count of the completion flag where a result is under way (01: R18, R19; 10: R198; 05: R114). -/
def Cx.laneIssued (cx : Cx) (s : State) (ev : Nat → Events) (counts : Bool) (l : Nat) : Lane :=
  let x := cx.w.lane l
  let x := if cx.all.getLsbD l then x.issued s.cyc else x
  let x := if cx.ex.getLsbD l then { x with fstat := x.fstat ||| ev l } else x
  if counts && cx.ex.getLsbD l then x.bumpCount cx.v.hdr.setFlag else x

/-- Everything of a wave but its registers, lanes and results, and its scheduling state (10: R193 to R202). -/
def Wave.rest (w : Wave) : Wave :=
  { w with wbs := [], frame := [], wregs := [], ocache := [], lanes := [], effClass := 0, age := 0, lastIssue := none
           idle := 0, owner := none, replay := [], fair := none, yielding := none }

/-- `t` is `s` after the instruction of `cx` has issued, and everything outside the waves is as in `o` but the journal,
the fresh counter and the quadrant's slot: the registers named by last-use bits are released, the results `news` are
under way, every lane is as `lane` says; no other wave has changed, and in the wave nothing but its scheduling state. -/
structure Cx.CompletesIn (cx : Cx) (s t o : State) (news : List WriteBack) (lane : Nat → Lane) : Prop where
  others : ∀ k, k ≠ cx.wi → t.waves[k]? = s.waves[k]?
  rest : t.rest = o.rest
  slot : t.issuedQ = s.issuedQ ++ [4 * cx.w.core + cx.w.quadrant]
  wave : ∃ w, t.waves[cx.wi]? = some w ∧ w.wbs = cx.w.wbs ++ news ∧
    w.frame = (cx.w.releases cx.ex cx.v).frame ∧ w.wregs = (cx.w.releases cx.ex cx.v).wregs ∧
    w.lanes.length = cx.w.lanes.length ∧ (∀ l, l < cx.w.lanes.length → w.lane l = lane l) ∧
    w.rest = cx.w.rest

/-- The same where nothing outside the waves changes: memory, every table, queue and special register among it. -/
abbrev Cx.Completes (cx : Cx) (s t : State) (news : List WriteBack) (lane : Nat → Lane) : Prop :=
  cx.CompletesIn s t s news lane

/-- The cohort's lanes go on at PC + 12. -/
def Cx.goOn (cx : Cx) (l : Nat) (x : Lane) : Lane := if cx.all.getLsbD l then x.next else x

/-- The one result of an instruction, none where no lane executes it (01: R19). -/
def Cx.result1 (cx : Cx) (s : State) (due : Nat) (cls : Bool) (writes : List RegWrite) : List WriteBack :=
  if cx.ex = 0 then [] else [⟨s.fresh + 1, s.cyc, some due, cx.ex, cx.v.hdr.setFlag, cls, writes⟩]

/-- The instruction completes with one result: `due` its cycle, `f` the value and tag of each executing lane,
`ev` its status events. -/
def Cx.Results (cx : Cx) (s t : State) (due : Nat) (cls : Bool) (ev : Nat → Events) (writes : List RegWrite) : Prop :=
  cx.Completes s t (cx.result1 s due cls writes) fun l => cx.goOn l (cx.laneIssued s ev true l)

/-- The instruction `i` completes in `s` with a result of fixed latency: value and tag `f` in each executing lane at
its destination, status events `ev` (10: R204, R205). -/
def Computes (i : Instr) (s : State) (lat : Nat) (f : Cx → Nat → Word × Tag) (ev : Cx → Nat → Events) : Prop :=
  ∀ cx, Cx.of s i = some cx → cx.passes s →
    ∃ t, exec i s = .next t ∧ cx.Results s t (s.cyc + lat) false (ev cx) (cx.writes cx.v.d 0 (f cx) false)

/-- The same with a predicate result. -/
def Decides (i : Instr) (s : State) (f : Cx → Nat → Bool) : Prop :=
  ∀ cx, Cx.of s i = some cx → cx.passes s →
    ∃ t, exec i s = .next t ∧ cx.Results s t (s.cyc + 2) false noEvents (cx.predWrites cx.v.d (f cx))

/-- The same with a flag-class result, no sooner than a minimum (10: R206, R410). -/
def ComputesLater (i : Instr) (s : State) (least : Nat) (f : Cx → Nat → Word × Tag) (ev : Cx → Nat → Events) : Prop :=
  ∀ cx, Cx.of s i = some cx → cx.passes s →
    ∃ t due, exec i s = .next t ∧ s.cyc + least ≤ due ∧ cx.Results s t due true (ev cx) (cx.writes cx.v.d 0 (f cx) false)

/-- The instruction completes with no result, and each lane of the cohort goes as `go` says. -/
def Goes (i : Instr) (s : State) (go : Cx → Nat → Lane → Lane) : Prop :=
  ∀ cx, Cx.of s i = some cx → cx.passes s →
    ∃ t, exec i s = .next t ∧ cx.Completes s t [] fun l => go cx l (cx.laneIssued s noEvents false l)

/-! ### Lanes that wait inside -/

/-- The place of a lane among those of a mask, ascending. -/
def nth (m : LaneMask) (l : Nat) : Nat := (lanesOf m).idxOf l
/-- The results that the executing lanes owe, one each, in lane order. -/
def Cx.owing (cx : Cx) (s : State) (writes : Nat → List RegWrite) : List WriteBack :=
  (lanesOf cx.ex).map fun l => ⟨s.fresh + 1 + nth cx.ex l, s.cyc, none, bitMask l, cx.v.hdr.setFlag, true, writes l⟩
/-- Every executing lane waits inside the instruction, owing its result; the others go on. -/
def Cx.waiting (cx : Cx) (s : State) (k : Nat → Inside) (l : Nat) : Lane :=
  let x := cx.laneIssued s noEvents true l
  if cx.ex.getLsbD l then { x with status := .inside (k l), insn := some cx.i, owed := some (s.fresh + 1 + nth cx.ex l) }
  else cx.goOn l x
/-- The wave has its 32 lanes, and the identifiers of its results and of all requests have been given out (`State.tidy`). -/
def Cx.oldIds (cx : Cx) (s : State) : Prop :=
  cx.w.lanes.length = 32 ∧ (∀ b ∈ cx.w.wbs, b.id < s.fresh) ∧ ∀ r ∈ s.reqs, r.id < s.fresh

/-! ### Traps and the stream -/

/-- `t` is `s` after wave `wi`, which was `w`, has entered its handler for a trap of `lanes` (17: R283, R286): the
record, the resume PC, level S, SCRATCH zero, the trapping lanes at TVEC, the others held; no register, predicate,
tag, memory byte or other wave changes. -/
structure State.Enters (s t : State) (wi : Nat) (w : Wave) (lanes : LaneMask) (cause pc tepc : Nat) (details : List Word) : Prop where
  rest : t.rest = s.rest
  slot : t.issuedQ = s.issuedQ
  others : ∀ k, k ≠ wi → t.waves[k]? = s.waves[k]?
  wave : ∃ x, t.waves[wi]? = some x ∧
    x.inHandler = true ∧ x.level = true ∧ x.scratch = [] ∧ x.tlanes = lanes ∧ x.tepc = BitVec.ofNat 64 tepc ∧
    (x.trec.headD 0).toNat % 256 = cause ∧ (x.trec.headD 0).getLsbD 11 = w.level ∧
    x.trec.getD 3 0 = BitVec.ofNat 64 pc ∧ x.trec.getD 4 0 = lanes.setWidth 64 ∧ x.trec.getD 5 0 = BitVec.ofNat 64 s.cyc ∧
    x.trec.drop 8 = (details ++ List.replicate 8 0).take 8 ∧ x.tappendix = [] ∧
    (∀ l, l < w.lanes.length → x.lane l =
      if lanes.getLsbD l then { w.lane l with pc := (s.tenant w.tenant).tvec.toNat, lastIssue := none }
      else if (w.lane l).status = .exited then w.lane l else { w.lane l with held := true }) ∧
    x.wbs = w.wbs ∧ x.frame = w.frame ∧ x.wregs = w.wregs ∧ x.frameSize = w.frameSize ∧ x.maxframe = w.maxframe

/-- `t` is `s` after block `bi` has become `b` and its sequencer's journal has grown; nothing else has changed but the
fresh counter (14: R247). -/
def State.StreamsTo (s t : State) (bi : Nat) (b : Block) : Prop :=
  t.blocks = s.blocks.set bi b ∧
    { t with blocks := [], seqJournal := [], fresh := 0 } = { s with blocks := [], seqJournal := [], fresh := 0 }

/-! ### Accesses and requests -/

/-- The access of every executing lane is confirmed by a cached line, at physical address `pa`; it reads no marked line
and waits for no atomic or flagged store of the lane's own (21: R352; 16: R274, R276; 12: R218). -/
def Cx.Reaches (cx : Cx) (s : State) (op : LaneOp) (va pa : Nat → Nat) : Prop :=
  ∀ l, cx.ex.getLsbD l = true →
    s.confirmLine cx.w.core cx.w.asid cx.w.tenant (va l) op.acc cx.w.level = some (pa l) ∧
    ∀ p, s.walk1 cx.w.asid cx.w.level (va l) op.acc = .ok p →
      (op.acc ≠ .store → s.memMark p op.bytes = none) ∧
      (op.acc = .load → s.ownAtomic cx.wi l p op.bytes = none ∧ s.flagOpen cx.wi l cx.v.hdr.wait = none)

/-- The requests that have been made between `s` and `t`, in order, whatever their identifiers. -/
def State.Asked (s t : State) (news : List Request) : Prop :=
  ∃ rs, t.reqs = s.reqs ++ rs ∧ rs.map (fun r => { r with id := 0 }) = news

/-- A request without release or acquire that is made now for some lanes of the wave: the flag its instruction sets, and the
flags it has waited on. -/
def Cx.asks (cx : Cx) (s : State) (lanes : LaneMask) (kind : ReqKind) (flag : Option (Fin 12)) (wait : BitVec 12) : Request :=
  ⟨0, cx.wi, lanes, cx.w.core, s.cyc, none, none, 3, [], kind, flag, wait⟩

end Sys2Proof.Machine
end

