-- ==== Sys2Proof/Certificates/Slice0/Obligations.lean ====
section
/-! DEFINITION. The statements about the machine, for the provers: what each family of instructions does, what the device's
own events do, and what holds over every step. -/

open Sys2Proof Sys2Proof.Machine

/-- R86 and R87 (04): the packed integer instructions complete with their result in every sub-element, formed exactly
and then fitted: wrapped, or with .SAT saturated. IDIV and IREM are later, their results flag-class (10: R206, R410).

R88 and R89 (04): LEA adds base, index and offset modulo 2^64; IDOT4 sums four products and X in each half. -/
def Obligations.IntegerArithmeticAndAddresses : Prop :=
  (∀ (s : State) (h : Hdr) (m : IntMod) (d a b x : Operand) (imm : BitVec 27),
     let val := fun (sat : Bool) (f : Int → Int → Int → Int) (cx : Cx) (l : Nat) =>
       (int3 m.ty sat f (cx.a s l) (cx.b s l) (cx.x s l), m.ty.tag)
     let none_ := fun (_ : Cx) => noEvents
     Computes (.iadd h m d a b) s 4 (val m.sat fun A B _ => A + B) none_ ∧
     Computes (.isub h m d a b) s 4 (val m.sat fun A B _ => A - B) none_ ∧
     Computes (.imul h m d a b) s 4 (val false fun A B _ => A * B) none_ ∧
     Computes (.imulh h m d a b) s 4 (val false fun A B _ => (A * B).fdiv (2 ^ m.ty.width : Nat)) none_ ∧
     Computes (.imad h m d a b x) s 4 (val m.sat fun A B X => A * B + X) none_ ∧
     Computes (.imin h m d a b) s 4 (val false fun A B _ => min A B) none_ ∧
     Computes (.imax h m d a b) s 4 (val false fun A B _ => max A B) none_ ∧
     Computes (.iabs h m d a) s 4 (val false fun A _ _ => A.natAbs) none_ ∧
     Computes (.ineg h m d a) s 4 (val m.sat fun A _ _ => -A) none_ ∧
     Computes (.isad h m d a b x) s 4 (val false fun A B X => (A - B).natAbs + X) none_ ∧
     Computes (.iaddi h m d a imm) s 4 (val m.sat fun A _ _ => A + imm.toInt) none_ ∧
     Computes (.imuli h m d a imm) s 4 (val false fun A _ _ => A * imm.toInt) none_ ∧
     ComputesLater (.idiv h m d a b) s (if m.ty.width = 64 then 36 else 20)
       (val false fun A B _ => if B = 0 then -1 else A.tdiv B) none_ ∧
     ComputesLater (.irem h m d a b) s (if m.ty.width = 64 then 36 else 20) (val false fun A B _ => A.tmod B) none_) ∧
  (∀ (s : State) (h : Hdr) (m : IntMod) (d a b x : Operand) (imm : BitVec 15),
     Computes (.lea h m d a b imm) s 4
       (fun cx l =>
         let i := cx.b s l
         let index := match m.ty with
           | .s32 => (i.setWidth 32).signExtend 64
           | .u32 => (i.setWidth 32).zeroExtend 64
           | _ => i
         (cx.a s l + index + imm.signExtend 64, .u64)) (fun _ => noEvents) ∧
     Computes (.idot4 h m d a b x) s 6
       (fun cx l =>
         let prod := fun k j => intVal m.ty.byteOf (sub 8 (4 * k + j) (cx.a s l)) * intVal m.ty.byteOf (sub 8 (4 * k + j) (cx.b s l))
         (pack 32 [wrap 32 (intVal m.ty (sub 32 0 (cx.x s l)) + prod 0 0 + prod 0 1 + prod 0 2 + prod 0 3),
             wrap 32 (intVal m.ty (sub 32 1 (cx.x s l)) + prod 1 0 + prod 1 1 + prod 1 2 + prod 1 3)], m.ty.tag))
       (fun _ => noEvents))

/-- R60, R61 and R81: each sub-element of a packed result depends on the sub-elements at its own place alone; it keeps
the low bits of the exact result, or with .SAT the exact result held within the bounds of the type. -/
def Obligations.SubElementsAreIndependent : Prop :=
  ∀ (t : IntTy) (sat : Bool) (f : Int → Int → Int → Int) (a b x : Word) (k : Nat), k < 64 / t.width →
    let z := f (intVal t (sub t.width k a)) (intVal t (sub t.width k b)) (intVal t (sub t.width k x))
    let r := intVal t (sub t.width k (int3 t sat f a b x))
    let lo : Int := if t.signed then -2 ^ (t.width - 1) else 0
    let hi : Int := if t.signed then 2 ^ (t.width - 1) - 1 else 2 ^ t.width - 1
    (lo ≤ r ∧ r ≤ hi) ∧
    (sat = false → r % 2 ^ t.width = z % 2 ^ t.width) ∧
    (sat = true → r = max lo (min hi z))

/-- R90 to R92 (04): the logic, shift, bit-count and bit-field instructions complete with their result. A count of the
width or more leaves 0, or the sign, of itself: the formulas of a shift need no second case. -/
def Obligations.LogicShiftAndBit : Prop :=
  ∀ (s : State) (h : Hdr) (m : IntMod) (d a b x : Operand) (imm : BitVec 27),
    let none_ := fun (_ : Cx) => noEvents
    let raw := fun (f : Word → Word → Word) (cx : Cx) (l : Nat) => (f (cx.a s l) (cx.b s l), Tag.raw)
    let w := m.ty.width
    let packed := fun (cx : Cx) (o : Operand) (l : Nat) =>
      match o with | .small z => eachSub w fun _ => wrap w z.toInt | _ => (cx.readAt s .untyped o 0 l).1
    let each := fun (f : Nat → Nat → Nat) (n : Cx → Nat → Nat → Nat) (cx : Cx) (l : Nat) =>
      (eachSub w fun k => f (sub w k (cx.a s l)) (n cx l k), m.ty.tag)
    let byB := fun (cx : Cx) l k => sub w k (cx.b s l)
    let byImm := fun (_ : Cx) (_ : Nat) (_ : Nat) => imm.toNat
    let shl := fun A n => A * 2 ^ n % 2 ^ w
    let shr := fun A n => A / 2 ^ n
    let sar := fun A n => wrap w ((sext w A).fdiv (2 ^ n : Nat))
    Computes (.and h d a b) s 4 (raw fun p q => p &&& q) none_ ∧
    Computes (.or h d a b) s 4 (raw fun p q => p ||| q) none_ ∧
    Computes (.xor h d a b) s 4 (raw fun p q => p ^^^ q) none_ ∧
    Computes (.not h d a) s 4 (raw fun p _ => ~~~p) none_ ∧
    Computes (.andn h d a b) s 4 (raw fun p q => p &&& ~~~q) none_ ∧
    Computes (.andi h d a imm) s 4 (raw fun p _ => p &&& imm.signExtend 64) none_ ∧
    Computes (.ori h d a imm) s 4 (raw fun p _ => p ||| imm.signExtend 64) none_ ∧
    Computes (.xori h d a imm) s 4 (raw fun p _ => p ^^^ imm.signExtend 64) none_ ∧
    Computes (.shl h m d a b) s 4 (each shl byB) none_ ∧
    Computes (.shr h m d a b) s 4 (each shr byB) none_ ∧
    Computes (.sar h m d a b) s 4 (each sar byB) none_ ∧
    Computes (.rol h m d a b) s 4 (each (fun A n => (A * 2 ^ (n % w)) % 2 ^ w + A / 2 ^ (w - n % w)) byB) none_ ∧
    Computes (.shli h m d a imm) s 4 (each shl byImm) none_ ∧
    Computes (.shri h m d a imm) s 4 (each shr byImm) none_ ∧
    Computes (.sari h m d a imm) s 4 (each sar byImm) none_ ∧
    Computes (.popc h m d a) s 4 (each (fun A _ => (List.range w).countP fun i => A.testBit i) byImm) none_ ∧
    Computes (.clz h m d a) s 4 (each (fun A _ => ((List.range w).find? fun i => A.testBit (w - 1 - i)).getD w) byImm) none_ ∧
    Computes (.ctz h m d a) s 4 (each (fun A _ => ((List.range w).find? fun i => A.testBit i).getD w) byImm) none_ ∧
    Computes (.brev h m d a) s 4
      (each (fun A _ => ((List.range w).map fun i => if A.testBit (w - 1 - i) then 2 ^ i else 0).sum) byImm) none_ ∧
    Computes (.bfx h m d a b) s 4
      (fun cx l =>
        (eachSub w fun k =>
          let A := sub w k (packed cx a l)
          let pos := sub w k (packed cx b l) % 256
          let len := sub w k (packed cx b l) / 256 % 256
          if len = 0 ∨ w ≤ pos then 0
          else if m.ty.signed then wrap w (sext (min len (w - pos)) (A / 2 ^ pos)) else A / 2 ^ pos % 2 ^ min len (w - pos), .raw))
      none_ ∧
    Computes (.bfi h m d a b x) s 4
      (fun cx l =>
        (eachSub w fun k =>
          let A := sub w k (packed cx a l)
          let B := sub w k (packed cx b l)
          let pos := sub w k (packed cx x l) % 256
          let len := sub w k (packed cx x l) / 256 % 256
          let n := min len (w - pos)
          if len = 0 ∨ w ≤ pos then B
          else B % 2 ^ pos + A % 2 ^ n * 2 ^ pos + B / 2 ^ (pos + n) * 2 ^ (pos + n), .raw))
      none_

/-- R91 to R93 and R95 (04): the integer compare, predicate and select instructions complete with their result. -/
def Obligations.ComparesPredicatesAndSelects : Prop :=
  ∀ (s : State) (h : Hdr) (mi : ICondMod) (d a b x : Operand) (imm : BitVec 27),
    let none_ := fun (_ : Cx) => noEvents
    let low := fun (w : Nat) (v : Word) => v.toNat % 2 ^ w
    let mask := fun (cx : Cx) => maskOf fun n => !(cx.w.lane n).isExited && cx.pred a n
    Decides (.isetp h mi d a b x) s (fun cx l =>
      intCond mi.cond (intVal mi.ty (low mi.ty.width (cx.a s l))) (intVal mi.ty (low mi.ty.width (cx.b s l))) && cx.pred x l) ∧
    Decides (.isetpi h mi d a imm) s (fun cx l => intCond mi.cond (intVal mi.ty (low mi.ty.width (cx.a s l))) imm.toInt) ∧
    Decides (.pand h d a b) s (fun cx l => cx.pred a l && cx.pred b l) ∧
    Decides (.por h d a b) s (fun cx l => cx.pred a l || cx.pred b l) ∧
    Decides (.pxor h d a b) s (fun cx l => cx.pred a l != cx.pred b l) ∧
    Decides (.pnot h d a) s (fun cx l => !cx.pred a l) ∧
    Computes (.sel h d a b x) s 4
      (fun cx l => if cx.pred x l then cx.readAt s .untyped a 0 l else cx.readAt s .untyped b 0 l) none_ ∧
    Computes (.pmask h d a) s 4
      (fun cx l =>
        (if s.compat16 cx.w then
          (if l < 16 then ((mask cx).extractLsb' 0 16).setWidth 64 else ((mask cx).extractLsb' 16 16).setWidth 64)
        else (mask cx).setWidth 64, .u64)) none_ ∧
    Decides (.psetm h d a) s (fun cx l => (cx.a s l).getLsbD (if s.compat16 cx.w then l % 16 else l))

/-- R94 (04), stated: FSETP in sub-element 0, combined with its source predicate. The bits of a number that is no NaN,
read as sign and magnitude, are in the order of the values they stand for, and +0 and -0 have the same place in it. -/
def Obligations.FsetpComparesUnderIeee : Prop :=
  ∀ (s : State) (h : Hdr) (m : FCondMod) (d a b x : Operand),
    let width : Nat := match m.ty with | .f64 => 64 | .f32 => 32 | .bf16 => 16 | .f16 => 16
    let fraction : Nat := match m.ty with | .f64 => 52 | .f32 => 23 | .bf16 => 7 | .f16 => 10
    let magnitude := fun (v : Word) => v.toNat % 2 ^ (width - 1)
    let isNan := fun (v : Word) => decide (2 ^ (width - 1) - 2 ^ fraction < magnitude v)
    let key := fun (v : Word) => if v.getLsbD (width - 1) then -(magnitude v : Int) else (magnitude v : Int)
    Decides (.fsetp h m d a b x) s fun cx l =>
      let A := cx.a s l
      let B := cx.b s l
      let nan := isNan A || isNan B
      (match m.cond with
        | .eq => !nan && decide (key A = key B)
        | .ne => nan || decide (key A ≠ key B)
        | .lt => !nan && decide (key A < key B)
        | .le => !nan && decide (key A ≤ key B)
        | .gt => !nan && decide (key B < key A)
        | .ge => !nan && decide (key B ≤ key A)
        | .num => !nan
        | .nan => nan) && cx.pred x l

/-- R103 and R104 (04): the moves complete with the value and tag they name.

R23, R27, R29 and R30 (01): what a source operand reads. A register of an exited lane, or one released, reads zero with
RAW; class 11 reads zero with RAW; a small integer stands in every sub-element of its position's format. -/
def Obligations.MovesAndOperandValues : Prop :=
  (∀ (s : State) (h : Hdr) (d a b : Operand) (imm : BitVec 27) (imm32 : BitVec 32),
     let none_ := fun (_ : Cx) => noEvents
     Computes (.mov h d a) s 4 (fun cx l => cx.readAt s .untyped a 0 l) none_ ∧
     Computes (.movw h d a b) s 6 (fun cx _ => cx.readAt s .untyped a 0 ((cx.b s ((lowest cx.ex).getD 0)).toNat % 32)) none_ ∧
     Computes (.movi h d imm) s 4 (fun _ _ => (imm.signExtend 64, .s64)) none_ ∧
     Computes (.movl h .sext d imm32) s 4 (fun _ _ => (imm32.signExtend 64, .s64)) none_ ∧
     Computes (.movl h .zext d imm32) s 4 (fun _ _ => (imm32.setWidth 64, .u64)) none_ ∧
     Computes (.movl h .hi d imm32) s 4
       (fun cx l =>
         let old := cx.readAt s .untyped d 0 l
         ((imm32 ++ old.1.setWidth 32 : BitVec 64), old.2)) none_) ∧
  (∀ (s : State) (cx : Cx) (ty : PosTy) (k l : Nat),
     (∀ n, cx.readAt s ty (.v n) k l =
       if (cx.w.lane l).status = .exited ∨ (cx.w.vcell (n.toNat + k) l).live = false then (0, .raw)
       else ((cx.w.vcell (n.toNat + k) l).val, (cx.w.vcell (n.toNat + k) l).tag)) ∧
     (∀ n, cx.readAt s ty (.w n) k l =
       if (cx.w.wcell (n.toNat + k)).live = false then (0, .raw)
       else ((cx.w.wcell (n.toNat + k)).val, (cx.w.wcell (n.toNat + k)).tag)) ∧
     cx.readAt s ty .none k l = (0, .raw) ∧
     (∀ (t : IntTy) (n : BitVec 8) (j : Nat), j < 64 / t.width →
       sub t.width j (cx.readAt s (.int t) (.small n) k l).1 = (n.toInt % (2 ^ t.width : Nat)).toNat) ∧
     (cx.readAt s ty (.special .lane) k l).1 = BitVec.ofNat 64 l ∧
     (cx.readAt s ty (.special .wave) k l).1 = BitVec.ofNat 64 cx.w.number ∧
     (cx.readAt s ty (.special .cyc) k l).1 = BitVec.ofNat 64 s.cyc ∧
     (cx.readAt s ty (.special .active) k l).1 = cx.ex.setWidth 64)

/-- R96 (04): a branch completes with the executing lanes at their targets and the others at PC + 12; CALL and CALLX
write PC + 12 to the link register; NOP goes on.

R101 (04): CALLB whose every executing lane reads a bound cell calls through it, with PC + 12 at d; one that reads an
unbound cell, and none failed, requests the compare and swap of its lowest such lane, and all its lanes wait for it. -/
def Obligations.BranchesAndCalls : Prop :=
  (∀ (s : State) (h : Hdr) (d a : Operand) (imm : BitVec 32),
     let rel := fun (cx : Cx) (_ : Nat) => (BitVec.ofNat 64 cx.pc + 4 * imm.signExtend 64).toNat
     let reg := fun (cx : Cx) (l : Nat) => (cx.a s l).toNat
     let go := fun (target : Cx → Nat → Nat) (cx : Cx) (l : Nat) (x : Lane) =>
       if cx.ex.getLsbD l then { x with pc := target cx l, prevPc := x.pc }
       else if cx.all.getLsbD l then { x with pc := (x.pc + 12) % 2 ^ 64 } else x
     let links := fun (i : Instr) (target : Cx → Nat → Nat) => ∀ cx, Cx.of s i = some cx → cx.passes s →
       ∃ t, exec i s = .next t ∧
         cx.Completes s t (cx.result1 s (s.cyc + 4) false (cx.writes d 0 (fun _ => (BitVec.ofNat 64 (cx.pc + 12), .u64)) false))
           fun l => go target cx l (cx.laneIssued s noEvents true l)
     Goes (.bra h imm) s (go rel) ∧ Goes (.brx h a) s (go reg) ∧ Goes (.ret h a) s (go reg) ∧
     Goes (.nop h) s (fun cx l x => cx.goOn l x) ∧
     links (.call h d imm) rel ∧ links (.callx h d a) reg) ∧
  (∀ (s : State) (h : Hdr) (d a b : Operand) (imm : BitVec 15) (cx : Cx) (pa : Nat → Nat) (cell : Nat → Word),
     let i := Instr.callb h d a b imm
     let va := fun l => (cx.a s l + cx.b s l + imm.signExtend 64).toNat
     Cx.of s i = some cx → cx.passes s → cx.ex ≠ 0 →
     (∀ l, cx.ex.getLsbD l = true → va l % 8 = 0 ∧ s.flagOpen cx.wi l h.wait = none) →
     (∀ l, cx.ex.getLsbD l = true → s.walk1 cx.w.asid cx.w.level (va l) .load = .ok (pa l) ∧
       cell l = BitVec.ofNat 64 (leNat ((List.range 8).map fun k => s.loadByte cx.w cx.wi l (va l + k) (pa l + k) (s.cyc + 1)))) →
     ((∀ l, cx.ex.getLsbD l = true → (cell l).toNat % 4 = 0) →
       ∃ t due, exec i s = .next t ∧ s.cyc + 24 ≤ due ∧
         cx.Completes s t (cx.result1 s due true (cx.writes d 0 (fun _ => (BitVec.ofNat 64 (cx.pc + 12), .u64)) false)) fun l =>
           let y := cx.laneIssued s noEvents true l
           if cx.ex.getLsbD l then { y with pc := (cell l).toNat, prevPc := y.pc, acquired := s.cyc } else cx.goOn l y) ∧
     (∀ u, lowest (maskOf fun l => cx.ex.getLsbD l && decide ((cell l).toNat % 4 = 1)) = some u →
       (∀ l, cx.ex.getLsbD l = true → (cell l).toNat % 4 ≠ 3) → s.walk1 cx.w.asid cx.w.level (va u) .atomic = .ok (pa u) →
       ∃ t, exec i s = .next t ∧
         s.Asked t [{ cx.asks s (bitMask u) (.callb (pa u) (va u) (cell u) ((lanesOf cx.ex).map fun k => (k, va k, cell k))) none h.wait with
           rel := some .dev, stage := 0 }] ∧
         ∃ w, t.waves[cx.wi]? = some w ∧ (∀ l, l < cx.w.lanes.length →
           if cx.ex.getLsbD l then (∃ id, (w.lane l).status = .inside (.outcome id)) ∧ (w.lane l).pc = (cx.w.lane l).pc
           else (w.lane l).pc = (cx.goOn l (cx.w.lane l)).pc) ∧
           w.frame = cx.w.frame ∧ w.wregs = cx.w.wregs ∧ t.rest.sansReqs.sansBlocks = s.rest.sansReqs.sansBlocks))

/-- R98 (04): EXIT of lanes that are not sweep lanes retires them at once: they have exited, their write-backs to
registers and predicates of their own are gone; the lanes whose guard fails go on. Nothing but the wave, its block's
barriers and the slot changes.

R99 (04): at WSYNC a lane whose every mask lane has exited or waits at some WSYNC, those that arrive with it counted,
goes on at PC + 12; any other executing lane waits there; a lane whose guard fails goes on. -/
def Obligations.ExitAndWsync : Prop :=
  (∀ (s : State) (h : Hdr) (cx : Cx), Cx.of s (.exit h) = some cx → cx.passes s →
     (∀ l, cx.ex.getLsbD l = true → cx.w.isSweepLane l = false) →
     ∃ t w, exec (.exit h) s = .next t ∧ t.waves[cx.wi]? = some w ∧
       (∀ l, l < cx.w.lanes.length → cx.ex.getLsbD l = true → (w.lane l).status = .exited) ∧
       (∀ l, l < cx.w.lanes.length → (w.lane l).pc = (cx.goOn l (cx.w.lane l)).pc) ∧
       (∀ l, l < cx.w.lanes.length → cx.ex.getLsbD l = false → ((w.lane l).status = .exited ↔ (cx.w.lane l).status = .exited)) ∧
       (∀ b ∈ w.wbs, ∀ r ∈ b.writes, cx.ex.getLsbD r.lane = true → (cx.w.lane r.lane).status ≠ .exited → ∃ n, r.target = .w n) ∧
       w.frame = (cx.w.releases cx.ex cx.v).frame ∧ w.wregs = (cx.w.releases cx.ex cx.v).wregs ∧
       (∀ k, k ≠ cx.wi → t.waves[k]? = s.waves[k]?) ∧ (∀ k, k ≠ cx.w.block → t.blocks[k]? = s.blocks[k]?) ∧
       t.rest.sansBlocks = s.rest.sansBlocks) ∧
  (∀ (s : State) (h : Hdr) (a : Operand) (cx : Cx), Cx.of s (.wsync h a) = some cx → cx.passes s →
     let mask := fun l => if a = .none then (0xFFFFFFFF : LaneMask) else (cx.a s l).setWidth 32
     let waits := fun n => cx.ex.getLsbD n || (match (cx.w.lane n).status with | .exited | .wsync _ => true | _ => false)
     ∃ t w, exec (.wsync h a) s = .next t ∧ t.waves[cx.wi]? = some w ∧
       (∀ l, l < cx.w.lanes.length → cx.ex.getLsbD l = true →
         let released := ∀ n, n < 32 → (mask l).getLsbD n = true → waits n = true
         (released → (w.lane l).status = .ready ∧ (w.lane l).pc = ((cx.w.lane l).pc + 12) % 2 ^ 64) ∧
         (¬released → (w.lane l).status = .wsync (mask l) ∧ (w.lane l).pc = (cx.w.lane l).pc)) ∧
       (∀ l, l < cx.w.lanes.length → cx.all.getLsbD l = true → cx.ex.getLsbD l = false → (cx.w.lane l).status = .ready →
         (w.lane l).pc = ((cx.w.lane l).pc + 12) % 2 ^ 64 ∧ (w.lane l).status = .ready) ∧
       (h.lastA = false → w.frame = cx.w.frame ∧ w.wregs = cx.w.wregs) ∧ w.wbs = cx.w.wbs ∧
       (∀ k, k ≠ cx.wi → t.waves[k]? = s.waves[k]?) ∧
       t.rest = s.rest)

/-- R105 and R106 (04): a GROW within MAXFRAME that needs no granule beyond those put by for its wave, which have left
L1, completes: the frame is the larger of its size and the target, every register beyond the old size zero, and d takes
the size. One that needs more, which the pool grants, or whose granules are on their way, waits until they have left L1,
4 cycles for each (08: R163) after those put by before (log entry 23), with nothing of the frame changed. SHRINK completes with the frame at the smaller of its size and the target, which n at or below 16, or
negative, makes 16; results for registers that cease to exist, its own among them, are discarded. -/
def Obligations.GrowAndShrinkResizeFrames : Prop :=
  ∀ (s : State) (h : Hdr) (m : GrowMod) (d a : Operand),
    let below := fun (F : Nat) (r : RegWrite) => match r.target with | .v n => decide (n < F) | _ => true
    let size := fun (i : Instr) (cx : Cx) (F : Nat) (shrinks : Bool) =>
      ∃ t w, exec i s = .next t ∧ t.waves[cx.wi]? = some w ∧ w.frameSize = F ∧
        w.wbs = (if shrinks ∧ F < cx.w.frameSize then
            cx.w.wbs.map fun b => { b with writes := b.writes.filter (below F) } else cx.w.wbs) ++
          [⟨s.fresh + 1, s.cyc, some (s.cyc + 4), cx.ex, h.setFlag, false,
            (cx.writes d 0 (fun _ => (BitVec.ofNat 64 F, .u64)) false).filter fun r => !shrinks || below F r⟩] ∧
        (∀ l, l < cx.w.lanes.length → (w.lane l).pc = (cx.goOn l (cx.w.lane l)).pc) ∧
        w.frame = (if F = cx.w.frameSize then (cx.w.releases cx.ex cx.v).frame
          else (cx.w.releases cx.ex cx.v).frame.filter fun e => decide (e.1 < 32 * min F cx.w.frameSize)) ∧
        w.wregs = (cx.w.releases cx.ex cx.v).wregs ∧ (∀ k, k ≠ cx.wi → t.waves[k]? = s.waves[k]?) ∧
        t.rest.sansBlocks.sansPool = s.rest.sansBlocks.sansPool
    (∀ cx, Cx.of s (.grow h m d a) = some cx → cx.passes s → cx.ex ≠ 0 →
      let n := (cx.a s cx.low).toNat
      let target := 16 * ((n + 15) / 16)
      let need := (target - cx.w.frameSize) / 16 * (if cx.w.mirrored then 2 else 1)
      let ask := need - cx.w.granted
      n ≤ cx.w.maxframe →
        (ask = 0 → (target ≤ cx.w.frameSize ∨ cx.w.grantDue ≤ s.cyc) → size (.grow h m d a) cx (max cx.w.frameSize target) false) ∧
        ((ask ≠ 0 ∧ s.growFits cx.w ask = true ∧ (m = .wait → s.growNever cx.w need = false)) ∨
          (ask = 0 ∧ cx.w.frameSize < target ∧ s.cyc < cx.w.grantDue) →
          ∃ t w, exec (.grow h m d a) s = .next t ∧ t.waves[cx.wi]? = some w ∧
            w.granted = cx.w.granted + ask ∧ w.grantDue = max cx.w.grantDue s.cyc + 4 * ask ∧
            (∀ l, l < cx.w.lanes.length → if cx.ex.getLsbD l then (w.lane l).status = .blocked .grow ∧ (w.lane l).pc = (cx.w.lane l).pc
              else (w.lane l).pc = (cx.goOn l (cx.w.lane l)).pc) ∧
            w.frameSize = cx.w.frameSize ∧ w.frame = cx.w.frame ∧ w.wregs = cx.w.wregs ∧ w.wbs = cx.w.wbs ∧
            (∀ k, k ≠ cx.wi → t.waves[k]? = s.waves[k]?) ∧ t.rest.sansBlocks.sansLines = s.rest.sansBlocks.sansLines)) ∧
    (∀ cx, Cx.of s (.shrink h d a) = some cx → cx.passes s → cx.ex ≠ 0 →
      let n := (cx.a s cx.low).toInt
      size (.shrink h d a) cx (min cx.w.frameSize (if n ≤ 16 then 16 else 16 * ((n.toNat + 15) / 16))) true)

/-- R107 to R113 (04): the capability instructions complete. CAPMK, at S level and with fields it accepts, and CAPNRW,
with a capability it may narrow, write the pair with its bit set; CAPRD decodes a field. -/
def Obligations.CapabilitiesAreMadeNarrowedAndRead : Prop :=
  ∀ (s : State) (h : Hdr) (d a b x : Operand),
    let bits := fun (w : Word) (hi lo : Nat) => w.toNat / 2 ^ lo % 2 ^ (hi - lo + 1)
    let makes := fun (i : Instr) (cx : Cx) (w0 w1 : Nat → Word) =>
      ∃ t, exec i s = .next t ∧
        cx.Completes s t (cx.result1 s (s.cyc + 4) false
            (cx.writes d 1 (fun l => (w1 l, .raw)) false ++ cx.writes d 0 (fun l => (w0 l, .raw)) true))
          fun l => cx.goOn l (cx.laneIssued s noEvents true l)
    (∀ cx, Cx.of s (.capmk h d a b) = some cx → cx.passes s → cx.w.level = true →
      (∀ l, cx.ex.getLsbD l = true →
        let w0 := cx.a s l
        let w1 := cx.b s l
        bits w0 63 63 = 0 ∧ bits w1 63 63 = 0 ∧ (bits w0 62 62 = 1 → bits w0 61 61 = 1) ∧
          bits w0 56 0 + bits w1 39 0 ≤ 2 ^ 57) →
      makes (.capmk h d a b) cx (cx.a s) (cx.b s)) ∧
    (∀ cx, Cx.of s (.capnrw h d a b x) = some cx → cx.passes s →
      (∀ l, cx.ex.getLsbD l = true → cx.cap a 0 l = true ∧ bits (cx.x s l) 63 63 = 0 ∧
        (cx.b s l).toNat + bits (cx.x s l) 39 0 ≤ bits (cx.cap1 s a l) 39 0) →
      makes (.capnrw h d a b x) cx
        (fun l =>
          let w0 := cx.cap0 s a l
          BitVec.ofNat 64 (bits w0 63 57 * 2 ^ 57 + (bits w0 56 0 + (cx.b s l).toNat) % 2 ^ 57))
        (fun l =>
          let w1 := cx.cap1 s a l
          let x := cx.x s l
          BitVec.ofNat 64 (bits x 39 0 + (if bits x 59 40 = 0 then bits w1 59 40 else bits x 59 40) * 2 ^ 40
            + (bits w1 62 60 &&& bits x 62 60) * 2 ^ 60))) ∧
    Computes (.caprd h d a b) s 4
      (fun cx l =>
        let w0 := cx.cap0 s a l
        let w1 := cx.cap1 s a l
        match (cx.b s l).toNat % 128 with
        | 0 => (BitVec.ofNat 64 (w0.toNat % 2 ^ 57) ||| (if bits w0 56 56 = 1 then BitVec.ofNat 64 (127 * 2 ^ 57) else 0), .u64)
        | 1 => (BitVec.ofNat 64 (bits w1 39 0), .u64)
        | 2 => (BitVec.ofNat 64 (16 * bits w1 59 40), .u64)
        | 3 => (BitVec.ofNat 64 (bits w0 60 57), .u64)
        | 4 => (BitVec.ofNat 64 (bits w1 62 60), .u64)
        | 5 => (if cx.cap a 0 l then 1 else 0, .u64)
        | 6 => (BitVec.ofNat 64 (bits w0 61 61 + 2 * bits w0 62 62), .u64)
        | _ => (0, .raw))
      (fun _ => noEvents)

/-- R112 (04), stated: CAPCHK writes 1 exactly when the capability bit of a is set, the range from b of the length of x
lies inside LEN, and every permission its modifier names is there; it traps on no value of a capability. -/
def Obligations.CapchkTests : Prop :=
  ∀ (s : State) (h : Hdr) (m : BitVec 3) (d a b x : Operand),
    Decides (.capchk h m d a b x) s fun cx l =>
      let length := (cx.cap1 s a l).toNat % 2 ^ 40
      cx.cap a 0 l && decide ((cx.b s l).toNat + (cx.x s l).toNat % 2 ^ 40 ≤ length) &&
        (List.range 3).all fun k => !m.getLsbD k || (cx.cap1 s a l).getLsbD (60 + k)

/-- R116, R117, R119 and R121 (05): the arithmetic of groups 0x5 and 0x6 completes with the rounded result of every
sub-element at d, with the tag of its type, and the events of all sub-elements in FSTAT. The results of .F64 function
ops and divisions are flag-class (10: R205, R206, R410). -/
def Obligations.FloatArithmetic : Prop :=
  ∀ (s : State) (h : Hdr) (m : FpMod) (d a b x : Operand),
    let t := m.ty
    let simple := if t = .f64 then 8 else 4
    let of1 := fun (f : Nat → FRes) (cx : Cx) (l : Nat) => flt1 t f (cx.a s l)
    let of2 := fun (f : Nat → Nat → FRes) (cx : Cx) (l : Nat) => flt2 t f (cx.a s l) (cx.b s l)
    let of3 := fun (f : Nat → Nat → Nat → FRes) (cx : Cx) (l : Nat) => flt3 t f (cx.a s l) (cx.b s l) (cx.x s l)
    let gives := fun (i : Instr) (lat : Nat) (r : Cx → Nat → Word × Events) =>
      Computes i s lat (fun cx l => ((r cx l).1, t.tag)) (fun cx l => (r cx l).2)
    let function := fun (i : Instr) (wide : Nat) (r : Cx → Nat → Word × Events) =>
      (t = .f64 → ComputesLater i s wide (fun cx l => ((r cx l).1, t.tag)) (fun cx l => (r cx l).2)) ∧
      (t ≠ .f64 → gives i 12 r)
    gives (.fadd h m d a b) simple (of2 (fAdd t m.rm)) ∧ gives (.fmul h m d a b) simple (of2 (fMul t m.rm)) ∧
    gives (.ffma h m d a b x) simple (of3 (fFma t m.rm)) ∧ gives (.fmin h m d a b) simple (of2 (fMinMax t false)) ∧
    gives (.fmax h m d a b) simple (of2 (fMinMax t true)) ∧
    gives (.fabs h m d a) simple (of1 fun A => (A % 2 ^ (t.width - 1), 0)) ∧
    gives (.fneg h m d a) simple (of1 fun A => (A ^^^ 2 ^ (t.width - 1), 0)) ∧
    function (.frcp h m d a) 24 (of1 (fRcp t)) ∧ function (.fsqrt h m d a) 24 (of1 (fSqrt t m.rm)) ∧
    function (.frsq h m d a) 24 (of1 (fRsq t)) ∧ function (.fexp2 h m d a) 24 (of1 (fExp2 t)) ∧
    function (.flog2 h m d a) 24 (of1 (fLog2 t)) ∧ function (.fsin h m d a) 24 (of1 (fSin t)) ∧
    function (.fcos h m d a) 24 (of1 (fCos t)) ∧ function (.fdiv h m d a b) 32 (of2 (fDiv t m.rm)) ∧
    gives (.faddH h m d a b) 4 (of2 (fAdd t m.rm)) ∧ gives (.fmulH h m d a b) 4 (of2 (fMul t m.rm)) ∧
    gives (.ffmaH h m d a b x) 4 (of3 (fFma t m.rm)) ∧ gives (.fminH h m d a b) 4 (of2 (fMinMax t false)) ∧
    gives (.fmaxH h m d a b) 4 (of2 (fMinMax t true)) ∧
    gives (.fabsH h m d a) 4 (of1 fun A => (A % 2 ^ (t.width - 1), 0)) ∧
    gives (.fnegH h m d a) 4 (of1 fun A => (A ^^^ 2 ^ (t.width - 1), 0)) ∧
    gives (.frcpH h m d a) 8 (of1 (fRcp t)) ∧ gives (.fexp2H h m d a) 8 (of1 (fExp2 t)) ∧
    Computes (.fclass h m d a) s simple
      (fun cx l => ((eachSub t.width fun k => fClass t (sub t.width k (cx.a s l))), if t = .f64 then .u64 else .u32))
      (fun _ => noEvents) ∧
    (let dot := fun (cx : Cx) (l : Nat) => (eachF 32 fun k =>
        fDot2 t m.rm (sub 16 (2 * k) (cx.a s l)) (sub 16 (2 * k) (cx.b s l)) (sub 16 (2 * k + 1) (cx.a s l))
          (sub 16 (2 * k + 1) (cx.b s l)) (sub 32 k (cx.x s l)));
      Computes (.fdot2 h m d a b x) s 6 (fun cx l => ((dot cx l).1, .f32)) (fun cx l => (dot cx l).2))

/-- R64, R119, R120 and R122 (03; 05): a sum, product or quotient that is a NaN is the canonical NaN; a value converted
to its own format passes unchanged and raises no event, a NaN but becoming canonical; FMIN and FMAX deliver one of
their operands or the canonical NaN; FCLASS sets exactly one of ten bits. -/
def Obligations.FloatValuesAndNaNs : Prop :=
  ∀ (t : FTy) (rm : Rnd) (a b : Nat), a < 2 ^ t.width → b < 2 ^ t.width →
    (∀ r, r = (fAdd t rm a b).1 ∨ r = (fMul t rm a b).1 ∨ r = (fDiv t rm a b).1 →
      (fval t r).isNan = true → r = nanBits t) ∧
    ((fval t a).isNan = false → floatToFloat t t rm a = (a, 0)) ∧
    ((fval t a).isNan = true → floatToFloat t t rm a = (nanBits t, if (fval t a).isSNan then 16 else 0)) ∧
    (∀ isMax, (fMinMax t isMax a b).1 = a ∨ (fMinMax t isMax a b).1 = b ∨ (fMinMax t isMax a b).1 = nanBits t) ∧
    (∃ k, k < 10 ∧ fClass t a = 2 ^ k)

/-- R122 to R126 (05): CVT, PACKK, UNPKK, FTAG and FTAGRD complete with the results and tags they name. -/
def Obligations.ConversionsAndTags : Prop :=
  ∀ (s : State) (h : Hdr) (mc : CvtMod) (mp : PackMod) (mu : UnpackMod) (tag : Tag) (d a b : Operand),
    Computes (.cvt h mc d a) s 4 (fun cx l => ((cvtWord mc (cx.a s l)).1, mc.dst)) (fun cx l => (cvtWord mc (cx.a s l)).2) ∧
    (∀ (v : Word) (i : Nat), mc.ok = true → i < 64 / mc.dst.posTy.width →
      sub mc.dst.posTy.width i (cvtWord mc v).1 =
        if i < 64 / mc.src.posTy.width then (cvtSub mc (sub mc.src.posTy.width i v)).1 % 2 ^ mc.dst.posTy.width else 0) ∧
    (∀ cx, Cx.of s (.packk h mp d a) = some cx → cx.passes s →
      let blocks := (List.range mp.fmt.blocks).map fun k =>
        packBlock mp.fmt (mp.dist.toNat + 2)
          ((List.range 32).map fun i => sub 32 (k % 2) (cx.w.vread (Operand.vreg a + k / 2) i).1)
      ∃ t, exec (.packk h mp d a) s = .next t ∧
        cx.Results s t (s.cyc + 12) false (fun _ => blocks.foldl (fun e b => e ||| b.ev) 0)
          (cx.writes d 0 (fun i => (pack (if mp.fmt = .k8 then 8 else 4) (blocks.map fun b => b.elems.getD i 0), .k)) false ++
            cx.writes d 1 (fun i => ((blocks[i]?.map fun b => BitVec.ofNat 64 (2 ^ 8 * b.e1 + b.e0)).getD 0, .kexp)) false)) ∧
    (∀ cx, Cx.of s (.unpkk h mu d a b) = some cx → cx.passes s →
      let per := if mu.ty = .f32 then 2 else if mu.ty = .f64 then 1 else 4
      let one := fun l k => cx.w.unpack1 mu (cx.a s l) (Operand.vreg b) k
      ∃ t, exec (.unpkk h mu d a b) s = .next t ∧
        cx.Results s t (s.cyc + 12) false (fun l => (List.range mu.fmt.blocks).foldl (fun e k => e ||| (one l k).2) 0)
          ((List.range mu.run).flatMap fun r =>
            cx.writes d r (fun l => (pack mu.ty.width ((List.range per).map fun j => (one l (r * per + j)).1), mu.ty.tag)) false)) ∧
    Computes (.ftag h d a tag) s 4 (fun cx l => (cx.a s l, tag)) (fun _ => noEvents) ∧
    Computes (.ftagrd h d a) s 4 (fun cx l => (BitVec.ofNat 64 (cx.readAt s .untyped a 0 l).2.code, .u64)) (fun _ => noEvents)

/-- R258 and R259 (14): CKCMP writes the residues of a tile's rows and columns; CKFIX corrects the one element whose
row and column alone are flagged, where its row's lane executes, and writes nothing otherwise.

R78, R79 and R130 (03; 05): RED, SCAN and SCANX complete with the root, the inclusive and the exclusive values of the
lane tree, lanes that do not execute giving the identity; a tree of two halves is the node over their roots. -/
def Obligations.ChecksumsAndLaneTrees : Prop :=
  (∀ (s : State) (h : Hdr) (d a b x : Operand),
     let elem := fun (cx : Cx) (o : Operand) (i j : Nat) => sub 32 (j % 2) (cx.w.vread (Operand.vreg o + j / 2) i).1
     let row := fun (cx : Cx) (i : Nat) => residue ((List.range 32).map fun j => elem cx a i j) (cx.w.sumsAt (Operand.vreg b) i).rho
     let col := fun (cx : Cx) (i : Nat) => residue ((List.range 32).map fun l => elem cx a l i) (cx.w.sumsAt (Operand.vreg b) i).gam
     Computes (.ckcmp h d a b) s 8 (fun cx i => (pack 32 [(row cx i).1, (col cx i).1], .f32))
       (fun cx i => (row cx i).2 ||| (col cx i).2) ∧
     (∀ cx, Cx.of s (.ckfix h d a b x) = some cx → cx.passes s →
       let tol := sub 32 0 (cx.x s cx.low)
       let seen := fun l k => sub 32 k (if (cx.w.lane l).isExited then 0 else cx.a s l)
       let rows := (List.range 32).filter fun i => flagged tol (seen i 0) (cx.w.sumsAt (Operand.vreg b) i).rhoAbs
       let cols := (List.range 32).filter fun j => flagged tol (seen j 1) (cx.w.sumsAt (Operand.vreg b) j).gamAbs
       (∀ i j, rows = [i] → cols = [j] → cx.ex.getLsbD i = true →
         let r := fAdd .f32 .rne (elem cx d i j) ((sub 32 0 (cx.a s i)) ^^^ 2 ^ 31)
         let old := (cx.w.vread (Operand.vreg d + j / 2) i).1
         ∃ t, exec (.ckfix h d a b x) s = .next t ∧
           cx.Results s t (s.cyc + 8) false (fun l => if l = i then r.2 else 0)
             [⟨i, .v (Operand.vreg d + j / 2), pack 32 (if j % 2 = 0 then [r.1, sub 32 1 old] else [sub 32 0 old, r.1]), .f32, false⟩]) ∧
       ((∀ i j, ¬(rows = [i] ∧ cols = [j] ∧ cx.ex.getLsbD i = true)) →
         ∃ t, exec (.ckfix h d a b x) s = .next t ∧ cx.Results s t (s.cyc + 8) false noEvents []))) ∧
  (∀ (s : State) (h : Hdr) (m : RedMod) (d a : Operand),
     let w := m.ty.posTy.width
     let f := redNode m.op m.ty.posTy
     let levels := fun (cx : Cx) => if s.compat16 cx.w then 4 else 5
     let first := fun (cx : Cx) (l : Nat) => if s.compat16 cx.w then l / 16 * 16 else 0
     let leaves := fun (cx : Cx) (l k : Nat) => (List.range (2 ^ levels cx)).map fun j =>
       if cx.ex.getLsbD (first cx l + j) then sub w k (cx.a s (first cx l + j)) else redIdentity m.op m.ty.posTy
     let scanned := fun (excl : Bool) (cx : Cx) (l : Nat) => eachF w fun k =>
       let r := scanAll f (levels cx) (leaves cx l k)
       let i := l - first cx l
       (if excl then (if i = 0 then redIdentity m.op m.ty.posTy else r.1.getD (i - 1) 0) else r.1.getD i 0, r.2)
     let gives := fun (i : Instr) (r : Cx → Nat → Word × Events) =>
       ∀ cx, Cx.of s i = some cx → cx.passes s →
         ∃ t, exec i s = .next t ∧ cx.Results s t (s.cyc + 10) false (fun l => (r cx l).2)
           (cx.writes d 0 (fun l => ((r cx l).1, match m.ty.posTy with | .int u => u.tag | .flt u => u.tag | _ => .raw)) false)
     gives (.red h m d a) (fun cx l => eachF w fun k => redRoot f (levels cx) (leaves cx l k)) ∧
     gives (.scan h m d a) (scanned false) ∧ gives (.scanx h m d a) (scanned true) ∧
     (∀ (n : Nat) (xs ys : List Nat), xs.length = 2 ^ n → ys.length = 2 ^ n →
       (redRoot f (n + 1) (xs ++ ys)).1 = (f (redRoot f n xs).1 (redRoot f n ys).1).1) ∧
     (∀ (n : Nat) (xs : List Nat), xs.length = 2 ^ n → (scanAll f n xs).1.getD (2 ^ n - 1) 0 = (redRoot f n xs).1 ∧
       (scanAll f n xs).1.getD 0 0 = xs.headD 0))

/-- R128 and R129 (05): SHFL and SHFLI copy sub-elements between lanes as their mode names them; VOTE combines a
predicate over the executing lanes, in the 16-lane mode of each half by itself. -/
def Obligations.ShufflesAndVotes : Prop :=
  ∀ (s : State) (h : Hdr) (m : ShMod) (d a b : Operand) (imm : BitVec 10),
    let shuffled := fun (cx : Cx) (l sel : Nat) =>
      let w := m.width.bits
      let c := 64 / w
      let n := if s.compat16 cx.w then 16 else 32
      let base := if s.compat16 cx.w then l / 16 * 16 else 0
      let delta := sel % 2 ^ 10
      let source := fun k =>
        let e := (l - base) * c + k
        match m.mode with
        | .idx => sel % n * c + (k + sel / 32 % 32) % c
        | .up => if delta ≤ e then e - delta else e
        | .down => if e + delta < n * c then e + delta else e
        | .xor => e ^^^ (delta % (n * c))
        | .rot => (e + delta) % (n * c)
      (eachSub w fun k => sub w (source k % c)
          (match a with
           | .small z => eachSub w fun _ => wrap w z.toInt
           | _ => (cx.readAt s .untyped a 0 (base + source k / c)).1),
        (cx.readAt s .untyped a 0 (base + source 0 / c)).2)
    let half := fun (cx : Cx) (l n : Nat) => s.compat16 cx.w = false ∨ l / 16 = n / 16
    Computes (.shfl h m d a b) s 4 (fun cx l => shuffled cx l (cx.b s l).toNat) (fun _ => noEvents) ∧
    Computes (.shfli h m d a imm) s 4 (fun cx l => shuffled cx l imm.toNat) (fun _ => noEvents) ∧
    (∀ f : Cx → Nat → Bool,
      (∀ cx l, l < 32 → (f cx l = true ↔ ∀ n, n < 32 → half cx l n → cx.ex.getLsbD n = true → cx.pred a n = true)) →
        Decides (.vote h .all d a) s f) ∧
    (∀ f : Cx → Nat → Bool,
      (∀ cx l, l < 32 → (f cx l = true ↔ ∃ n, n < 32 ∧ half cx l n ∧ cx.ex.getLsbD n = true ∧ cx.pred a n = true)) →
        Decides (.vote h .any d a) s f) ∧
    (∀ f : Cx → Nat → Bool,
      (∀ cx l, l < 32 → (f cx l = true ↔ ∃ p, ∀ n, n < 32 → half cx l n → cx.ex.getLsbD n = true → cx.pred a n = p)) →
        Decides (.vote h .uni d a) s f) ∧
    (∀ f : Cx → Nat → Word,
      (∀ cx l n, l < 32 → n < 64 → ((f cx l).getLsbD n = true ↔
        (let k := if s.compat16 cx.w = true then l / 16 * 16 + n else n
         (s.compat16 cx.w = true → n < 16) ∧ k < 32 ∧ cx.ex.getLsbD k = true ∧ cx.pred a k = true))) →
        Computes (.vote h .ballot d a) s 4 (fun cx l => (f cx l, .u64)) (fun _ => noEvents))

/-- R135, R137 and R138 (06): a load whose every executing lane reaches its aligned address completes: the bytes read,
zero- or sign-extended, with their tag, at d no sooner than 24 cycles later. Lines keep all but their ages where every
lane's line is in the core's L1; memory and everything else is unchanged. MONITOR also arms each lane's watch on its
line (R150). -/
def Obligations.LoadsComplete : Prop :=
  ∀ (s : State) (h : Hdr) (m : LoadMod) (d a b : Operand) (imm : BitVec 15),
    let n := m.size.bytes
    let extend := fun (n : Nat) (sx : Bool) (bytes : List Byte) =>
      if sx then BitVec.ofInt 64 (sext (8 * n) (leNat bytes)) else BitVec.ofNat 64 (leNat bytes)
    let tag := fun (n : Nat) (sx : Bool) => if n = 8 then Tag.raw else if sx then .s64 else .u64
    let read := fun (cx : Cx) (va pa : Nat → Nat) (n l : Nat) =>
      (List.range n).map fun k => s.loadByte cx.w cx.wi l (va l + k) (pa l + k) (cx.w.lane l).acquired
    let flat := fun (cx : Cx) (l : Nat) => (cx.a s l + cx.b s l + imm.signExtend 64).toNat
    let near := fun (cx : Cx) (va : Nat → Nat) =>
      ∀ l, cx.ex.getLsbD l = true → (s.line? true cx.w.core (va l) cx.w.asid cx.w.tenant).isSome = true
    let done := fun (i : Instr) (cx : Cx) (near : Prop) (value : Nat → Word × Tag) (watch : Lane → Nat → Lane) =>
      ∃ t due, exec i s = .next t ∧ s.cyc + 24 ≤ due ∧
        cx.CompletesIn s t { s with lines := t.lines } (cx.result1 s due true (cx.writes d 0 value false))
          (fun l => cx.goOn l (if cx.ex.getLsbD l then watch (cx.laneIssued s noEvents true l) l else cx.laneIssued s noEvents true l)) ∧
        (near → t.lines.map (fun x => { x with rrpv := 0 }) = s.lines.map (fun x => { x with rrpv := 0 }))
    (∀ cx pa, (Instr.ld h m d a b imm).wf = true → Cx.of s (.ld h m d a b imm) = some cx → cx.passes s →
      (∀ l, cx.ex.getLsbD l = true → flat cx l % n = 0) → cx.Reaches s (.load n m.sext m.rd.toNat false) (flat cx) pa →
      done (.ld h m d a b imm) cx (near cx (flat cx)) (fun l => (extend n m.sext (read cx (flat cx) pa n l), tag n m.sext)) fun x _ => x) ∧
    (∀ cx pa, (Instr.ldt h m d a b imm).wf = true → Cx.of s (.ldt h m d a b imm) = some cx → cx.passes s →
      let w0 := cx.cap0 s a
      let w1 := cx.cap1 s a
      let stride := fun l => (w1 l).toNat / 2 ^ 40 % 2 ^ 20
      let off := fun l => (if stride l = 0 then ((cx.b s l).toNat : Int)
        else ((cx.b s l).toNat / 2 ^ 32 * stride l * 16 + (cx.b s l).toNat % 2 ^ 32 : Nat)) + imm.toInt
      let va := fun l => ((((w0 l).setWidth 57).signExtend 64 : Word) + BitVec.ofInt 64 (off l)).toNat
      (∀ l, cx.ex.getLsbD l = true →
        cx.cap a 0 l = true ∧ 0 ≤ off l ∧ off l + n ≤ ((w1 l).toNat % 2 ^ 40 : Nat) ∧ (w1 l).getLsbD 60 = true ∧ va l % n = 0) →
      cx.Reaches s (.load n m.sext m.rd.toNat false) va pa →
      done (.ldt h m d a b imm) cx (near cx va)
        (fun l => (extend n m.sext (read cx va pa n l), if n = 8 then Tag.ofCode ((w0 l).toNat / 2 ^ 57 % 16) else tag n m.sext))
        fun x _ => x) ∧
    (∀ cx, Cx.of s (.ldl h m d a b imm) = some cx → cx.passes s →
      let off := fun l => ((cx.a s l).toNat % 2 ^ 24 : Nat) + (cx.b s l).toInt + imm.toInt
      (∀ l, cx.ex.getLsbD l = true → ∃ bi, cx.place s l = some bi ∧ 0 ≤ off l ∧ off l + n ≤ s.scratchBytes bi ∧ off l % n = 0 ∧
        s.regionMark bi 2 ((off l).toNat / 4096) = none ∧ s.flagOpen cx.wi l h.wait = none) →
      done (.ldl h m d a b imm) cx True
        (fun l => (extend n m.sext ((List.range n).map fun k => s.scratchByte cx.wi l ((cx.place s l).getD 0) ((off l).toNat + k)),
          tag n m.sext)) fun x _ => x) ∧
    (∀ cx pa, (Instr.monitor h d a b imm).wf = true → Cx.of s (.monitor h d a b imm) = some cx → cx.passes s →
      (∀ l, cx.ex.getLsbD l = true → flat cx l % 8 = 0) → cx.Reaches s (.load 8 false 3 true) (flat cx) pa →
      done (.monitor h d a b imm) cx True (fun l => (extend 8 false (read cx (flat cx) pa 8 l), .raw))
        fun x l => { x with
          watch := some ⟨pa l / 64, s.shown.contains (pa l / 64) || s.copyStale cx.w (flat cx l) (pa l) (cx.w.lane l).acquired⟩ })

/-- R135, R137 and R139 (06): a store completes. In a kernel that is not contained each executing lane's bytes become a
request at its address, which the lane itself reads from then on; no other byte reads differently to any thread. In a
contained kernel they enter the block's commit buffer. STL makes a request for the scratchpad. PREF changes only cached
lines. -/
def Obligations.StoresComplete : Prop :=
  ∀ (s : State) (h : Hdr) (m : StoreMod) (rd : BitVec 3) (d a b : Operand) (imm : BitVec 15),
    let n := m.size.bytes
    let flat := fun (cx : Cx) (l : Nat) => (cx.a s l + cx.b s l + imm.signExtend 64).toNat
    let bytes := fun (cx : Cx) (l : Nat) => natLe n (cx.d s l).toNat
    let goes := fun (cx : Cx) (l : Nat) => cx.goOn l (cx.laneIssued s noEvents false l)
    let aged := fun (cx : Cx) (va : Nat → Nat) (t : State) =>
      let age := fun (x : Line) => { x with rrpv := 0, pinned := false }
      (∀ l, cx.ex.getLsbD l = true → (s.line? false (dieOfCore cx.w.core) (va l) cx.w.asid cx.w.tenant).isSome = true) →
        t.lines.map age = s.lines.map age
    let stores := fun (i : Instr) (cx : Cx) (va pa : Nat → Nat) =>
      (∀ l, cx.ex.getLsbD l = true → va l % n = 0) → cx.commitFull s va = none → cx.Reaches s (.store n m.rd.toNat) va pa →
      (s.contained cx.w = false → ∃ t, exec i s = .next t ∧
        cx.CompletesIn s t { s with lines := t.lines, reqs := t.reqs, blocks := t.blocks } [] (goes cx) ∧
        aged cx va t ∧
        s.Asked t ((lanesOf cx.ex).map fun l =>
          cx.asks s (bitMask l) (.store (pa l) (bytes cx l) ⟨cx.wi, l, (cx.w.lane l).pbars⟩) h.setFlag h.wait) ∧
        t.blocks = (if cx.ex = 0 then s.blocks else s.blocks.modify cx.w.block fun b => { b with effects := true }) ∧
        ∀ w k l v p acq, t.loadByte w k l v p acq =
          if k = cx.wi ∧ cx.ex.getLsbD l = true ∧ pa l ≤ p ∧ p < pa l + n then (bytes cx l).getD (p - pa l) 0
          else s.loadByte w k l v p acq) ∧
      (s.contained cx.w = true → (∀ l, cx.ex.getLsbD l = true → isHost (pa l) = false) → ∃ t, exec i s = .next t ∧
        cx.CompletesIn s t { s with lines := t.lines, blocks := t.blocks } [] (goes cx) ∧
        aged cx va t ∧
        t.blocks = (s.blocks.modify cx.w.block fun b =>
          { b with commit := b.commit ++ (lanesOf cx.ex).map fun l => .store cx.wi l (va l) (pa l) (bytes cx l) }))
    (∀ cx pa, Cx.of s (.st h m d a b imm) = some cx → cx.passes s → stores (.st h m d a b imm) cx (flat cx) pa) ∧
    (∀ cx pa, Cx.of s (.stt h m d a b imm) = some cx → cx.passes s →
      let w0 := cx.cap0 s a
      let w1 := cx.cap1 s a
      let stride := fun l => (w1 l).toNat / 2 ^ 40 % 2 ^ 20
      let off := fun l => (if stride l = 0 then ((cx.b s l).toNat : Int)
        else ((cx.b s l).toNat / 2 ^ 32 * stride l * 16 + (cx.b s l).toNat % 2 ^ 32 : Nat)) + imm.toInt
      (∀ l, cx.ex.getLsbD l = true →
        cx.cap a 0 l = true ∧ 0 ≤ off l ∧ off l + n ≤ ((w1 l).toNat % 2 ^ 40 : Nat) ∧ (w1 l).getLsbD 61 = true) →
      stores (.stt h m d a b imm) cx (fun l => ((((w0 l).setWidth 57).signExtend 64 : Word) + BitVec.ofInt 64 (off l)).toNat) pa) ∧
    (∀ cx, Cx.of s (.stl h m d a b imm) = some cx → cx.passes s →
      let off := fun l => ((cx.a s l).toNat % 2 ^ 24 : Nat) + (cx.b s l).toInt + imm.toInt
      (∀ l, cx.ex.getLsbD l = true → ∃ bi, cx.place s l = some bi ∧ 0 ≤ off l ∧ off l + n ≤ s.scratchBytes bi ∧ off l % n = 0) →
      ∃ t, exec (.stl h m d a b imm) s = .next t ∧ cx.CompletesIn s t { s with reqs := t.reqs } [] (goes cx) ∧
        s.Asked t ((lanesOf cx.ex).map fun l =>
          cx.asks s (bitMask l) (.scratchStore ((cx.place s l).getD 0) (off l).toNat (bytes cx l)) h.setFlag h.wait)) ∧
    (∀ cx, Cx.of s (.pref h rd a b imm) = some cx → cx.passes s →
      ∃ t, exec (.pref h rd a b imm) s = .next t ∧ cx.CompletesIn s t { s with lines := t.lines } [] (goes cx))

/-- R140 to R142 (06): an atomic whose every executing lane reaches its aligned address completes: each lane owes a
result and makes a request that names the operation, the address, the width, the operands and the result; with an
acquire the lane waits for the outcome, else it goes on. Memory is unchanged until the request executes.

R143 to R145 (06): FENCE and PSYNC make one request, inside which their executing lanes wait; a release at .THR orders
nothing further, and a FENCE with nothing else goes on; PBAR and PSYNC begin a new persist epoch of each executing
lane. -/
def Obligations.AtomicsAndFencesAreRequested : Prop :=
  (∀ (s : State) (h : Hdr) (m : AtomMod) (d a b x : Operand),
     let n := if m.wide then 8 else 4
     let acquires := m.ord = .acq ∨ m.ord = .acqrel
     let releases := m.ord = .rel ∨ m.ord = .acqrel
     let place := fun (cx : Cx) (l : Nat) => (lanesOf cx.ex).idxOf l
     let uniform := match d with | .w _ => true | _ => false
     let result := fun (cx : Cx) (l : Nat) => if uniform then s.fresh + 1 else s.fresh + 1 + 2 * place cx l
     let request := fun (cx : Cx) (l : Nat) => if uniform then s.fresh + 2 + place cx l else s.fresh + 2 + 2 * place cx l
     let atom := fun (i : Instr) (op : AtomOp) (tag : Tag) => i.wf = true → ∀ cx pa, Cx.of s i = some cx → cx.passes s →
       (∀ l, cx.ex.getLsbD l = true → (cx.a s l).toNat % n = 0) → cx.commitConflict s = none →
       cx.Reaches s (.atomic op n m.scope m.ord tag) (fun l => (cx.a s l).toNat) pa →
       ∃ t, exec i s = .next t ∧
         s.Asked t ((lanesOf cx.ex).map fun l =>
           { cx.asks s (bitMask l) (.atomic op (pa l) n (cx.b s l) (cx.x s l) m.scope (result cx l)
               ⟨cx.wi, l, (cx.w.lane l).pbars⟩) h.setFlag h.wait with
             rel := if releases then some m.scope else none, acq := if acquires then some m.scope else none
             stage := if releases then 0 else 3 }) ∧
         t.blocks = (if cx.ex = 0 then s.blocks else s.blocks.modify cx.w.block fun b => { b with effects := true }) ∧
         cx.CompletesIn s t { s with reqs := t.reqs, blocks := t.blocks }
           (match d with
             | .w k => if cx.ex = 0 then [] else
                 [⟨s.fresh + 1, s.cyc, none, cx.ex, h.setFlag, true, [⟨cx.low, .w k.toNat, 0, tag, false⟩]⟩]
             | _ => (lanesOf cx.ex).map fun l => ⟨result cx l, s.cyc, none, bitMask l, h.setFlag, true,
                 match d with | .v k => [⟨l, .v k.toNat, 0, tag, false⟩] | _ => []⟩)
           (fun l =>
             let y := cx.laneIssued s noEvents true l
             if cx.ex.getLsbD l = true ∧ acquires then
               { y with status := .inside (.outcome (request cx l)), insn := some i }
             else match y.status with | .inside (.outcome _) => y | _ => cx.goOn l y)
     atom (.atomAdd h m d a b) .add .raw ∧ atom (.atomSmin h m d a b) .smin .raw ∧ atom (.atomSmax h m d a b) .smax .raw ∧
     atom (.atomUmin h m d a b) .umin .raw ∧ atom (.atomUmax h m d a b) .umax .raw ∧ atom (.atomAnd h m d a b) .and .raw ∧
     atom (.atomOr h m d a b) .or .raw ∧ atom (.atomXor h m d a b) .xor .raw ∧ atom (.atomExch h m d a b) .exch .raw ∧
     atom (.atomFadd h m d a b) .fadd (if m.wide then .f64 else .f32) ∧ atom (.atomcas h m d a b x) .cas .raw) ∧
  (∀ (s : State) (h : Hdr) (m : FenceMod) (a : Operand),
     let waits := fun (i : Instr) (cx : Cx) (rel acq : Option Scope) (k : ReqKind) (stage : Nat) (mark : Lane → Lane) =>
       ∃ t, exec i s = .next t ∧
         s.Asked t [{ cx.asks s cx.ex k none 0 with rel := rel, acq := acq, stage := stage }] ∧
         cx.CompletesIn s t { s with reqs := t.reqs, blocks := t.blocks }
           [⟨s.fresh + 1, s.cyc, none, cx.ex, h.setFlag, true, []⟩]
           (fun l => if cx.ex.getLsbD l then
               mark { cx.laneIssued s noEvents true l with
                 status := .inside (.proceed (s.fresh + 2)), insn := some i, owed := some (s.fresh + 1) }
             else cx.goOn l (cx.laneIssued s noEvents true l))
     let epoch := fun (x : Lane) => { x with pbars := x.pbars + 1 }
     let marks := fun (cx : Cx) => if s.contained cx.w then
         s.blocks.modify cx.w.block fun b => { b with commit := b.commit ++ (lanesOf cx.ex).map fun l => .pbar cx.wi l }
       else s.blocks
     let rel := if m.scope ≠ .thr ∧ (m.ord = .rel ∨ m.ord = .acqrel) then some m.scope else none
     let acq := if m.ord = .acq ∨ m.ord = .acqrel then some m.scope else none
     (rel = none → acq = none → Goes (.fence h m) s fun cx l x => cx.goOn l x) ∧
     (∀ cx, Cx.of s (.fence h m) = some cx → cx.passes s → cx.ex ≠ 0 → (rel ≠ none ∨ acq ≠ none) →
       waits (.fence h m) cx rel acq .fence 0 id) ∧
     (∀ cx, Cx.of s (.pbar h) = some cx → cx.passes s →
       ∃ t, exec (.pbar h) s = .next t ∧ t.blocks = marks cx ∧
         cx.CompletesIn s t { s with blocks := t.blocks } [] fun l =>
           cx.goOn l (if cx.ex.getLsbD l then epoch (cx.laneIssued s noEvents false l) else cx.laneIssued s noEvents false l)) ∧
     (∀ cx, Cx.of s (.psync h a) = some cx → cx.passes s → cx.ex ≠ 0 →
       waits (.psync h a) cx none none (.psync (cx.a s cx.low)) 3 epoch))

/-- R146 (06): CPY with aligned operands and room in the engine completes: one request carries the addresses with a
.dev release, and the result is owed until the engine has accepted it.

R147 and R148 (06), R227 (12): COPY_COMPLETE and COPY_FAULT end the oldest copy of a core's engine, which leaves its
queue, once the other die has applied what the object is to follow: the first where every row has been copied, the
second where an access has been refused. The engine moves a copy of one row between device pages that allow it when the
time of its bytes is over, and moves exactly its bytes in its die's view. -/
def Obligations.CopiesAreRequestedAndEnd : Prop :=
  (∀ (s : State) (h : Hdr) (d a b : Operand) (cx : Cx), Cx.of s (.cpy h d a b) = some cx → cx.passes s → cx.ex ≠ 0 →
     (cx.a s cx.low).toNat % 64 = 0 → (cx.b s cx.low).toNat % 16 = 0 → s.copyLoad cx.w.core < 16 →
     ∃ t, exec (.cpy h d a b) s = .next t ∧
       s.Asked t [{ cx.asks s cx.ex (.copy (cx.a s cx.low).toNat (cx.b s cx.low).toNat (s.fresh + 1)) none 0 with
         rel := some .dev, stage := 0 }] ∧
       t.blocks = s.blocks.modify cx.w.block (fun b => { b with effects := true }) ∧
       cx.CompletesIn s t { s with reqs := t.reqs, blocks := t.blocks }
         [⟨s.fresh + 1, s.cyc, none, cx.ex, h.setFlag, true, cx.writes d 0 (fun _ => (0, .u64)) false⟩]
         fun l => cx.goOn l (cx.laneIssued s noEvents true l)) ∧
  (∀ (s : State) (core : Nat) (c : Copy) (rest : List Copy), s.copiesOf core = c :: rest → SMap.wf [] s.copies = true →
     let time := fun (n : Nat) => (n + 255) / 256
     let shown := ∃ ids, c.ids = some ids ∧ ∀ w ∈ s.linkWrites, w.id ∉ ids
     let leaves := fun (i : Instr) => ∃ t, exec i s = .next t ∧ t.copiesOf core = rest ∧ ∀ k, k ≠ core → t.copiesOf k = s.copiesOf k
     (shown → c.fault = none → leaves (.copyComplete core)) ∧
     (shown → c.fault ≠ none → leaves (.copyFault core)) ∧
     (∀ (P Q : Page), s.memOk → c.rows = 1 → c.done = 0 → c.fault = none → c.ids = none → c.core = core → 0 < c.rowBytes →
       c.start ≤ s.cyc → c.zero = false → c.srcLocal = false → c.dstLocal = false →
       let src := (c.word 0).toNat
       let dst := (c.word 1).toNat
       let n := c.rowBytes
       (∀ k, k < n → s.page? c.asid (src + k) = some P ∧ s.page? c.asid (dst + k) = some Q ∧ s.memMark (P.pa + (src + k - P.va)) 1 = none) →
       src + n ≤ 2 ^ 64 → dst + n ≤ 2 ^ 64 → P.kind ≠ 2 → Q.kind ≠ 2 →
       P.permits .load c.slevel = true → Q.permits .store c.slevel = true → (∀ p ∈ s.pages, p.disc = none) →
       let t := s.moveCopy core 2
       (s.cyc < c.start + time n → t = s) ∧
       (c.start + time n ≤ s.cyc →
         (∃ ids, t.copiesOf core = { c with done := 1, ids := some ids } :: rest) ∧
         ∀ a, Memory.get (t.view (dieOfCore core)) a =
           (let base := Q.pa + (dst - Q.va)
            if base ≤ a ∧ a < base + n then Memory.get (s.view (dieOfCore core)) (P.pa + (src - P.va) + (a - base))
            else Memory.get (s.view (dieOfCore core)) a))))

/-- R149 and R151 (06): SLEEP before its time holds its executing lanes, which take no slot where they are the whole
cohort; at its time it goes on, and so does a SLEEP that no lane executes. MWAIT goes on at once with 3 where no watch
is armed, 0 where the line has been written, 1 where the timeout has come, disarmed; else the lane waits inside it.

R149 and R151 (06), R101 (04): a lane of a resident wave leaves MWAIT when its line has been written, with 0, when its
timeout has come, with 1, and at a spurious wake, with 2, disarmed; a spurious wake lets a CALLB's waiter try again;
SLEEP_WAKE makes the cohort of a sleeper ready at its SLEEP once its time has come. R377 (24): a watch register that a
write has hit is freed, and the wake scan of its entry's sleepers begins at element 0. -/
def Obligations.SleepersAndWatchers : Prop :=
  (∀ (s : State) (h : Hdr) (d a b : Operand),
     (∀ cx, Cx.of s (.sleep h a b) = some cx → cx.passes s →
       let at_ := (cx.a s cx.low).toNat
       let state := fun (pas : List Nat) =>
         leNat (s.loadBytes cx.w cx.wi cx.low (cx.b s cx.low).toNat (pas.headD 0) 8 (s.cyc + 1)) % 4
       (cx.ex ≠ 0 → s.cyc < at_ → ∃ t w, exec (.sleep h a b) s = .next t ∧ t.rest = s.rest ∧
         t.issuedQ = (if cx.all &&& ~~~cx.ex = 0 then s.issuedQ else s.issuedQ ++ [4 * cx.w.core + cx.w.quadrant]) ∧
         (∀ k, k ≠ cx.wi → t.waves[k]? = s.waves[k]?) ∧ t.waves[cx.wi]? = some w ∧ w.frame = cx.w.frame ∧ w.wregs = cx.w.wregs ∧
         w.wbs = cx.w.wbs ∧ ∀ l, l < cx.w.lanes.length → w.lane l =
           if cx.ex.getLsbD l then { cx.w.lane l with status := .blocked (.sleep at_) }
           else cx.goOn l (cx.laneIssued s noEvents false l)) ∧
       (cx.ex = 0 ∨ (at_ ≤ s.cyc ∧ b = .none) → ∃ t, exec (.sleep h a b) s = .next t ∧
         cx.Completes s t [] fun l => cx.goOn l (cx.laneIssued s noEvents false l)) ∧
       (cx.ex ≠ 0 → at_ ≤ s.cyc → b ≠ .none → ∀ pas, s.walk cx.w.asid cx.w.level (cx.b s cx.low).toNat 16 .load = .ok pas →
         state pas ≠ 0 → ∃ t, exec (.sleep h a b) s = .next t ∧ cx.Completes s t [] fun l =>
           let x := cx.goOn l (cx.laneIssued s noEvents false l)
           if cx.ex.getLsbD l then { x with acquired := s.cyc } else x)) ∧
     (∀ cx, (Instr.mwait h d a).wf = true → Cx.of s (.mwait h d a) = some cx → cx.passes s → cx.oldIds s →
       let reason : Nat → Option Word := fun l =>
         match (cx.w.lane l).watch with
         | none => some 3
         | some w => if w.hit then some 0 else if a ≠ .none ∧ (cx.a s l).toNat ≤ s.cyc then some 1 else none
       let dest := fun l => match d with
         | .v n => [(⟨l, .v n.toNat, (reason l).getD 0, .u64, false⟩ : RegWrite)]
         | .w n => if l = cx.low then [⟨l, .w n.toNat, (reason l).getD 0, .u64, false⟩] else []
         | _ => []
       ∃ t, exec (.mwait h d a) s = .next t ∧
         cx.Completes s t ((cx.owing s dest).map fun x => { x with due := (lowest x.lanes).bind fun l => (reason l).map fun _ => s.cyc })
           fun l => if cx.ex.getLsbD l ∧ (reason l).isSome then
               { (cx.laneIssued s noEvents true l).goOn with watch := none }
             else cx.waiting s (fun l => .mwait (if a = .none then none else some (cx.a s l).toNat)) l)) ∧
  (∀ (s : State) (wi lane : Nat) (w : Wave), s.waves[wi]? = some w → lane < w.lanes.length →
     let leaves := fun (i : Instr) (v : Word) => ∃ t x, exec i s = .next t ∧ t.waves[wi]? = some x ∧
       (∀ k, k ≠ wi → t.waves[k]? = s.waves[k]?) ∧ t.rest = s.rest ∧
       (∀ l, l ≠ lane → x.lane l = w.lane l) ∧ (x.lane lane).status = .ready ∧ (x.lane lane).watch = none ∧
       (x.lane lane).pc = ((w.lane lane).pc + 12) % 2 ^ 64 ∧ x.frame = w.frame ∧ x.wregs = w.wregs ∧
       ∀ id, (w.lane lane).owed = some id → x.wbs = w.wbs.map fun b =>
         if b.id = id then { b with due := some s.cyc, writes := b.writes.map fun r => { r with val := v } } else b
     (∀ T q, (w.lane lane).status = .inside (.mwait T) → (w.lane lane).watch = some q → w.resident = true →
       (q.hit = true → leaves (.lineWriteWake wi lane) 0) ∧
       (∀ c, q.hit = false → T = some c → c ≤ s.cyc → leaves (.mwaitTimeout wi lane) 1)) ∧
     (∀ T, (w.lane lane).status = .inside (.mwait T) → leaves (.spuriousWake wi lane) 2) ∧
     (∀ k, (w.lane lane).status = .blocked (.callb k) → exec (.spuriousWake wi lane) s =
       .next { s with waves := s.waves.set wi { w with lanes := w.lanes.set lane { w.lane lane with status := .ready } } }) ∧
     (∀ c, (w.lane lane).status = .blocked (.sleep c) → c ≤ s.cyc → w.lanes.length = 32 → ∃ t x, exec (.sleepWake wi lane) s = .next t ∧
       t.waves[wi]? = some x ∧ (∀ k, k ≠ wi → t.waves[k]? = s.waves[k]?) ∧ t.rest = s.rest ∧
       ∀ l, l < 32 → x.lane l = if (w.lane l).status = .blocked (.sleep c) ∧ (w.lane l).pc = (w.lane lane).pc
         then { w.lane l with status := .ready } else w.lane l) ∧
     (∀ core slot r, (SMap.get [] s.watchRegs core).find? (fun q => decide (q.slot = slot) && q.hit) = some r → ∃ n,
       exec (.lineWatchWakeScan core slot) s =
         .next (State.wakeScan { s with watchRegs := SMap.set [] s.watchRegs core ((SMap.get [] s.watchRegs core).erase r) }
           ⟨r.word0, r.word1, n, r.asid, r.slevel, r.tenant, 0, n, some (3, r.entry), none, none⟩)))

/-- R152 (06): BAR adds its executing lanes to the arrivals of its barrier, and they wait; BARDROP lowers what the
barrier expects by its executing lanes, which have dropped it and go on. R154 (06), R265 (16): NBARRIVE by every live
lane of the wave makes one arrival of the block; by some of them it counts the issue in those lanes alone. NBWAIT
passes a lane with a credit, which it takes, and any other waits.

R153 (06): GBAR and GRED of a member hold their executing lanes; where every live lane of the wave executes it, the
wave's arrival is requested with a .clu release and carries, for GRED, the root of each sub-element's tree over the
lanes' operands, the identity of the operation standing for the others. -/
def Obligations.BarriersAndGroups : Prop :=
  (∀ (s : State) (h : Hdr) (k : BitVec 3) (n : BitVec 4),
     let j := n.toNat
     let bar := fun (cx : Cx) (t : State) (f : Nat → Barrier → Barrier) =>
       t.blocks = s.blocks.modify cx.w.block fun b => b.setBarrier k.toNat (f (lanesOf cx.ex).length (b.barrier k.toNat))
     (∀ cx, Cx.of s (.bar h k) = some cx → cx.passes s → (∀ l, cx.ex.getLsbD l = true → (cx.w.lane l).dropped.getLsbD k.toNat = false) →
       ∃ t, exec (.bar h k) s = .next t ∧ bar cx t (fun m x => ⟨x.expected, x.arrived + m⟩) ∧
         cx.CompletesIn s t { s with blocks := t.blocks } (cx.owing s fun _ => []) (cx.waiting s fun _ => .bar k.toNat)) ∧
     (∀ cx, Cx.of s (.bardrop h k) = some cx → cx.passes s →
       (∀ l, cx.ex.getLsbD l = true → (cx.w.lane l).dropped.getLsbD k.toNat = false) →
       ∃ t, exec (.bardrop h k) s = .next t ∧ bar cx t (fun m x => ⟨x.expected - m, x.arrived⟩) ∧
         cx.CompletesIn s t { s with blocks := t.blocks } [] fun l =>
           let x := cx.laneIssued s noEvents false l
           cx.goOn l (if cx.ex.getLsbD l then { x with dropped := x.dropped ||| BitVec.ofNat 8 (2 ^ k.toNat) } else x)) ∧
     (∀ cx, Cx.of s (.nbarrive h n) = some cx → cx.passes s → cx.w.lanes.length = 32 → (∀ i, i < 16 → cx.w.nbArrived i = false) →
       (∀ l, cx.ex.getLsbD l = true → (cx.w.lane l).aheadOf j < 3 ∧ (cx.w.lane l).status = .ready ∧ SMap.wf 0 (cx.w.lane l).ahead = true) →
       let up := fun (x : Lane) => { x with ahead := SMap.set 0 x.ahead j (x.aheadOf j + 1) }
       ((∃ l, l < 32 ∧ (cx.w.lane l).status ≠ .exited ∧ cx.ex.getLsbD l = false ∧ (cx.w.lane l).aheadOf j = 0) →
         ∃ t, exec (.nbarrive h n) s = .next t ∧ cx.Completes s t [] fun l =>
           cx.goOn l (if cx.ex.getLsbD l then up (cx.laneIssued s noEvents false l) else cx.laneIssued s noEvents false l)) ∧
       (cx.ex ≠ 0 → (∀ l, l < 32 → (cx.w.lane l).status ≠ .exited → cx.ex.getLsbD l = true) →
         ∃ t, exec (.nbarrive h n) s = .next t ∧
           (∃ id, s.fresh ≤ id ∧ t.blocks = s.blocks.modify cx.w.block fun b =>
             { b with arr := SMap.set 0 b.arr j (min (2 ^ 32 - 1) (SMap.get 0 b.arr j + 1)), arrIds := SMap.set 0 b.arrIds j id }) ∧
           ∃ w, t.waves[cx.wi]? = some w ∧ (∀ l, l < 32 → (w.lane l).aheadOf j = (cx.w.lane l).aheadOf j ∧
             (w.lane l).pc = (cx.goOn l (cx.w.lane l)).pc ∧ (w.lane l).status = (cx.w.lane l).status) ∧
           w.wbs = cx.w.wbs ∧ w.rest = cx.w.rest ∧ w.frame = (cx.w.releases cx.ex cx.v).frame ∧
           w.wregs = (cx.w.releases cx.ex cx.v).wregs ∧ t.rest.sansBlocks = s.rest.sansBlocks)) ∧
     (∀ cx, Cx.of s (.nbwait h n) = some cx → cx.passes s →
       ((∀ l, cx.ex.getLsbD l = true → 0 < (cx.w.lane l).creditOf j) →
         ∃ t, exec (.nbwait h n) s = .next t ∧ cx.Completes s t (cx.result1 s s.cyc true []) fun l =>
           let x := cx.laneIssued s noEvents true l
           cx.goOn l (if cx.ex.getLsbD l then { x with credit := SMap.set 0 x.credit j (x.creditOf j - 1) } else x)) ∧
       ((∀ l, cx.ex.getLsbD l = true → (cx.w.lane l).creditOf j = 0) →
         ∃ t, exec (.nbwait h n) s = .next t ∧ cx.Completes s t (cx.owing s fun _ => []) (cx.waiting s fun _ => .nbwait j)))) ∧
  (∀ (s : State) (h : Hdr) (m : RedMod) (d a b : Operand) (g : BitVec 8),
     let arrives := fun (i : Instr) (cx : Cx) (e : Nat) (k : Nat → Inside) (dest : Nat → List RegWrite) (roots : List FRes) =>
       cx.w.lanes.length = 32 → (∀ l, l < 32 → (cx.w.lane l).atGroup e = false) → s.hasArrived cx.wi cx.w.launch e = false →
       ((∃ l, l < 32 ∧ (cx.w.lane l).status ≠ .exited ∧ cx.ex.getLsbD l = false) →
         ∃ t, exec i s = .next t ∧ cx.Completes s t (cx.owing s dest) (cx.waiting s k)) ∧
       (cx.ex ≠ 0 → (∀ l, l < 32 → (cx.w.lane l).status ≠ .exited → cx.ex.getLsbD l = true) →
         (∀ l, cx.ex.getLsbD l = true → (cx.w.lane l).status ≠ .exited) →
         ∃ t, exec i s = .next t ∧ cx.CompletesIn s t { s with reqs := t.reqs } (cx.owing s dest) (cx.waiting s k) ∧
           s.Asked t [{ cx.asks s cx.ex (.arrive e (roots.map (·.1)) (roots.foldl (fun x r => x ||| r.2) 0)) none 0 with
             rel := some .clu, stage := 0 }])
     (∀ cx, Cx.of s (.gbar h g) = some cx → cx.passes s → s.isMember cx.w g.toNat = true →
       arrives (.gbar h g) cx g.toNat (fun _ => .gbar g.toNat) (fun _ => []) []) ∧
     (∀ cx, (Instr.gred h m d a b).wf = true → Cx.of s (.gred h m d a b) = some cx → cx.passes s →
       let e := (cx.b s cx.low).toNat
       let w := m.ty.posTy.width
       let leaf := fun k l => if cx.ex.getLsbD l then sub w k (cx.a s l) else redIdentity m.op m.ty.posTy
       let halves := if s.compat16 cx.w then [(0, 4), (16, 4)] else [(0, 5)]
       e < 256 → s.isMember cx.w e = true →
       arrives (.gred h m d a b) cx e (fun l => .gred e (cx.a s l))
         (fun l => match d with
           | .v n => [⟨l, .v n.toNat, 0, RedTy.tag m.ty, false⟩]
           | .w n => if l = cx.low then [⟨l, .w n.toNat, 0, RedTy.tag m.ty, false⟩] else []
           | _ => [])
         (halves.flatMap fun p => (List.range (64 / w)).map fun k =>
           redRoot (redNode m.op m.ty.posTy) p.2 ((List.range (2 ^ p.2)).map fun i => leaf k (p.1 + i)))))

/-- R155 and R156 (06): PSEND with room requests the message of each executing lane, which goes on; with a pipe whose
every consumer has ended it answers 1; without room it waits. PRECV takes the next messages in lane order, 0 at its
predicate, with an acquire; at the end of the pipe it answers 1 there; else it waits.

R157 (06): COMMIT goes on in a kernel that is not contained. In a contained one its executing lanes wait; where every
thread of the block has then arrived or exited and no drain is under way, the drain is requested. -/
def Obligations.PipesAndCommit : Prop :=
  (∀ (s : State) (h : Hdr) (d a b x : Operand) (pipe : Nat → Nat),
     let dest1 := fun (cx : Cx) (v : Word) l => match d with
       | .v n => [(⟨l, .v n.toNat, v, .u64, false⟩ : RegWrite)]
       | .w n => if l = cx.low then [⟨l, .w n.toNat, v, .u64, false⟩] else []
       | _ => []
     let answered := fun (ws : List WriteBack) => ws.map fun b => { b with due := some s.cyc }
     (∀ cx, (Instr.psend h d a b).wf = true → Cx.of s (.psend h d a b) = some cx → cx.passes s → cx.oldIds s →
       (∀ l, cx.ex.getLsbD l = true → s.pipeOf cx.w false (cx.b s l).toNat = some (pipe l)) →
       let msg := fun l => (List.range 8).map fun k => (cx.readAt s .untyped a k l).1
       let mine := fun k => ((lanesOf cx.ex).filter fun l => pipe l = k).length
       let on := fun l => if cx.ex.getLsbD l then (cx.laneIssued s noEvents true l).goOn else cx.goOn l (cx.laneIssued s noEvents true l)
       ((∀ l, cx.ex.getLsbD l = true → s.roleLive (s.pipe (pipe l)) true = true ∧
           s.pipeLoad (pipe l) + mine (pipe l) ≤ (s.pipe (pipe l)).capacity) →
         ∃ t, exec (.psend h d a b) s = .next t ∧
           s.Asked t ((lanesOf cx.ex).map fun l =>
             { cx.asks s (bitMask l) (.message (pipe l) (msg l) (s.fresh + 1 + nth cx.ex l)) none 0 with rel := some .dev, stage := 0 }) ∧
           t.blocks = (if cx.ex = 0 then s.blocks else s.blocks.modify cx.w.block fun b => { b with effects := true }) ∧
           cx.CompletesIn s t { s with reqs := t.reqs, blocks := t.blocks } (cx.owing s (dest1 cx 0)) on) ∧
       ((∀ l, cx.ex.getLsbD l = true → s.roleLive (s.pipe (pipe l)) true = false) →
         ∃ t, exec (.psend h d a b) s = .next t ∧ cx.Completes s t (answered (cx.owing s (dest1 cx 1))) on) ∧
       ((∀ l, cx.ex.getLsbD l = true → s.roleLive (s.pipe (pipe l)) true = true ∧ (s.pipe (pipe l)).capacity ≤ s.pipeLoad (pipe l)) →
         ∃ t, exec (.psend h d a b) s = .next t ∧
           cx.Completes s t (cx.owing s (dest1 cx 0)) (cx.waiting s fun l => .psend (pipe l) (msg l)))) ∧
     (∀ cx, (Instr.precv h d b x).wf = true → Cx.of s (.precv h d b x) = some cx → cx.passes s → cx.oldIds s →
       (∀ l, cx.ex.getLsbD l = true → s.pipeOf cx.w true (cx.b s l).toNat = some (pipe l)) →
       let before := fun l => ((lanesOf cx.ex).filter fun k => decide (k < l ∧ pipe k = pipe l)).length
       let mine := fun k => ((lanesOf cx.ex).filter fun l => pipe l = k).length
       let got := fun l => (s.pipe (pipe l)).msgs.getD (before l) []
       let dest := fun (v : Nat → Nat → Word) (e : Word) l =>
         (match d with
           | .v n => (List.range 8).map fun k => (⟨l, .v (n.toNat + k), v l k, .raw, false⟩ : RegWrite)
           | .w n => if l = cx.low then (List.range 8).map fun k => ⟨l, .w (n.toNat + k), v l k, .raw, false⟩ else []
           | _ => []) ++
           (match x with
           | .p p => [⟨l, .p p.toNat, e, .raw, false⟩]
           | _ => [])
       ((∀ l, cx.ex.getLsbD l = true → before l < (s.pipe (pipe l)).msgs.length) →
         ∃ t, exec (.precv h d b x) s = .next t ∧
           t.pipes = s.pipes.mapIdx (fun k q => { q with msgs := q.msgs.drop (mine k) }) ∧
           t.taken = s.taken ++ (lanesOf cx.ex).map (fun l => (s.cyc, cx.wi, pipe l, got l)) ∧
           cx.CompletesIn s t { s with pipes := t.pipes, taken := t.taken }
             (answered (cx.owing s (dest (fun l k => (got l).getD k 0) 0)))
             fun l => if cx.ex.getLsbD l then { (cx.laneIssued s noEvents true l).goOn with acquired := s.cyc }
               else cx.goOn l (cx.laneIssued s noEvents true l)) ∧
       ((∀ l, cx.ex.getLsbD l = true → (s.pipe (pipe l)).msgs = [] ∧ (s.pipe (pipe l)).poison = none ∧
           s.roleLive (s.pipe (pipe l)) false = false) →
         ∃ t, exec (.precv h d b x) s = .next t ∧ cx.Completes s t (answered (cx.owing s (dest (fun _ _ => 0) 1)))
           fun l => if cx.ex.getLsbD l then (cx.laneIssued s noEvents true l).goOn else cx.goOn l (cx.laneIssued s noEvents true l)) ∧
       ((∀ l, cx.ex.getLsbD l = true → (s.pipe (pipe l)).msgs = [] ∧ (s.pipe (pipe l)).poison = none ∧
           s.roleLive (s.pipe (pipe l)) false = true) →
         ∃ t, exec (.precv h d b x) s = .next t ∧
           cx.Completes s t (cx.owing s (dest (fun _ _ => 0) 0)) (cx.waiting s fun l => .precv (pipe l))))) ∧
  (∀ (s : State) (h : Hdr) (cx : Cx), Cx.of s (.commit h) = some cx → cx.passes s →
     (s.contained cx.w = false → ∃ t, exec (.commit h) s = .next t ∧
       cx.Completes s t [] fun l => cx.goOn l (cx.laneIssued s noEvents false l)) ∧
     (s.contained cx.w = true → ∃ t, exec (.commit h) s = .next t ∧
       cx.CompletesIn s t { s with reqs := t.reqs } (cx.owing s fun _ => []) (cx.waiting s fun _ => .commit) ∧
       ∀ b, s.blocks[cx.w.block]? = some b →
         (if t.commitReady b ∧ s.draining cx.w.block b = false then
           ∃ r, t.reqs = s.reqs ++ [r] ∧ r.kind = .drain ∧ r.wave = b.waves.headD 0 ∧ r.rel = none ∧ r.acq = none
         else t.reqs = s.reqs)))

/-- R251 (14): MCLAIM and MRELEASE of 1 to 256 slots inside the tile store, every one FREE (CLAIMED for MRELEASE), set
them CLAIMED (FREE), format ZERO, every byte zero, for 1 cycle a slot; any other range stops the sequencer and changes
no slot. R247: a word that must wait changes nothing.

R255 and R256 (14), R265 (16): MARRIVE with nothing before it gives every live lane of the block a credit, to at most
63, and counts; behind other words it waits for them. MWAITNB takes the arrivals it names once what they release is in
the core's view, and waits until then; MEND ends the stream.

R260 (14): MDRAIN at S level on a slot of the block, with its 2368-byte image at a confirmed aligned address. SAVE
makes 37 stores of the rows, the sideband, the state and the format, which in a contained kernel enter the commit
buffer; LOAD makes the slot what a legal image says, a FREE slot zero. While an issued stream word uses the slot the
lanes wait inside. -/
def Obligations.SlotsAndStreamControl : Prop :=
  (∀ (s : State) (b : Block) (m : BitVec 8) (n : BitVec 9), s.blocks[s.curBlock]? = some b → b.seq = .running →
     SMap.wf Slot.free b.slots = true →
     let f := m.toNat
     let word := fun (i : Instr) (claim : Bool) =>
       (s.streamReady b i = false → exec i s = .next s) ∧
       (s.streamReady b i = true →
         (1 ≤ n.toNat → n.toNat ≤ 256 → f + n.toNat ≤ s.tilesOf b → (∀ k, k < n.toNat → (b.slot (f + k)).claimed = !claim) →
           ∃ t c, exec i s = .next t ∧ s.StreamsTo t s.curBlock c ∧
             (∀ k, c.slot k = if f ≤ k ∧ k < f + n.toNat then ⟨claim, .zero, []⟩ else b.slot k) ∧
             c.seqPc = (b.seqPc + 12) % 2 ^ 64 ∧ c.seqOps = b.seqOps ++ [⟨b.seqPc, i, s.cyc, s.cyc + n.toNat, none, [], []⟩] ∧
             { c with slots := [], seqPc := 0, seqOps := [], redo := none } = { b with slots := [], seqPc := 0, seqOps := [], redo := none }) ∧
         (∀ detail : List Word,
           (n.toNat = 0 ∨ 256 < n.toNat ∨ s.tilesOf b < f + n.toNat → detail = [1, BitVec.ofNat 64 f]) →
           (1 ≤ n.toNat → n.toNat ≤ 256 → f + n.toNat ≤ s.tilesOf b → ∃ k, k < n.toNat ∧ (b.slot (f + k)).claimed = claim ∧
             (∀ j, j < k → (b.slot (f + j)).claimed = !claim) ∧ detail = [2, BitVec.ofNat 64 (f + k)]) →
           exec i s = .next { s with blocks := s.blocks.set s.curBlock { b with
             seq := .stopped, redo := none, faultMark := true
             seqFault := some (0x42 :: BitVec.ofNat 64 b.seqPc :: (instrWords i ++ detail)) } }))
     word (.mclaim (.w m) n) true ∧ word (.mrelease (.w m) n) false) ∧
  (∀ (s : State) (b : Block) (j : BitVec 4) (n : BitVec 10), s.blocks[s.curBlock]? = some b → b.seq = .running →
     let pc := (b.seqPc + 12) % 2 ^ 64
     let next := { b with seqPc := pc, redo := if b.redo = some pc then none else b.redo }
     (b.waves.Nodup → b.seqOps = [] → ∃ t, exec (.marrive j) s = .next t ∧
       t.blocks = s.blocks.set s.curBlock { next with marr := SMap.set 0 b.marr j.toNat (SMap.get 0 b.marr j.toNat + 1) } ∧
       (∀ k, t.waves[k]? = (s.waves[k]?).map fun w =>
         if k ∈ b.waves then { w with lanes := w.lanes.map fun l => if l.status = .exited then l else
           { l with credit := SMap.set 0 l.credit j.toNat (min 63 (SMap.get 0 l.credit j.toNat + 1)) } } else w) ∧
       t.issuedQ = s.issuedQ ∧ { t.rest with blocks := [], seqJournal := [] } = { s.rest with blocks := [], seqJournal := [] }) ∧
     ((∃ o rest, b.seqOps = o :: rest ∧ ∀ k, o.insn ≠ .marrive k) → ∃ t, exec (.marrive j) s = .next t ∧
       s.StreamsTo t s.curBlock { next with seqOps := b.seqOps ++ [⟨b.seqPc, .marrive j, s.cyc, s.cyc, none, [], []⟩] }) ∧
     let released := ∀ wi ∈ b.waves, s.quiet wi (BitVec.allOnes 32) (SMap.get 0 b.arrIds (n.toNat % 16)) = true
     (n.toNat / 16 ≤ SMap.get 0 b.arr (n.toNat % 16) → released → ∃ t, exec (.mwaitnb n) s = .next t ∧
       s.StreamsTo t s.curBlock { next with arr := SMap.set 0 b.arr (n.toNat % 16) (SMap.get 0 b.arr (n.toNat % 16) - n.toNat / 16) }) ∧
     (SMap.get 0 b.arr (n.toNat % 16) < n.toNat / 16 ∨ (1 ≤ n.toNat / 16 ∧ ¬ released) → exec (.mwaitnb n) s = .next s) ∧
     (∃ t, exec .mend s = .next t ∧ s.StreamsTo t s.curBlock { next with seq := .ended })) ∧
  (∀ (s : State) (h : Hdr) (a b : Operand),
     let n := fun (cx : Cx) => (cx.a s cx.low).toNat
     let va := fun (cx : Cx) => (cx.b s cx.low).toNat
     let image := fun (t : Slot) => ((List.range 2304).map fun k => SMap.get 0 t.bytes k)
       ++ natLe 8 ((if t.claimed then 1 else 0) + 2 * t.fmt.code) ++ List.replicate 56 (0 : Byte)
     let ready := fun (cx : Cx) (blk : Block) => cx.passes s ∧ cx.w.level = true ∧ cx.ex ≠ 0 ∧ va cx % 64 = 0 ∧ cx.oldIds s ∧
       cx.w.lanes.length = 32 ∧ s.blocks[cx.w.block]? = some blk ∧ n cx < s.tilesOf blk ∧
       ∀ l, cx.ex.getLsbD l = false → ∀ p q r u, (cx.w.lane l).status ≠ .inside (.mdrain p q r u)
     let done := fun (cx : Cx) => (cx.owing s fun _ => []).map fun x => { x with due := some s.cyc }
     let on := fun (cx : Cx) l => if cx.ex.getLsbD l then (cx.laneIssued s noEvents true l).goOn else cx.goOn l (cx.laneIssued s noEvents true l)
     (∀ cx blk pas, Cx.of s (.mdrainSave h a b) = some cx → ready cx blk → s.walk cx.w.asid true (va cx) 2368 .store = .ok pas →
       let piece := fun (k : Nat) => ((image (blk.slot (n cx))).drop (64 * k)).take 64
       let place := fun (k : Nat) => paOf (va cx) pas (64 * k)
       (blk.slotBusy (n cx) = false → s.contained cx.w = false → ∃ t, exec (.mdrainSave h a b) s = .next t ∧
         s.Asked t ((List.range 37).map fun k => cx.asks s (bitMask cx.low)
           (.store (place k) (piece k) ⟨cx.wi, cx.low, (cx.w.lane cx.low).pbars⟩) none 0) ∧
         t.blocks = s.blocks.modify cx.w.block (fun x => { x with effects := true }) ∧
         cx.CompletesIn s t { s with reqs := t.reqs, blocks := t.blocks } (done cx) (on cx)) ∧
       (blk.slotBusy (n cx) = false → s.contained cx.w = true → (∀ k, k < 37 → isHost (place k) = false) →
         ∃ t, exec (.mdrainSave h a b) s = .next t ∧
           t.blocks = s.blocks.modify cx.w.block (fun x => { x with
             commit := x.commit ++ (List.range 37).map fun k => .store cx.wi cx.low (va cx + 64 * k) (place k) (piece k) }) ∧
           cx.CompletesIn s t { s with blocks := t.blocks } (done cx) (on cx)) ∧
       (blk.slotBusy (n cx) = true → ∃ t, exec (.mdrainSave h a b) s = .next t ∧
         cx.Completes s t (cx.owing s fun _ => []) (cx.waiting s fun _ => .mdrain cx.low (n cx) (some (va cx, pas)) []))) ∧
     (∀ cx blk pas (slot : Slot), Cx.of s (.mdrainLoad h a b) = some cx → ready cx blk → SMap.wf Slot.free blk.slots = true → s.walk cx.w.asid true (va cx) 2368 .load = .ok pas →
       let bytes := (List.range 2368).map fun i =>
         s.loadByte cx.w cx.wi cx.low (va cx + i) (paOf (va cx) pas i) (cx.w.lane cx.low).acquired
       (leNat ((bytes.drop 2304).take 8) = (if slot.claimed then 1 else 0) + 2 * slot.fmt.code ∧
         (∀ x ∈ bytes.drop 2312, x = 0) ∧ ∀ k, k < 2304 → SMap.get 0 slot.bytes k = bytes.getD k 0) →
       (∀ k, k < 37 → s.memMark (paOf (va cx) pas (64 * k)) 64 = none) →
       (blk.slotBusy (n cx) = false → ∃ t c, exec (.mdrainLoad h a b) s = .next t ∧
         t.blocks = s.blocks.set cx.w.block c ∧ (slot.claimed = false → c.slot (n cx) = ⟨false, .zero, []⟩) ∧
         (slot.claimed = true → (c.slot (n cx)).claimed = true ∧ (c.slot (n cx)).fmt = slot.fmt ∧
           ∀ k, k < 2304 → SMap.get 0 (c.slot (n cx)).bytes k = SMap.get 0 slot.bytes k) ∧
         (∀ k, k ≠ n cx → c.slot k = blk.slot k) ∧ { c with slots := [] } = { blk with slots := [] } ∧
         cx.CompletesIn s t { s with blocks := t.blocks } (done cx) (on cx)) ∧
       (blk.slotBusy (n cx) = true → ∃ t, exec (.mdrainLoad h a b) s = .next t ∧
         cx.Completes s t (cx.owing s fun _ => []) (cx.waiting s fun _ => .mdrain cx.low (n cx) none bytes))))

/-- R252 (14): MFILL of a CLAIMED slot with aligned addresses, whose reads its pages all allow, starts: its rows, and
the exponent pairs of the K formats, are read in the core's view; they will be the slot's no sooner than 120 cycles
later (R410, 10: the reads' return and 40 cycles).

R253 and R254 (14), R257: MMA and MMACK on CLAIMED slots of format ZERO or .fmt and accumulators inside the frame
tagged RAW or F32 start; 20 and 22 cycles later they will write, in every lane i, C + A·B, each K-step one exact sum
rounded once, and MMACK's residues and magnitudes of the step's exact products. -/
def Obligations.FillsAndMatrixOperations : Prop :=
  (∀ (s : State) (b : Block) (m : TileFmt) (mS wa : BitVec 8) (wb : Operand) (imm : BitVec 15) (pas qas : Nat → List Nat),
     let i : Instr := .mfill m (.w mS) (.w wa) wb imm
     let pc := (b.seqPc + 12) % 2 ^ 64
     let base := s.wave0Reg b wa.toNat
     let plane := s.wave0Reg b (wa.toNat + 1)
     let stride : Int := match wb with | .w n => (s.wave0Reg b n.toNat).toInt | _ => 64
     let row := fun (r : Nat) => (BitVec.ofInt 64 (base.toNat + imm.toInt + r * stride)).toNat
     let per : Nat := match m with | .bf16 => 0 | .k8 => 4 | .k4 => 8
     let bb : Int := match m with | .k4 => 16 | _ => 32
     let pairs := fun (r : Nat) => (BitVec.ofInt 64 (plane.toNat + 2 * ((imm.toInt + r * stride) / bb))).toNat
     let asid := (s.blockAsid b).1
     let ok := fun (va n : Nat) (p : List Nat) =>
       s.walk asid false va n .load = .ok p ∧ (∀ a ∈ pageStarts va n, s.discarded asid a = false) ∧
         ∀ k, k < n → s.memMark (paOf va p k) 1 = none
     let bytes := fun (va n : Nat) (p : List Nat) => (List.range n).map fun k => s.coreByte b.core (paOf va p k)
     s.blocks[s.curBlock]? = some b → b.seq = .running → s.streamReady b i = true →
     mS.toNat < s.tilesOf b → (b.slot mS.toNat).claimed = true →
     base.toNat % 64 = 0 → imm.toInt % 64 = 0 → stride % 64 = 0 → (m ≠ .bf16 → plane.toNat % 2 = 0 ∧ wa.toNat ≠ 255) →
     (∀ r, r < 32 → ok (row r) 64 (pas r) ∧ (m ≠ .bf16 → ok (pairs r) per (qas r))) →
     ∃ t due, exec i s = .next t ∧ s.cyc + 120 ≤ due ∧
       s.StreamsTo t s.curBlock { b with
         seqPc := pc, redo := if b.redo = some pc then none else b.redo
         seqOps := b.seqOps ++ [⟨b.seqPc, i, s.cyc, due, none, [],
           ((List.range 32).flatMap fun r => bytes (row r) 64 (pas r)) ++
             (if m = .bf16 then [] else (List.range 32).flatMap fun r => bytes (pairs r) per (qas r))⟩] }) ∧
  (∀ (s : State) (b : Block) (m : TileFmt) (acc : BitVec 10) (na nb W : BitVec 8) (k : Nat) (w : Wave),
     let pc := (b.seqPc + 12) % 2 ^ 64
     let sa := b.slot na.toNat
     let sb := b.slot nb.toNat
     let fits := fun (t : Slot) => t.claimed = true ∧ (t.fmt = .zero ∨ t.fmt = TileFmt.slotFmt m)
     let old := fun (i j : Nat) => sub 32 (j % 2) (w.vread (acc.toNat + j / 2) i).1
     let steps := List.range (match m with | .bf16 => 1 | .k8 => 2 | .k4 => 4)
     let products := fun (h i j : Nat) => (List.range 32).map fun n =>
       mulExact (slotElem sa.fmt sa.data sa.side i (32 * h + n)) (slotElem sb.fmt sb.data sb.side j (32 * h + n))
     let new := fun (i j : Nat) => steps.foldl (fun c h => exactSum (products h i j) [fval .f32 c]) (old i j)
     let sums := fun (c : Nat) (mag : Bool) (ps : Nat → List (Option FV)) => steps.foldl (fun c h =>
       exactSum (if mag then (ps h).map (Option.map FV.abs) else ps h) [fval .f32 c]) c
     let check := fun (i : Nat) =>
       let row := fun h => (List.range 32).flatMap fun j => products h i j
       let col := fun h => (List.range 32).flatMap fun r => products h r i
       let r := (w.vread (acc.toNat + 16) i).1
       let g := (w.vread (acc.toNat + 17) i).1
       [(⟨i, .v (acc.toNat + 16), pack 32 [sums (sub 32 0 r) false row, sums (sub 32 1 r) true row], .f32, false⟩ : RegWrite),
         ⟨i, .v (acc.toNat + 17), pack 32 [sums (sub 32 0 g) false col, sums (sub 32 1 g) true col], .f32, false⟩]
     let tile := (List.range 32).flatMap fun i => (List.range 16).map fun r =>
       (⟨i, .v (acc.toNat + r), pack 32 [new i (2 * r), new i (2 * r + 1)], .f32, false⟩ : RegWrite)
     let starts := fun (i : Instr) (n cycles : Nat) (writes : List RegWrite) =>
       s.streamReady b i = true → acc.toNat + n ≤ w.frameSize →
       (∀ j l, j < n → l < 32 → ((w.vread (acc.toNat + j) l).2 = .raw ∨ (w.vread (acc.toNat + j) l).2 = .f32) ∧
         w.lostV k (acc.toNat + j) l = none) →
       ∃ t, exec i s = .next t ∧ s.StreamsTo t s.curBlock { b with
         seqPc := pc, redo := if b.redo = some pc then none else b.redo
         seqOps := b.seqOps ++ [⟨b.seqPc, i, s.cyc, s.cyc + cycles, some k, writes, []⟩] }
     s.blocks[s.curBlock]? = some b → b.seq = .running → na.toNat < s.tilesOf b → nb.toNat < s.tilesOf b → fits sa → fits sb →
     s.waveOf b W.toNat = some (k, w) →
     s.regionMark s.curBlock 3 (na.toNat / 2) = none → s.regionMark s.curBlock 3 (nb.toNat / 2) = none →
     starts (.mma m (.v acc) (.w na) (.w nb) (.small W)) 16 20 tile ∧
     starts (.mmack m (.v acc) (.w na) (.w nb) (.small W)) 18 22 (tile ++ (List.range 32).flatMap check))

/-- R292 (17), stated: TRAP raises SOFT_TRAP for the executing lanes, with its code and the value of a in the lowest of
them; with no executing lane nothing happens. -/
def Obligations.TrapRaisesSoftTrap : Prop :=
  ∀ (s : State) (h : Hdr) (a : Operand) (imm : BitVec 16) (cx : Cx), Cx.of s (.trap h a imm) = some cx → cx.passes s →
    let pc := cx.w.pcOf cx.ex
    (cx.ex = 0 → ∃ t, exec (.trap h a imm) s = .next t ∧ cx.Completes s t [] fun l => cx.goOn l (cx.laneIssued s noEvents false l)) ∧
    (cx.ex ≠ 0 → cx.w.inHandler = false → (s.tenant cx.w.tenant).tvec ≠ 0 → ∃ t, exec (.trap h a imm) s = .next t ∧
      s.Enters t cx.wi cx.w cx.ex 0x04 pc (pc + 12) [BitVec.ofNat 64 imm.toNat, cx.a s cx.low])

/-- R283 and R293 (17): BRK raises BREAKPOINT 0x05 with the resume PC at itself and its code: where the tenant has a
handler and the wave is not in it, the trap enters it. A debugger's BRK stops the wave instead, with a record of cause
0x06. With no executing lane it goes on.

R285 (17): a trap of a wave that is not a control wave, with no handler or inside one, stops the wave: every live lane
is held, and a report is requested, of the trap itself with bit 10, or of the outer trap with bit 9 and the inner PC
and cause in details 6 and 7. -/
def Obligations.BreakpointsAndStops : Prop :=
  (∀ (s : State) (h : Hdr) (a : Operand) (imm : BitVec 16),
     let brk := Instr.brk h imm
     let open_ := fun (cx : Cx) => cx.ex ≠ 0 ∧ cx.w.inHandler = false ∧ (s.tenant cx.w.tenant).tvec ≠ 0 ∧
       cx.wi < s.waves.length
     let at_ := fun (cx : Cx) => cx.w.pcOf cx.ex
     (∀ cx, Cx.of s brk = some cx → cx.passes s →
       (cx.ex = 0 → ∃ t, exec brk s = .next t ∧ cx.Completes s t [] fun l => cx.goOn l (cx.laneIssued s noEvents false l)) ∧
       (open_ cx → s.debugged cx.w = false → ∃ t, exec brk s = .next t ∧
         s.Enters t cx.wi cx.w cx.ex 0x05 (at_ cx) (at_ cx) [BitVec.ofNat 64 imm.toNat]) ∧
       (cx.ex ≠ 0 → s.debugged cx.w = true → ∃ t w, exec brk s = .next t ∧ t.waves[cx.wi]? = some w ∧ w.stoppedBrk = true ∧
         w.inHandler = cx.w.inHandler ∧ w.frame = cx.w.frame ∧ w.wregs = cx.w.wregs ∧ w.wbs = cx.w.wbs ∧
         (∀ l, l < cx.w.lanes.length → w.lane l =
           if (cx.w.lane l).status = .exited then cx.w.lane l else { cx.w.lane l with held := true }) ∧
         (∀ k, k ≠ cx.wi → t.waves[k]? = s.waves[k]?) ∧
         ∃ r, t.chartLog = s.chartLog ++ [r] ∧ r.cause = 0x06 ∧ r.words.getD 4 0 = cx.ex.setWidth 64 ∧
           { t.rest with chartLog := [] } = { s.rest with chartLog := [] }))) ∧
  (∀ (s : State) (wi : Nat) (w : Wave) (t : Trap) (pc : Nat), s.waves[wi]? = some w → w.control = false →
     let after := s.takeTrapAt wi w t pc
     let stopped := ∃ x r, after.waves[wi]? = some x ∧ x.stoppedTrap = true ∧ x.frame = w.frame ∧ x.inHandler = w.inHandler ∧
       (∀ l, l < w.lanes.length → x.lane l = if (w.lane l).status = .exited then w.lane l else { w.lane l with held := true }) ∧
       (∀ k, k ≠ wi → after.waves[k]? = s.waves[k]?) ∧ after.rest.sansReqs = s.rest.sansReqs ∧
       s.Asked after [⟨0, wi, 0, w.core, s.cyc, none, none, 3, [], .report false r, none, 0⟩] ∧
       (w.inHandler = false → r.cause = t.cause % 256 ∧ (r.words.headD 0).getLsbD 10 = true ∧
         r.words.getD 4 0 = t.lanes.setWidth 64 ∧ r.words.drop 8 = (t.details ++ List.replicate 8 0).take 8) ∧
       (w.inHandler = true → w.trec.length = 16 → r.words.getD 14 0 = BitVec.ofNat 64 pc ∧
         r.words.getD 15 0 = BitVec.ofNat 64 t.cause ∧ r.words.headD 0 = (w.trec.headD 0) ||| (512 : Word) ∧
         (r.words.drop 1).take 13 = (w.trec.drop 1).take 13)
     (w.inHandler = true ∨ (s.tenant w.tenant).tvec = 0) → stopped)

/-- R283 (17), R28 (01), R76 (03), R282 (17), R413 (04): the first check that fails decides the trap, of exactly the
executing lanes that fail it, with the details of the lowest: FRAME_RANGE 0x20, then FORMAT_MISMATCH 0x01, then
PRIV_INSTRUCTION 0x02; the instruction has no other effect. -/
def Obligations.TheFirstFailingCheckTraps : Prop :=
  ∀ (s : State) (h : Hdr) (m : IntMod) (d a b : Operand) (cx : Cx),
    let open_ := fun (cx : Cx) => cx.w.inHandler = false ∧ (s.tenant cx.w.tenant).tvec ≠ 0
    let F := cx.w.frameSize
    let past := fun (o : Operand) => match o with | .v n => decide (F ≤ n.toNat) | _ => false
    let code := fun (o : Operand) (k n : Nat) => match o with
      | .v r => some [BitVec.ofNat 64 k, BitVec.ofNat 64 (max r.toNat F), BitVec.ofNat 64 n] | _ => none
    (Cx.of s (.iadd h m d a b) = some cx → cx.ex ≠ 0 → open_ cx →
      let first := if past d then code d 3 F else if past a then code a 0 F else if past b then code b 1 F else none
      (∀ details, first = some details → ∃ t, exec (.iadd h m d a b) s = .next t ∧
        s.Enters t cx.wi cx.w cx.ex 0x20 (cx.w.pcOf cx.ex) (cx.w.pcOf cx.ex) details) ∧
      (first = none → ∀ bad, bad ≠ 0 → (∀ l, bad.getLsbD l = (cx.ex.getLsbD l && (cx.formatDetail s l cx.v.positions).isSome)) →
        ∃ t, exec (.iadd h m d a b) s = .next t ∧ s.Enters t cx.wi cx.w bad 0x01 (cx.w.pcOf bad) (cx.w.pcOf bad)
          ((cx.formatDetail s ((lowest bad).getD 0) cx.v.positions).getD []))) ∧
    (Cx.of s (.mdrainSave h a b) = some cx → cx.ex ≠ 0 → open_ cx → cx.passes s → cx.w.level = false →
      ∃ t, exec (.mdrainSave h a b) s = .next t ∧
        s.Enters t cx.wi cx.w cx.ex 0x02 (cx.w.pcOf cx.ex) (cx.w.pcOf cx.ex) [0]) ∧
    (∀ n, Cx.of s (.srd h d n) = some cx → cx.ex ≠ 0 → open_ cx → cx.passes s → cx.w.level = false → 0x010 ≤ n.toNat → n.toNat ≤ 0x012 →
      ∃ t, exec (.srd h d n) s = .next t ∧
        s.Enters t cx.wi cx.w cx.ex 0x02 (cx.w.pcOf cx.ex) (cx.w.pcOf cx.ex) [1, BitVec.ofNat 64 n.toNat])

/-- R294 (17): TRET in a handler resumes the trapping lanes that remain at TEPC and lets the others go; at level S only
until it returns. EXIT and KILL retire lanes instead, KILL every live one; a handler of a freeze or thaw goes back. -/
def Obligations.TretResumes : Prop :=
  ∀ (s : State) (h : Hdr) (m : TretMod) (a : Operand) (cx : Cx), Cx.of s (.tret h m a) = some cx → cx.passes s →
    let live := fun l => (cx.w.lane l).status ≠ .exited
    let named := fun l => cx.w.tlanes.getLsbD l = true ∧ (a ≠ .none → (cx.a s cx.low).getLsbD l = true)
    let all := cx.w.cause = 0x07 ∨ cx.w.cause = 0x42 ∨ m = .kill
    let gone := fun l => live l ∧ (all ∨ (m = .exit ∧ named l))
    cx.w.level = true → cx.w.inHandler = true → cx.ex ≠ 0 → cx.w.freezing = false → cx.w.sweep = none → cx.w.lanes.length = 32 →
    ∃ t w, exec (.tret h m a) s = .next t ∧ t.waves[cx.wi]? = some w ∧ w.inHandler = false ∧ w.level = cx.w.control ∧
      (∀ l, l < 32 →
        (gone l → (w.lane l).status = .exited) ∧
        (live l → ¬ gone l → (w.lane l).status ≠ .exited ∧ (w.lane l).held = false ∧
          (w.lane l).pc = (if cx.w.tlanes.getLsbD l then cx.w.tepc.toNat else (cx.w.lane l).pc)) ∧
        (¬ live l → (w.lane l).status = .exited)) ∧
      w.frame = (cx.w.releases cx.ex cx.v).frame ∧ w.wregs = (cx.w.releases cx.ex cx.v).wregs ∧
      (∀ k, k ≠ cx.wi → t.waves[k]? = s.waves[k]?) ∧ (∀ k, k ≠ cx.w.block → t.blocks[k]? = s.blocks[k]?) ∧
      (∀ b, t.blocks[cx.w.block]? = some b → (∃ l, l < 32 ∧ gone l) → b.faultMark = true) ∧
      t.rest.sansBlocks.sansPool = s.rest.sansBlocks.sansPool

/-- R288 (17): what SRD reads, with tag U64; the registers above 0x007 at level S.

R288 to R290 (17): what SWR writes. Select 0 is FSTAT of each executing lane; the others are of the wave or its tenant,
at level S, with the value of the lowest lane; a register that cannot be written keeps its value. `u` is the state the
instruction leaves before the register is written. -/
def Obligations.SpecialRegisters : Prop :=
  (∀ (s : State) (h : Hdr) (d : Operand) (imm : BitVec 12) (cx : Cx), Cx.of s (.srd h d imm) = some cx → cx.passes s →
     let w := cx.w
     let n := imm.toNat
     let tn := s.tenant w.tenant
     let num := fun (k : Nat) => BitVec.ofNat 64 k
     let reads := fun (least : Nat) (f : Nat → Word) => ∃ t due, exec (.srd h d imm) s = .next t ∧ s.cyc + least ≤ due ∧
       cx.Results s t due true noEvents (cx.writes d 0 (fun l => (f l, .u64)) false)
     let ring := fun (r : Ring) => num (r.base + (if r.rfault then 32 else 0) + r.log2n)
     (n = 0x000 → reads 8 fun l => (w.lane l).fstat.setWidth 64) ∧
     (n = 0x001 → reads 0 fun _ => num s.cyc) ∧ (n = 0x002 → reads 0 fun _ => if w.level then 1 else 0) ∧
     (n = 0x006 → reads 0 fun _ => num w.tenant) ∧ (n = 0x007 → reads 0 fun _ => num w.asid) ∧
     (∀ L, s.launches[w.launch]? = some L →
       (n = 0x003 → reads 0 fun _ => num L.id) ∧ (n = 0x004 → reads 0 fun _ => num (L.bx + L.by_ * 2 ^ 32)) ∧
       (n = 0x005 → reads 0 fun _ => num (L.bz + (L.cart.waves - 1) * 2 ^ 32))) ∧
     (w.level = true →
       (n = 0x010 → reads 8 fun _ => tn.tvec) ∧ (n = 0x011 → reads 8 fun _ => w.tepc) ∧
       (n = 0x012 → reads 8 fun _ => w.tlanes.setWidth 64) ∧
       (0x018 ≤ n → n ≤ 0x01F → reads 8 fun _ => SMap.get 0 w.scratch (n - 0x018)) ∧
       (0x020 ≤ n → n ≤ 0x02F → reads 8 fun _ => if w.inHandler then w.trec.getD (n - 0x020) 0 else 0) ∧
       (n = 0x030 → reads 8 fun _ => ring tn.ctlq) ∧ (n = 0x031 → reads 8 fun _ => ring tn.flog) ∧
       (n = 0x032 → reads 8 fun _ => num (tn.wdlog + if tn.waitrep then 32 else 0)) ∧
       (n = 0x033 → reads 8 fun _ => num (tn.poolsaveBase + tn.poolsaveSize)) ∧ (n = 0x034 → reads 8 fun _ => num tn.recbase) ∧
       (n = 0x035 → reads 8 fun _ => s.raspol.setWidth 64) ∧ (n = 0x036 → reads 8 fun _ => w.wctlid) ∧
       (n = 0x037 → reads 8 fun _ => w.wctl) ∧
       (0x100 ≤ n → n ≤ 0x17F → w.freezing = false → reads 8 fun _ => 0) ∧
       (∀ b, s.blocks[w.block]? = some b → w.freezing = true →
         (n = 0x100 → reads 8 fun _ => num b.seqPc) ∧ (n = 0x101 → reads 8 fun _ => if b.seq = .ended then 3 else 1) ∧
         (∀ k, k < 8 → n = 0x102 + k → reads 8 fun _ => num (SMap.get 0 b.arr (2 * k) + SMap.get 0 b.arr (2 * k + 1) * 2 ^ 32)) ∧
         (∀ k, k < 8 → n = 0x10A + k → reads 8 fun _ => num (SMap.get 0 b.marr (2 * k) + SMap.get 0 b.marr (2 * k + 1) * 2 ^ 32)) ∧
         (∀ k (v : Word), k < 4 → n = 0x112 + k → (∀ i, i < 64 → v.getLsbD i = (b.slot (64 * k + i)).claimed) → reads 8 fun _ => v) ∧
         (∀ k (v : Word), k < 8 → n = 0x116 + k → (∀ i, i < 32 → v.toNat / 4 ^ i % 4 = (b.slot (32 * k + i)).fmt.code) →
           reads 8 fun _ => v) ∧
         (0x11E ≤ n → n ≤ 0x13F → reads 8 fun _ => 0) ∧
         (0x140 ≤ n → n ≤ 0x17F → reads 8 fun _ => SMap.get 0 b.seqSave (n - 0x140))))) ∧
  (∀ (s : State) (h : Hdr) (a : Operand) (imm : BitVec 12) (cx : Cx), Cx.of s (.swr h a imm) = some cx → cx.passes s → cx.ex ≠ 0 →
     let n := imm.toNat
     let v := cx.a s cx.low
     let page := fun (x : Word) => (((x.setWidth 57).signExtend 64 : Word) &&& (~~~0xFFF : Word)).toNat
     let writes := fun (f : State → State) => ∃ u, exec (.swr h a imm) s = .next (f u) ∧
       cx.Completes s u [] fun l => cx.goOn l (cx.laneIssued s noEvents false l)
     let tenant := fun (f : Tenant → Tenant) => writes fun u => u.modTenant cx.w.tenant f
     let wave := fun (f : Wave → Wave) => writes fun u => u.modWave cx.wi f
     let ring := fun (r : Ring) => (⟨page v, r.rfault && !v.getLsbD 5,
       (if v.toNat % 32 = 0 then 0 else max 5 (min 16 (v.toNat % 32))), cx.w.asid⟩ : Ring)
     (imm = 0 → ∃ t, exec (.swr h a imm) s = .next t ∧ cx.Completes s t [] fun l =>
       let x := cx.goOn l (cx.laneIssued s noEvents false l)
       if cx.ex.getLsbD l then { x with fstat := (cx.a s l).setWidth 5 } else x) ∧
     (1 ≤ n → n ≤ 7 → writes id) ∧
     (cx.w.level = true →
       (n = 0x010 → tenant fun t => { t with tvec := v &&& (~~~3 : Word) }) ∧ (n = 0x011 → wave fun w => { w with tepc := v }) ∧
       (n = 0x012 → writes id) ∧
       (0x018 ≤ n → n ≤ 0x01F → wave fun w => { w with scratch := SMap.set 0 w.scratch (n - 0x018) v }) ∧
       (0x020 ≤ n → n ≤ 0x02F → writes id) ∧
       (n = 0x030 → tenant fun t => { t with ctlq := ring t.ctlq }) ∧ (n = 0x031 → tenant fun t => { t with flog := ring t.flog }) ∧
       (n = 0x032 → tenant fun t => { t with waitrep := v.getLsbD 5, wdlog := max 16 (min 30 (v.toNat % 32)) }) ∧
       (n = 0x033 → writes fun u =>
         let y := u.modTenant cx.w.tenant fun t => { t with poolsaveBase := page v, poolsaveSize := v.toNat % 4096 }
         { y with blocks := y.blocks.map fun b => if y.blockTenant b = cx.w.tenant then { b with evictFailed := false } else b }) ∧
       (n = 0x034 → v ≠ 0 → writes id) ∧
       (n = 0x034 → v = 0 → SMap.wf Tenant.absent s.tenants = true → ∃ t, exec (.swr h a imm) s = .next t ∧
         (t.tenant cx.w.tenant).recbase = 0) ∧ (n = 0x035 → writes id) ∧ (n = 0x036 → wave fun w => { w with wctlid := v }) ∧
       (n = 0x037 → v.toNat % 16 = 0 → wave fun w => { w with wctl := 0 }) ∧
       (n = 0x037 → v.toNat % 16 ≠ 0 → (∀ L ∈ s.launches, L.tenant = cx.w.tenant → L.id ≠ cx.w.wctlid.toNat) →
         wave fun w => { w with wctl := (1 : Word) <<< 60 }) ∧
       (n = 0x037 → ∃ t, exec (.swr h a imm) s = .next t) ∧
       (0x100 ≤ n → n ≤ 0x13F → writes id) ∧ (0x140 ≤ n → n ≤ 0x17F → cx.w.freezing = false → writes id) ∧
       (0x140 ≤ n → n ≤ 0x17F → cx.w.freezing = true → writes fun u => u.modBlock cx.w.block fun b =>
         { b with seqSave := SMap.set 0 b.seqSave (n - 0x140) v })))

/-- R291, R297 and R300 (17): LAUNCH, LAUNCHG and TASK on an aligned descriptor whose pages, and at level S those of
the capability images, are confirmed make one request with a .dev release; one result is owed to every executing lane.

R299 (17): LJOIN of a launch that has ended, and LJOIN.TEST of one that runs, write its counts no sooner than 20 cycles
later, with p[x] telling the end; the end of a launch is acquired; LJOIN.WAIT of one that runs waits, which is blocked
where all of the cohort waits. -/
def Obligations.LaunchesAndJoins : Prop :=
  (∀ (s : State) (h : Hdr) (d a b x : Operand),
     let asks := fun (i : Instr) (cx : Cx) (k : ReqKind) => ∃ t, exec i s = .next t ∧
       s.Asked t [{ cx.asks s cx.ex k none 0 with rel := some .dev, stage := 0 }] ∧
       cx.CompletesIn s t { s with reqs := t.reqs }
         [⟨s.fresh + 1, s.cyc, none, cx.ex, h.setFlag, true, cx.writes d 0 (fun _ => (0, .u64)) false⟩]
         fun l => cx.goOn l (cx.laneIssued s noEvents true l)
     let confirmed := fun (cx : Cx) (va n : Nat) =>
       (∃ pas, s.walk cx.w.asid cx.w.level va (64 * n) .load = .ok pas) ∧
       (cx.w.level = true → ∀ q ∈ s.readDescs (s.caller cx.w true) va n, ∀ k, s.kernel cx.w.tenant q.cart = some k → k.ncap ≠ 0 →
         ∃ pas, s.walk cx.w.asid true q.args.toNat (16 * k.ncap) .load = .ok pas)
     let va := fun (cx : Cx) => (cx.a s cx.low).toNat
     (∀ cx, Cx.of s (.launch h d a) = some cx → cx.passes s → cx.ex ≠ 0 → va cx % 64 = 0 → s.checkingTable cx.w.tenant = false →
       confirmed cx (va cx) 1 →
       asks (.launch h d a) cx (.launch (va cx) none cx.w.level (s.fresh + 1))) ∧
     (∀ cx, Cx.of s (.launchg h d a b) = some cx → cx.passes s → cx.ex ≠ 0 → va cx % 64 = 0 → s.checkingTable cx.w.tenant = false →
       let n := (cx.b s cx.low).toNat
       (n ≠ 0 → confirmed cx (va cx) (min n 16)) →
       asks (.launchg h d a b) cx (.launch (va cx) (some n) cx.w.level (s.fresh + 1))) ∧
     (∀ cx, Cx.of s (.task h d a b x) = some cx → cx.ex ≠ 0 →
       let reads := (cx.x s cx.low).toNat % 8
       let all := reads + (cx.x s cx.low).toNat / 8 % 8
       let cap := fun i => ((cx.readAt s .untyped a (2 * i) cx.low).1, (cx.readAt s .untyped a (2 * i + 1) cx.low).1)
       cx.commonTrap s (fun _ => [1, 2 * all, 1, 1]) none = none → reads ≤ 4 → all - reads ≤ 2 →
       (∀ i, i < all → cx.cap a (2 * i) cx.low = true ∧ (cap i).2.getLsbD (60 + if i < reads then 0 else 1) = true) →
       s.taskLoad (cx.w.core / 64) < 512 → confirmed cx (cx.b s cx.low).toNat 1 →
       asks (.task h d a b x) cx (.task (cx.b s cx.low).toNat
         ((List.range all).map fun i => ((((cap i).1.setWidth 57).signExtend 64 : Word).toNat, (cap i).2.toNat % 2 ^ 40, decide (reads ≤ i)))
         ((List.range all).map cap) cx.w.level (s.fresh + 1)))) ∧
  (∀ (s : State) (h : Hdr) (m : JoinMod) (d a x : Operand) (cx : Cx) (li : Nat) (L : Launch),
     Cx.of s (.ljoin h m d a x) = some cx → cx.passes s → cx.ex ≠ 0 →
     s.joinTarget cx.w.tenant cx.wi cx.ex (cx.a s cx.low) = some li → s.launches[li]? = some L →
     let counts := fun (done : Bool) =>
       cx.writes d 0 (fun _ => (BitVec.ofNat 64 (L.completed + L.faulted * 2 ^ 32), .u64)) false ++
       cx.writes d 1 (fun _ => (BitVec.ofNat 64 (L.killed + L.relaunched * 2 ^ 32), .u64)) false ++ cx.predWrites x fun _ => done
     let answers := fun (done : Bool) (o : State → State) => ∃ t due, exec (.ljoin h m d a x) s = .next t ∧ s.cyc + 20 ≤ due ∧
       cx.CompletesIn s t (o t) (cx.result1 s due true (counts done)) fun l =>
         let y := cx.goOn l (cx.laneIssued s noEvents true l)
         if done = true ∧ cx.ex.getLsbD l = true then { y with acquired := s.cyc } else y
     (L.ended = true → answers true fun t => { s with launches := t.launches }) ∧
     (L.ended = true → m = .wait → ∀ t, exec (.ljoin h m d a x) s = .next t →
       ∃ K, t.launches[li]? = some K ∧ K.freeing = true ∧ (∀ k, k ≠ li → t.launches[k]? = s.launches[k]?) ∧
         (K.known = false ↔ L.known = false ∨ K.waiters = [])) ∧
     (L.ended = false → m = .test → answers false fun _ => s) ∧
     (L.ended = false → m = .wait → ∃ t w, exec (.ljoin h m d a x) s = .next t ∧ t.rest = s.rest ∧
       t.issuedQ = (if cx.all &&& ~~~cx.ex = 0 then s.issuedQ else s.issuedQ ++ [4 * cx.w.core + cx.w.quadrant]) ∧ (∀ k, k ≠ cx.wi → t.waves[k]? = s.waves[k]?) ∧ t.waves[cx.wi]? = some w ∧
       w.frame = cx.w.frame ∧ w.wregs = cx.w.wregs ∧ w.wbs = cx.w.wbs ∧
       ∀ l, l < cx.w.lanes.length → w.lane l = if cx.ex.getLsbD l then { cx.w.lane l with status := .blocked (.join li) }
         else cx.goOn l (cx.laneIssued s noEvents false l)))

/-- R366 (22): a SWEEP with a context capability that may be read and written, at a 64-byte base and entry, of at most
2^24 elements whose cells, skip bits and watch table fit its length, by a wave without a sweep and for a tensor that
has none, forks: its executing lanes wait inside it, the sweep begins at element 0 with nothing counted, behind a
request with a .dev release. R367 (22): EWAIT and EDONE in lanes that hold an element wait until each lane's results
have landed; then its cell write is requested, with bits 6 and 7 of the context as the instruction says. R368 (22):
EWAKE of an element inside the tensor requests the wake with a .dev release. -/
def Obligations.SweepsAndElements : Prop :=
  ∀ (s : State) (h : Hdr) (d a b x : Operand),
    let capable := fun (cx : Cx) l => cx.cap a 0 l = true ∧ (cx.cap0 s a l).getLsbD 61 = true ∧
      (cx.cap0 s a l).toNat % 64 = 0 ∧ (cx.cap1 s a l).getLsbD 60 = true ∧ (cx.cap1 s a l).getLsbD 61 = true
    (∀ cx (m : BitVec 10), d = .v m → Cx.of s (.sweep h d a b x) = some cx → cx.passes s → cx.ex ≠ 0 → cx.w.sweep = none → cx.w.lanes.length = 32 →
      let w0 := cx.cap0 s a cx.low
      let n := (cx.x s cx.low).toNat
      let size := if w0.getLsbD 62 then 16 else 8
      capable cx cx.low → n ≤ 2 ^ 24 → (cx.b s cx.low).toNat % 64 = 0 → s.registered cx.w.asid w0 = none →
      64 * ((n * size + 63) / 64) + 64 * ((n + 511) / 512) + 128 ≤ (cx.cap1 s a cx.low).toNat % 2 ^ 40 →
      let k : Sweep := ⟨0, n, w0, cx.cap1 s a cx.low, (cx.b s cx.low).toNat, cx.ex, 0, .sweep h d a b x, none, 0, 0, 0, cx.pc,
        s.fresh + 1 + (lanesOf cx.ex).length, false, cx.w.level, (lanesOf cx.ex).map fun l => (l, s.fresh + 1 + nth cx.ex l), 0⟩
      ∃ u, exec (.sweep h d a b x) s = .next (u.modWave cx.wi fun w => { w with sweep := some k }) ∧
        s.Asked u [{ cx.asks s cx.ex .fence none 0 with rel := some .dev, stage := 0 }] ∧
        cx.CompletesIn s u { s with reqs := u.reqs }
          (cx.owing s fun l => [⟨l, .v m.toNat, 0, .u64, false⟩, ⟨l, .v (m.toNat + 1), 0, .u64, false⟩]) (cx.waiting s fun _ => .sweep)) ∧
    (let ends := fun (i : Instr) (done : Bool) => ∀ cx k, Cx.of s i = some cx → cx.commonTrap s (cx.endLens) none = none →
        cx.w.sweep = some k → (∀ l, cx.ex.getLsbD l = true → cx.w.isSweepLane l = true ∧ (cx.w.lane l).elem.isSome = true) →
        let ctx := fun l => ((((cx.a s l).setWidth 32 : BitVec 32) &&& (~~~0xC0#32)) ||| (if done then 0x80#32 else 0)).toNat
        let data := fun l => if k.word0.getLsbD 62 then (cx.b s l).toNat + (cx.readAt s .untyped b 1 l).1.toNat % 2 ^ 32 * 2 ^ 64
          else (cx.b s l).toNat % 2 ^ 32
        let owed := fun (n : Fin 12) => (if flagOf k.insn = some n then 1 else 0) + (if h.setFlag = some n then 1 else 0)
        let t := cx.w.tensor k
        let landed := fun l => ∀ n : Fin 12, (cx.laneIssued s noEvents true l).count n.val ≤ owed n
        ((∀ l, cx.ex.getLsbD l = true → landed l) →
          (∀ l e, cx.ex.getLsbD l = true → (cx.w.lane l).elem = some e →
            (∃ p, s.walk cx.w.asid k.slevel (t.cellVa e) (cellSize k.word0) .store = .ok p) ∧
            (∃ p, s.walk cx.w.asid k.slevel (t.skipVa e) 1 .store = .ok p) ∧
            (ctx l / 256 % 16 = 3 → ∃ p, s.walk cx.w.asid k.slevel (t.watchVa (ctx l / 4096 % 16)) 8 .load = .ok p)) →
          ∃ u, exec i s = .next u ∧
            s.Asked u ((lanesOf cx.ex).map fun l =>
              { cx.asks s (bitMask l) (.cell ((cx.w.lane l).elem.getD 0) (ctx l) (data l)) none 0 with rel := some .dev, stage := 0 }) ∧
            cx.CompletesIn s u { s with reqs := u.reqs } (cx.owing s fun _ => [])
              (cx.waiting s fun l => .endElement (some (s.fresh + 1 + (lanesOf cx.ex).length + nth cx.ex l)) (ctx l) (data l))) ∧
        ((∀ l, cx.ex.getLsbD l = true → ¬ landed l) → ∃ u, exec i s = .next u ∧
            cx.Completes s u (cx.owing s fun _ => []) (cx.waiting s fun l => .endElement none (ctx l) (data l)))
     ends (.ewait h a b) false ∧ ends (.edone h a b) true) ∧
    (∀ cx, (Instr.ewake h d a b).wf = true → Cx.of s (.ewake h d a b) = some cx → cx.passes s →
      (∀ l, cx.ex.getLsbD l = true → capable cx l ∧ (cx.b s l).toNat < (cx.wakeTensor s l).n ∧
        ∀ acc, acc = Acc.load ∨ acc = Acc.store →
          s.refuses cx.w ((cx.wakeTensor s l).cellVa (cx.b s l).toNat) (cellSize (cx.cap0 s a l)) acc = none ∧
          s.refuses cx.w ((cx.wakeTensor s l).skipVa (cx.b s l).toNat) 1 acc = none) →
      ∃ u, exec (.ewake h d a b) s = .next u ∧
        s.Asked u ((lanesOf cx.ex).map fun l =>
          { cx.asks s (bitMask l) (.wake (cx.cap0 s a l) (cx.cap1 s a l) (cx.b s l).toNat (s.fresh + 1 + 2 * nth cx.ex l)) none 0 with
            rel := some .dev, stage := 0 }) ∧
        cx.CompletesIn s u { s with reqs := u.reqs }
          ((lanesOf cx.ex).map fun l => ⟨s.fresh + 1 + 2 * nth cx.ex l, s.cyc, none, bitMask l, h.setFlag, true,
            match d with
            | .v m => [⟨l, .v m.toNat, 0, .u64, false⟩]
            | .w m => if l = cx.low then [⟨l, .w m.toNat, 0, .u64, false⟩] else []
            | _ => []⟩)
          fun l => cx.goOn l (cx.laneIssued s noEvents true l))

/-- R386 (25): a mailbox instruction on mailboxes of its launch (MBSTAT: of its tenant; MBFLOOR: on a group below 64),
with its buffer confirmed, makes one request with a step for each lane, in lane order, and each lane owes its status;
MBPOST's releases to .dev, and its lanes wait for the outcome.

R382 to R385 and R387, R419 (25): what one step of a mailbox instruction does to its mailbox, and the status it
answers: phase, action version, step and code. -/
def Obligations.MailboxInstructions : Prop :=
  (∀ (s : State) (h : Hdr) (d a b x : Operand),
     let dest := fun (cx : Cx) l => match d with
       | .v m => [(⟨l, .v m.toNat, 0, .u64, false⟩ : RegWrite)]
       | .w m => if l = cx.low then [⟨l, .w m.toNat, 0, .u64, false⟩] else []
       | _ => []
     let mine := fun (cx : Cx) (mb : Word) => ∃ L, s.launches[cx.w.launch]? = some L ∧ L.mbox ≤ mb.toNat ∧ mb.toNat < L.mbox + L.cart.mboxn
     let wb := fun (cx : Cx) l => s.fresh + 1 + nth cx.ex l
     let asks := fun (i : Instr) (cx : Cx) (u : State) (rel : Option Scope) (step : Nat → MbStep) =>
       exec i s = .next u ∧
       s.Asked u [{ cx.asks s cx.ex (.mailbox i ((lanesOf cx.ex).map step)) none 0 with rel := rel, stage := if rel = none then 3 else 0 }] ∧
       u.blocks = s.blocks.modify cx.w.block fun z => { z with effects := true }
     let goes := fun (i : Instr) (cx : Cx) (step : Nat → MbStep) => i.wf = true → Cx.of s i = some cx → cx.passes s → cx.ex ≠ 0 →
       ∃ u, asks i cx u none step ∧ cx.CompletesIn s u { s with reqs := u.reqs, blocks := u.blocks } (cx.owing s (dest cx))
         fun l => cx.goOn l (cx.laneIssued s noEvents true l)
     (∀ cx, (∀ l, cx.ex.getLsbD l = true → mine cx (cx.b s l) ∧ (a ≠ .none →
         cx.cap a 0 l = true ∧ (cx.cap0 s a l).getLsbD 61 = true ∧ (cx.cap0 s a l).toNat % 64 = 0 ∧
         (cx.cap1 s a l).getLsbD 60 = true ∧ (cx.cap1 s a l).getLsbD 61 = true ∧
         ((cx.x s l).getLsbD 31 = true → (cx.x s l).toNat % 2 ^ 24 < (cx.wakeTensor s l).n))) →
       goes (.mbbind h d a b x) cx fun l =>
         ⟨l, (cx.b s l).toNat, 0, cx.x s l, if a = .none then none else some (cx.cap0 s a l, cx.cap1 s a l), [], wb cx l⟩) ∧
     (∀ cx (pas : Nat → List Nat), (Instr.mbpost h d a b x).wf = true → Cx.of s (.mbpost h d a b x) = some cx → cx.passes s → cx.ex ≠ 0 →
       (∀ l, cx.ex.getLsbD l = true → mine cx (cx.a s l) ∧ (cx.b s l).toNat % 64 = 0 ∧
         s.walk cx.w.asid cx.w.level (cx.b s l).toNat 256 .load = .ok (pas l) ∧
         ∀ k, k < 4 → s.memMark (paOf (cx.b s l).toNat (pas l) (64 * k)) 64 = none) →
       ∃ u, asks (.mbpost h d a b x) cx u (some .dev) (fun l => ⟨l, (cx.a s l).toNat, (cx.b s l).toNat, cx.x s l, none, pas l, wb cx l⟩) ∧
         cx.CompletesIn s u { s with reqs := u.reqs, blocks := u.blocks } (cx.owing s (dest cx))
           (cx.waiting s fun _ => .outcome (s.fresh + 1 + (lanesOf cx.ex).length))) ∧
     (∀ cx (pas : Nat → List Nat), (∀ l, cx.ex.getLsbD l = true → mine cx (cx.a s l) ∧ (cx.b s l).toNat % 64 = 0 ∧
         s.walk cx.w.asid cx.w.level (cx.b s l).toNat 4096 .store = .ok (pas l)) →
       goes (.mbtake h d a b) cx fun l => ⟨l, (cx.a s l).toNat, (cx.b s l).toNat, 0, none, pas l, wb cx l⟩) ∧
     (∀ cx, (∀ l, cx.ex.getLsbD l = true → ∃ id, (s.mb (cx.a s l).toNat).owner = some (cx.w.tenant, id)) →
       goes (.mbstat h d a) cx fun l => ⟨l, (cx.a s l).toNat, 0, 0, none, [], wb cx l⟩) ∧
     (∀ cx, (Instr.mbfloor h d a b).wf = true → Cx.of s (.mbfloor h d a b) = some cx → cx.passes s → cx.ex ≠ 0 → (cx.a s cx.low).toNat < 64 →
       ∃ u, exec (.mbfloor h d a b) s = .next u ∧
         s.Asked u [cx.asks s cx.ex (.mailbox (.mbfloor h d a b)
           [⟨cx.low, (cx.a s cx.low).toNat, 0, cx.b s cx.low, none, [], s.fresh + 1⟩]) none 0] ∧
         u.blocks = s.blocks.modify cx.w.block (fun z => { z with effects := true }) ∧
         cx.CompletesIn s u { s with reqs := u.reqs, blocks := u.blocks }
           [⟨s.fresh + 1, s.cyc, none, cx.ex, h.setFlag, true, cx.writes d 0 (fun _ => (0, .u64)) false⟩]
           fun l => cx.goOn l (cx.laneIssued s noEvents true l)) ∧
     (∀ cx, (∀ l, cx.ex.getLsbD l = true → mine cx (cx.a s l)) →
       goes (.mbfree h d a) cx fun l => ⟨l, (cx.a s l).toNat, 0, 0, none, [], wb cx l⟩)) ∧
  (∀ (s : State) (wi : Nat) (w : Wave) (h : Hdr) (d a b x : Operand) (p : MbStep),
     let m := s.mb p.mb
     let status := fun (code : Nat) (stale : Bool) (q : Mailbox) =>
       BitVec.ofNat 64 (code + (if stale then 16 else 0) + 32 * q.phase + 256 * q.aver + 2 ^ 32 * q.step)
     let below := fun (F v : Nat) => decide (1 ≤ (F + 65536 - v % 65536) % 65536 ∧ (F + 65536 - v % 65536) % 65536 ≤ 32767)
     let floor := match m.owner with | some (t, _) => SMap.get 0 (s.tenant t).floors m.group | none => 0
     let old := decide (m.phase = 3) && below floor m.aver
     let code := match m.phase with | 3 => 0 | 4 => 3 | 5 => 4 | _ => 2
     let bind := s.mbStep wi w (.mbbind h d a b x) p
     let post := s.mbStep wi w (.mbpost h d a b x) p
     let take := s.mbStep wi w (.mbtake h d a b) p
     let v := p.x.toNat
     (m.phase < 4 → bind = some (s, status 1 false m)) ∧
     (4 ≤ m.phase →
       let q := { m with target := (if v.testBit 31 then p.cap.map fun c => (c.1, c.2, v % 2 ^ 24) else none), binder := wi, slevel := w.level
                         group := v / 2 ^ 24 % 64, termStale := v.testBit 30, step := 0, phase := 0, seqErr := false, counter := 0 }
       bind = some (s.setMb p.mb q, status 0 false q)) ∧
     (m.phase ≠ 0 → post = some (s, status 1 false m)) ∧
     (m.phase = 0 → v % 2 ^ 32 ≠ m.step → post = none) ∧
     (m.phase = 0 → v % 2 ^ 32 = m.step → s.attached p.mb = none → ∃ q, post = some (s.setMb p.mb q, status 0 false q) ∧
       { q with action := m.action } = { m with aver := v / 2 ^ 32 % 65536, phase := 1 } ∧
       ∀ k, k < 256 → SMap.get 0 q.action k = s.coreByte w.core (paOf p.va p.pas k)) ∧
     (m.phase ≠ 3 → take = some (s, status code false m)) ∧
     (m.phase = 3 → (old && m.termStale) = false → ∃ t, take = some (t, status 0 old { m with step := (m.step + 1) % 2 ^ 32, phase := 0 }) ∧
       (SMap.wf Mailbox.unbound s.mailboxes = true → t.mb p.mb = { m with step := (m.step + 1) % 2 ^ 32, phase := 0 } ∧
         ∀ k, k ≠ p.mb → t.mb k = s.mb k)) ∧
     (s.mbStep wi w (.mbstat h d a) p = some (s, status code old m)) ∧
     (∃ t, s.mbStep wi w (.mbfloor h d a b) p = some (t, BitVec.ofNat 64 (SMap.get 0 (s.tenant w.tenant).floors p.mb)) ∧
       t = if below (v % 65536) (SMap.get 0 (s.tenant w.tenant).floors p.mb)
         then s.modTenant w.tenant fun z => { z with floors := SMap.set 0 z.floors p.mb (v % 65536) } else s) ∧
     (s.attached p.mb = none → ∃ r, s.mbStep wi w (.mbfree h d a) p =
       some (s.setMb p.mb { m with phase := 6, target := none, action := [], obs := [] }, r)))

/-- R204 (10), R19 (01), R98 (04): WRITE_BACK of a result that may land writes those of its registers and predicates
that no earlier result holds, in lanes that have not exited, and lowers the counts of the lanes that have all of
theirs; what an earlier result to the same register holds of it stays under way, and a result of which nothing is held
is removed. No other register, predicate or lane changes.

R172 and R174 (08): FILL_LAND makes the lanes of its fill valid and ends it, so that the next fill of its entry is
under way; a corrected error is logged as 0x23, and one beyond repair of one copy of a mirrored wave as 0x24, with the
granule and the register; one beyond repair without a good copy is logged as 0x25, and the register's value in the
lanes of the fill is lost to whoever reads it. -/
def Obligations.ResultsAndFillsLand : Prop :=
  (∀ (s : State) (wi id : Nat) (w : Wave) (b : WriteBack), s.waves[wi]? = some w →
     w.wbs.find? (fun x => decide (x.id = id)) = some b → w.canLand s.cyc b = true →
     SMap.wf RegCell.zero w.frame = true → SMap.wf RegCell.zero w.wregs = true → (∀ r ∈ b.writes, r.lane < 32) →
     let held := fun (r : RegWrite) => w.wbs.any fun y => decide (y.id < b.id) && y.writes.any fun q =>
       decide (q.target = r.target) && (match r.target with | .w _ => true | _ => decide (q.lane = r.lane))
     let free := b.writes.filter fun r => !held r
     let rest := b.writes.filter held
     let kept : LaneMask := if (rest.any fun r => match r.target with | .w _ => true | _ => false) = true then b.lanes
       else b.lanes &&& maskOf fun l => rest.any fun r => decide (r.lane = l)
     let alone := fun (r : RegWrite) => ∀ q ∈ free, q.target = r.target → q.lane = r.lane → q = r
     ∃ t x, exec (.writeBack wi id) s = .next t ∧ t.waves[wi]? = some x ∧
       x.wbs = (if rest = [] then w.wbs.filter (fun y => decide (y.id ≠ id))
         else w.wbs.map fun y => if y.id = id then { b with writes := rest, lanes := kept } else y) ∧
       (∀ k, k ≠ wi → t.waves[k]? = s.waves[k]?) ∧
       { t.rest with landed := [], injections := [] } = { s.rest with landed := [], injections := [] } ∧
       (∀ l, l < w.lanes.length →
         (x.lane l).counts = (if (b.lanes &&& ~~~kept).getLsbD l then (w.lane l).dropCount b.flag else w.lane l).counts ∧
         { x.lane l with counts := [], preds := 0 } = { w.lane l with counts := [], preds := 0 } ∧
         (∀ n, n < 7 → (∀ r ∈ free, r.lane = l → r.target ≠ .p n) → (x.lane l).pred n = (w.lane l).pred n)) ∧
       (∀ n l, l < 32 → ((w.lane l).status = .exited ∨ w.frameSize ≤ n ∨ ∀ r ∈ free, r.lane = l → r.target ≠ .v n) →
         (x.vcell n l).val = (w.vcell n l).val ∧ (x.vcell n l).tag = (w.vcell n l).tag ∧ (x.vcell n l).live = (w.vcell n l).live) ∧
       (∀ n, (∀ r ∈ free, r.target ≠ .w n) →
         (x.wcell n).val = (w.wcell n).val ∧ (x.wcell n).tag = (w.wcell n).tag ∧ (x.wcell n).live = (w.wcell n).live) ∧
       ∀ r ∈ free, match r.target with
         | .v n => alone r → n < w.frameSize → (w.lane r.lane).status ≠ .exited →
             (x.vcell n r.lane).val = r.val ∧ (x.vcell n r.lane).tag = r.tag ∧ (x.vcell n r.lane).live = true
         | .w n => (∀ q ∈ free, q.target = .w n → q = r) → n < 256 →
             (x.wcell n).val = r.val ∧ (x.wcell n).tag = r.tag ∧ (x.wcell n).live = true
         | .p n => alone r → n < 7 → r.lane < w.lanes.length → (x.lane r.lane).pred n = r.val.getLsbD 0) ∧
  (∀ (s : State) (wi reg : Nat) (w : Wave) (e : CacheEntry), s.waves[wi]? = some w →
     w.ocache.find? (fun e => decide (e.reg = reg) && (match e.fill with | some t => decide (t ≤ s.cyc) | none => false)) = some e →
     SMap.wf RegCell.zero w.frame = true →
     let closed := { w with
       ocache := (w.ocache.map fun x => if x.reg = reg then
           { x with valid := x.valid ||| e.filling, fill := x.later.head?.map (·.1), filling := (x.later.head?.map (·.2)).getD 0, later := x.later.tail }
         else x).filter fun x => decide (x.valid ≠ 0) || x.fill.isSome }
     let logged := fun (ecc : FillEcc) (cause : Nat) (x : Wave) => ∃ r,
       exec (.fillLand wi reg ecc) s = .next (({ s with waves := s.waves.set wi x } : State).notice w.tenant true r) ∧
       r.cause = cause ∧ r.words.getD 8 0 = 1 ∧ r.words.getD 10 0 = BitVec.ofNat 64 (32 * reg + (lowest e.filling).getD 0)
     let lost := fun (ecc : FillEcc) => ∃ x, logged ecc 0x25 x ∧ { x with frame := [] } = { closed with frame := [] } ∧
       ∀ n l, l < 32 → x.vcell n l = if n = reg ∧ e.filling.getLsbD l = true then { w.vcell n l with bad := true } else w.vcell n l
     exec (.fillLand wi reg .clean) s = .next { s with waves := s.waves.set wi closed } ∧ logged .corrected 0x23 closed ∧
     (w.mirrored = true → logged .bad 0x24 closed ∧ lost .badBoth) ∧
     (w.mirrored = false → lost .bad ∧ lost .badBoth))

/-- R132 (06), R215 and R219 (12): a request that may leave does. A store joins its core's view and waits for L2: the
core reads it, no other core does. A scratchpad store writes its block's scratchpad; a message enters its pipe; a
fence's lanes go on; an atomic sets out. -/
def Obligations.RequestsLeaveTheirCore : Prop :=
  ∀ (s : State) (r : Request), s.reqs.find? (fun q => decide (q.id = r.id)) = some r → s.mayLeave r = true →
    let run := exec (.requestLeavesCore r.id) s
    let left := s.reqs.filter fun q => decide (q.id ≠ r.id)
    ((∀ e c d, r.kind ≠ .cell e c d) → (∀ e, r.kind ≠ .decrement e) → ∃ t, run = .next t) ∧
    (∀ pa bytes dur, r.kind = .store pa bytes dur → ∃ t due, run = .next t ∧ t.reqs = left ∧ s.cyc + 20 ≤ due ∧
      t.coreWrites = s.coreWrites ++ [⟨r.id, r.core, pa, bytes, due, some dur⟩] ∧
      (∀ a, t.coreByte r.core a = if pa ≤ a ∧ a < pa + bytes.length then bytes.getD (a - pa) 0 else s.coreByte r.core a) ∧
      (∀ c a, c ≠ r.core → t.coreByte c a = s.coreByte c a) ∧
      { t with reqs := [], coreWrites := [], lines := [], fresh := 0 } = { s with reqs := [], coreWrites := [], lines := [], fresh := 0 }) ∧
    (∀ bi off bytes blk, r.kind = .scratchStore bi off bytes → s.blocks[bi]? = some blk → SMap.wf (0 : Byte) blk.scratch = true →
      ∃ t c, run = .next t ∧ t.reqs = left ∧ t.blocks[bi]? = some c ∧
        (∀ k, SMap.get 0 c.scratch k = if off ≤ k ∧ k < off + bytes.length then bytes.getD (k - off) 0 else SMap.get 0 blk.scratch k) ∧
        { c with scratch := [] } = { blk with scratch := [] } ∧ (∀ k, k ≠ bi → t.blocks[k]? = s.blocks[k]?) ∧
        { t with reqs := [], blocks := [] } = { s with reqs := [], blocks := [] }) ∧
    (∀ k msg wb, r.kind = .message k msg wb → ∃ t, run = .next t ∧ t.reqs = left ∧
      t.pipes = s.pipes.modify k fun p => { p with msgs := p.msgs ++ [msg] }) ∧
    (r.kind = .fence → ∃ t, run = .next t ∧ t.reqs = left ∧ ∀ w, s.waves[r.wave]? = some w → ∃ x, t.waves[r.wave]? = some x ∧
      ∀ l, l < w.lanes.length → l < 32 → (w.lane l).status = .inside (.proceed r.id) →
        (x.lane l).status = .ready ∧ (x.lane l).pc = ((w.lane l).pc + 12) % 2 ^ 64) ∧
    (∀ op pa n x y sc wb dur, r.kind = .atomic op pa n x y sc wb dur → ∃ t due, run = .next t ∧ t.reqs = left ∧ s.cyc ≤ due ∧
      t.atomics = s.atomics ++ [⟨r.id, r.wave, (lowest r.lanes).getD 0, r.core, op, pa, n, x, y, sc, wb, due, none, dur, none, r.flag, r.wait⟩])

/-- R219, R225 and R226 (12): L2_ACCEPT writes a core's write into its die's view, and no other byte, counts it in the
die's clock, and forwards it to the other die with that clock; DIE_LINK_APPLY writes it there, but for bytes of that
die's own later writes where the die is not their home, and counts it. R231, R236 and R237 (13): DURABLE_ACCEPT writes
a durable write to what its controller holds for the media; the record of a PSYNC takes 16 bytes of the controller's
buffer (log entry 90) and lets its lanes go on; WBMAX_RELEASE writes bytes of that buffer to the media and no others,
the whole of an oldest entry of its size (log entry 90).

R140 and R223 (06, 12): an atomic of cluster scope or wider that may execute at its own core's die replaces its bytes
by what the operation makes of the old value, which becomes the value of its result; a compare and swap that fails
writes nothing. -/
def Obligations.WritesTravelAndAtomicsExecute : Prop :=
  (∀ (s : State), s.memOk →
     (∀ w, s.coreWrites.find? (fun x => decide (x.id = w.id)) = some w → s.mayAccept w = true → (∀ p ∈ s.pages, p.disc = none) →
       let die := dieOfCore w.core
       ∃ t due, exec (.l2Accept w.id) s = .next t ∧ t.coreWrites = s.coreWrites.filter (fun x => decide (x.id ≠ w.id)) ∧
         (∀ a, Memory.get (t.view die) a =
           if w.pa ≤ a ∧ a < w.pa + w.bytes.length then w.bytes.getD (a - w.pa) 0 else Memory.get (s.view die) a) ∧
         t.view (1 - die) = s.view (1 - die) ∧ t.clock die die = s.clock die die + 1 ∧ s.cyc + 60 ≤ due ∧
         t.linkWrites = s.linkWrites ++ [⟨w.id, 1 - die, w.pa, w.bytes, s.clock die 0, s.clock die 1, due, w.dur, none⟩] ∧
         t.waves = s.waves ∧ t.reqs = s.reqs ∧ t.media = s.media ∧ t.blocks = s.blocks) ∧
     (∀ w, s.linkWrites.find? (fun x => decide (x.id = w.id)) = some w → s.linkReady w = true → w.toDie < 2 →
       let die := w.toDie
       let clock := if die = 0 then w.clock0 else w.clock1
       ∃ t, exec (.dieLinkApply w.id) s = .next t ∧ t.linkWrites = s.linkWrites.filter (fun x => decide (x.id ≠ w.id)) ∧
         (∀ a, Memory.get (t.view die) a =
           if w.pa ≤ a ∧ a < w.pa + w.bytes.length ∧ ¬ (homeDie a ≠ die ∧ clock < s.own die a) then w.bytes.getD (a - w.pa) 0
           else Memory.get (s.view die) a) ∧
         t.view (1 - die) = s.view (1 - die) ∧ t.clock die (1 - die) = s.clock die (1 - die) + 1 ∧ t.media = s.media) ∧
     (∀ w, s.durQueue.find? (fun x => decide (x.id = w.id)) = some w → s.mayPersist w = true →
       ∃ t, exec (.durableAccept w.id) s = .next t ∧ t.durQueue = s.durQueue.erase w ∧
         (w.psync = none → t.accepted = s.accepted ++ [⟨w.stack, w.pa, w.bytes, w.bytes.length⟩] ∧
           (∀ a, Memory.get t.media a = if w.pa ≤ a ∧ a < w.pa + w.bytes.length then w.bytes.getD (a - w.pa) 0 else Memory.get s.media a) ∧
           { t with media := [], accepted := [], durQueue := [] } = { s with media := [], accepted := [], durQueue := [] }) ∧
         ∀ wi seq, w.psync = some (wi, seq) → t.media = s.media ∧ t.bufferedAt w.stack = s.bufferedAt w.stack + 16 ∧
           ∀ x, s.waves[wi]? = some x → ∃ y, t.waves[wi]? = some y ∧ ∀ l, l < x.lanes.length → l < 32 →
             (x.lane l).status = .inside (.proceed w.id) → (y.lane l).status = .ready ∧ (y.lane l).pc = ((x.lane l).pc + 12) % 2 ^ 64) ∧
     (∀ stack n, 0 < n → n ≤ s.bufferedAt stack →
       (∃ t, exec (.wbmaxRelease stack n) s = .next t ∧ t.bufferedAt stack + n = s.bufferedAt stack ∧
         (∀ k, k ≠ stack → t.bufferedAt k = s.bufferedAt k) ∧
         (∀ a, (∀ e ∈ s.accepted, e.stack = stack → ¬ (e.pa ≤ a ∧ a < e.pa + e.bytes.length)) → Memory.get t.mediaOld a = Memory.get s.mediaOld a) ∧
         { t with accepted := [], mediaOld := [] } = { s with accepted := [], mediaOld := [] }) ∧
       ∀ e rest, s.accepted = e :: rest → e.stack = stack → e.size = n →
         exec (.wbmaxRelease stack n) s = .next { s with accepted := rest, mediaOld := Memory.write s.mediaOld e.pa e.bytes })) ∧
  (∀ (s : State) (a : AtomicFlight), s.memOk → s.atomics.find? (fun x => decide (x.id = a.id)) = some a → s.mayExecute a = true →
     a.scope.isClu = true → a.die = dieOfCore a.core → a.callb = none → (∀ p ∈ s.pages, p.disc = none) → a.n = 4 ∨ a.n = 8 →
     let bits := 8 * a.n
     let old := leNat (Memory.read (s.view a.die) a.pa a.n)
     let x := a.x.toNat % 2 ^ bits
     let y := a.y.toNat % 2 ^ bits
     let signed := fun (v : Nat) => if v < 2 ^ (bits - 1) then (v : Int) else (v : Int) - 2 ^ bits
     ∀ new, (a.op = .add → new = (old + x) % 2 ^ bits) → (a.op = .smin → new = if signed x < signed old then x else old) →
       (a.op = .smax → new = if signed old < signed x then x else old) → (a.op = .umin → new = min old x) →
       (a.op = .umax → new = max old x) → (a.op = .and → new = old &&& x) → (a.op = .or → new = old ||| x) →
       (a.op = .xor → new = old ^^^ x) → (a.op = .exch → new = x) → (a.op = .cas → new = if old = x then y else old) →
       (a.op = .fadd → new = (fAdd (if a.n = 8 then .f64 else .f32) .rne old x).1) →
       ∃ t, exec (.atomicExecute a.id) s = .next t ∧ t.atomics = s.atomics.filter (fun e => decide (e.id ≠ a.id)) ∧
         (∀ k, Memory.get (t.view a.die) k =
           if a.pa ≤ k ∧ k < a.pa + a.n then (natLe a.n new).getD (k - a.pa) 0 else Memory.get (s.view a.die) k) ∧
         t.view (1 - a.die) = s.view (1 - a.die) ∧
         ∀ w b, s.waves[a.wave]? = some w → b ∈ w.wbs → b.id = a.wb → ∃ v c, t.waves[a.wave]? = some v ∧ c ∈ v.wbs ∧ c.id = a.wb ∧
           ((∃ r ∈ b.writes, r.lane = a.lane) → c.due.isSome) ∧
           c.writes = b.writes.map fun r => if r.lane = a.lane then { r with val := BitVec.ofNat 64 old } else r)

/-- R351 (21), R203 (10): TRANSLATION_WALK answers the lanes whose access waits with a lane's: each whose page allows
it performs and goes on, unless it waits for its atomic's outcome; each other parks there with its cause. R356 (21):
FAULT_REPORT of a lane parked for 128 cycles puts one record of its group into the tenant's ring, once. -/
def Obligations.WalksAndFaultReports : Prop :=
  ∀ (s : State) (wi lane : Nat) (w : Wave), s.waves[wi]? = some w →
    (∀ i v op, (w.lane lane).insn = some i → i.view = some v → laneOp i = some op → (w.walkGroup lane).getLsbD lane = true →
      w.lanes.length = 32 →
      ∃ t x, exec (.translationWalk wi lane) s = .next t ∧ t.waves[wi]? = some x ∧
        (∀ k, k ≠ wi → t.waves[k]? = s.waves[k]?) ∧ t.view0 = s.view0 ∧ t.view1 = s.view1 ∧
        ∀ l, l < 32 → (w.walkGroup lane).getLsbD l = true →
          match s.walk1 w.asid w.level (w.lane l).walk.1 op.acc with
          | .error r => (∃ p, (x.lane l).status = .parked p ∧ p.cause = r.cause ∧ p.va = (w.lane l).walk.1 ∧ p.group.getLsbD l = true) ∧
              (x.lane l).pc = (w.lane l).pc
          | .ok _ => ((x.lane l).status = .ready ∧ (x.lane l).pc = ((w.lane l).pc + 12) % 2 ^ 64) ∨
              (∃ a n sc o g id, op = .atomic a n sc o g ∧ (o = .acq ∨ o = .acqrel) ∧ (x.lane l).status = .inside (.outcome id))) ∧
    (∀ p, (w.lane lane).status = .parked p → p.reported = false → p.issued + 128 ≤ s.cyc → w.control = false →
      let m := w.lanesWhere fun x => match x.status with
        | .parked q => decide (q.group = p.group ∧ q.issued = p.issued ∧ q.cause = p.cause ∧ q.reported = false) | _ => false
      ∃ r, exec (.faultReport wi lane) s = .next ((s.ringRecord w.tenant false r).modWave wi fun w => w.modLanes m fun x =>
          match x.status with | .parked q => { x with status := .parked { q with reported := true } } | _ => x) ∧
        r.cause = p.cause % 256 ∧ r.words.getD 4 0 = m.setWidth 64 ∧ r.words.getD 8 0 = BitVec.ofNat 64 p.addr)

/-- R328, R330 and R331 (20): a removed member leaves the group, its epoch rises, and instances in flight go on over
the survivors, marked, but for one whose destination is written; a readmitted device joins in rank order and the epoch
rises, and instances in flight keep their members. COLLECTIVE_INSTANCE ends an instance whose time has come, once: one
that its window turns away, or one whose result every die has applied. -/
def Obligations.GroupsOfDevices : Prop :=
  ∀ (s : State) (g dev k : Nat),
    let removed := fun (i : Instr) => ∀ x, s.groups.find? (fun y => decide (y.g = g)) = some x → dev ∈ x.members →
      ∃ t, exec i s = .next t ∧
        t.groups = (s.groups.map fun y => if y.g = g then
          { y with members := y.members.filter (fun m => decide (m ≠ dev)), epoch := y.epoch + 1 } else y) ∧
        t.collectives = s.collectives.map fun c => if c.g = g ∧ dev ∈ c.members ∧ c.copy.ids = none then
          { c with members := c.members.filter (fun m => decide (m ≠ dev)), epoch := x.epoch + 1, shrunk := true }
          else c
    removed (.memberAnnounceRemoval g dev) ∧ removed (.memberSilenceTimeout g dev) ∧
    (dev < 72 → (∃ x ∈ s.groups, x.g = g ∧ dev ∉ x.members) → ∃ t, exec (.readmitDevice g dev) s = .next t ∧
      { t with groups := [] } = { s with groups := [] } ∧ t.groups.length = s.groups.length ∧
      ∀ (i : Nat) (y : Group), s.groups[i]? = some y → ∃ z : Group, t.groups[i]? = some z ∧ z.g = y.g ∧
        (y.g ≠ g → z = y) ∧ (y.g = g → z.epoch = y.epoch + 1 ∧ ∀ m, m ∈ z.members ↔ m = dev ∨ m ∈ y.members)) ∧
    (∀ c x, s.collectives.find? (fun y => decide (y.g = g ∧ y.k = k)) = some c → s.windows[c.window]? = some x → c.copy.start ≤ s.cyc →
      x.bad c.copy ≠ none ∨ (∃ ids, c.copy.ids = some ids ∧ ∀ w ∈ s.linkWrites, w.id ∉ ids) →
      ∃ t, exec (.collectiveInstance g k) s = .next t ∧ t.collectives = s.collectives.erase c ∧ t.windows = s.windows)

/-- R280 and R281 (16), R325 (20): FAULT_RETRY and FLIT_CRC_RESEND that succeed report RETRY_CORRECTED 0x54 for the
unit, which is in use again and marked no more; one that fails again is reported as 0x55 and stays in use, or where
RASPOL says so as 0x56 and is fenced: a pool granule of its core is no longer given out, the ways of L2 that hold a
line leave their sets, a frame of memory is retired. With no port left the other devices leave every group (log entry
94). A corrected error of a pool unit is reported as 0x23.

R275 and R276 (16), R172 (08): an uncorrectable error of scratchpad, tiles or commit buffer of a block that is not
contained marks the unit for its readers; one of a frame granule is repaired from its mirror and reported as 0x24, or
loses the registers of the granule where no cache entry holds them, reported as 0x25. -/
def Obligations.FailuresAndPoolErrors : Prop :=
  ∀ (s : State) (kind loc : Nat), s.power = .on →
    let said := fun (u t : State) (cause : Nat) => ∃ r : Record, r.cause = cause ∧ r.words.drop 8 =
        [BitVec.ofNat 64 kind, BitVec.ofNat 64 loc, 0, 0, 0, 0, 0, 0] ∧
      ((∃ owner, s.ownerOf kind loc = some owner ∧ t = u.ringRecord owner true r) ∨
        s.ownerOf kind loc = none ∧ t = { u with chartLog := u.chartLog ++ [r] })
    (kind ≤ 9 → (kind = 9 → loc / 256 < 18 ∧ loc % 256 < 8) →
      let run := fun (ok : Bool) => if kind < 8 then exec (.faultRetry kind loc (if ok then .transient else .lasting)) s
        else exec (.flitCrcResend kind loc ok) s
      let bit := if kind < 5 then 0 else if kind = 5 then 1 else if kind < 8 then 2 else 3
      let core := loc / 2 ^ 16 % 8 * 64 + loc / 2 ^ 10 % 64
      let marked := if 5 ≤ kind ∧ kind ≤ 7 then { s with marked := s.marked ++ [(kind, loc)] } else s
      let here := fun (l : Line) => !l.l1 && decide (l.pa = loc / 64)
      let portless := fun (p : Nat) => s.portOut p = true ∨ kind = 9 ∧ s.raspol.getLsbD 3 = true ∧ p = loc / 256
      let routed := kind < 8 ∨ ∃ p, p < 18 ∧ ¬ portless p
      ((kind = 2 ∨ kind = 3 → (kind, loc) ∉ s.marked) → ∃ t, run true = .next t ∧
        said (if kind < 8 then { s with fresh := s.fresh + 1, marked := s.marked.filter fun m => decide (m ≠ (kind, loc)) } else s) t 0x54) ∧
      (s.raspol.getLsbD bit = false → routed → ∃ t, run false = .next t ∧ said marked t 0x55) ∧
      (s.raspol.getLsbD bit = true → routed → ∃ t, run false = .next t ∧
        let u := { marked with fenced := s.fenced ++ [(kind, loc)] }
        said (if kind < 5 then { u with fencedGranules := SMap.set 0 u.fencedGranules core (SMap.get 0 u.fencedGranules core + 1) }
          else if kind = 5 then { u with l2Off := u.l2Off ++ (u.lines.filter here).map (fun l => (l.unit, l2Set l.va, l.way))
                                         lines := u.lines.filter fun l => !here l }
          else if kind = 6 ∨ kind = 7 then { u with retiredFrames := u.retiredFrames ++ [loc / 4096] } else u) t 0x56) ∧
      (8 ≤ kind → (∀ p, p < 18 → portless p) → ∃ t, run false = .next t ∧ ∀ y ∈ t.groups, ∀ m ∈ y.members, m = Config.deviceNumber)) ∧
    (kind < 5 → ∃ t, exec (.faultRetry kind loc .corrected) s = .next t ∧ said s t 0x23) ∧
    (∀ found bi g, 2 ≤ kind → kind ≤ 4 → found = .bad ∨ found = .badBoth → s.regionOwner kind loc = some (bi, g) →
      (∀ b L, s.blocks[bi]? = some b → s.launches[b.launch]? = some L → L.cart.contained = false) →
      exec (.faultRetry kind loc found) s = .next { s with marked := s.marked ++ [(kind, loc)] }) ∧
    (∀ found wi g w, kind = 1 → s.granuleAt loc = some (wi, g) → s.waves[wi]? = some w → SMap.wf RegCell.zero w.frame = true →
      (w.mirrored = true → ∃ t, exec (.faultRetry kind loc .bad) s = .next t ∧ said s t 0x24) ∧
      (found = .badBoth ∨ (found = .bad ∧ w.mirrored = false) → g < 64 → ∃ u t x, exec (.faultRetry kind loc found) s = .next t ∧ said u t 0x25 ∧
        u = { s with waves := s.waves.set wi x } ∧ { x with frame := [] } = { w with frame := [] } ∧
        ∀ n l, l < 32 → x.vcell n l = if n / 16 = g ∧ ¬ (∃ e, w.ocache.find? (fun e => decide (e.reg = n)) = some e ∧ e.valid.getLsbD l = true)
          then { w.vcell n l with bad := true } else w.vcell n l))

/-- R273 and R274 (16): STRIKE_REPLAY of a zone reports 0x50 to the tenants with waves there, and takes each of its
waves that has issued in the last 128 cycles back to where its first such entry has it: PC, predicates, registers that
no result of an older instruction has written since; its requests since then are discarded. R106 (04): the oldest entry
leaves the journal 128 cycles after it, and what SHRINK released returns.

R262 (15): a register injection at its trigger inverts the one bit of the one lane's register, and nothing else of the
wave; its completion is answered. One whose wave or lane has ended lapses. -/
def Obligations.StrikesRewindAndInjections : Prop :=
  (∀ (s : State) (zone : Nat), s.power = .on → zone < 96 →
     (∃ t, exec (.strikeReplay zone) s = .next t ∧ t.cyc = s.cyc ∧ t.launches = s.launches ∧
       (∀ (wi : Nat) (w : Wave), s.waves[wi]? = some w → w.core ∉ zoneCores zone →
         ∃ x : Wave, t.waves[wi]? = some x ∧ x.frame = w.frame ∧ x.wregs = w.wregs ∧ x.wbs = w.wbs) ∧
       (∀ (wi : Nat) (w : Wave) (e : JEntry), s.waves[wi]? = some w → w.core ∈ zoneCores zone → w.retired = false →
         s.journal.find? (fun e => decide (e.waveIx = wi ∧ s.cyc - 128 ≤ e.cyc)) = some e → e.wave.wbs = [] →
         (∀ x ∈ s.landed, x.waveIx ≠ wi) → (∀ o ∈ s.outcomes, o.wave ≠ wi) →
         ∃ x : Wave, t.waves[wi]? = some x ∧ x.frame = e.wave.frame ∧ x.wregs = e.wave.wregs ∧ x.wbs = [] ∧ x.inHandler = e.wave.inHandler ∧
           (∀ l, l < e.wave.lanes.length → (e.wave.lane l).status = .ready →
             (x.lane l).pc = (e.wave.lane l).pc ∧ (x.lane l).preds = (e.wave.lane l).preds ∧ (x.lane l).fstat = (e.wave.lane l).fstat) ∧
           ∀ r ∈ t.reqs, r.wave = wi → r.kind.isNotice = false → r.issued < s.cyc - 128)) ∧
     (∀ e ∈ s.journal, s.journal.find? (fun x => decide (x.id = e.id)) = some e → e.cyc + 128 ≤ s.cyc →
       exec (.journalAgeOut e.id) s = .next { s with
         journal := s.journal.filter fun x => decide (x.id ≠ e.id)
         blocks := s.blocks.modify e.wave.block fun b => { b with gWaves := b.gWaves - e.granules } })) ∧
  (∀ (s : State) (k wi : Nat) (j : Injection) (w : Wave), s.injections[k]? = some j → j.wave = some wi → s.waves[wi]? = some w → j.done = 0 →
     let answer := fun (t : State) (v : Word) => t.answers = s.answers ++ [⟨j.tenant, 5, 0, v, []⟩]
     (w.retired = true ∨ (w.lane j.lane).status = .exited → ∃ t, exec (.registerInjection k) s = .next t ∧ answer t 2 ∧
       t.injections = s.injections.set k { j with done := 2 } ∧ t.waves = s.waves) ∧
     (∀ m i, w.retired = false → (w.lane j.lane).status ≠ .exited → s.nextOf wi = some (m, i) → w.pcOf m = j.pc →
       w.executes m i j.lane = true → SMap.wf RegCell.zero w.frame = true → j.lane < 32 →
       ∃ t x c dirty, exec (.registerInjection k) s = .next t ∧ answer t 1 ∧ t.waves[wi]? = some x ∧
         t.injections = s.injections.set k { j with done := if j.ecc then 3 else 1, applied := s.cyc, cached := c, dirty := dirty } ∧
         (∀ n l, l < 32 → x.vcell n l = if j.ecc = false ∧ n = j.reg ∧ l = j.lane
           then { w.vcell n l with val := (w.vcell n l).val ^^^ BitVec.ofNat 64 (2 ^ (j.bit % 64)) } else w.vcell n l) ∧
         { x with frame := [] } = { w with frame := [] } ∧ ∀ i, i ≠ wi → t.waves[i]? = s.waves[i]?))

/-- R182 and R176 to R178 (08): a pre-emption request that arrives marks the waves of its launch on the core; a stopped
wave with no dirty cache entry left to spill is switched out, at its class, with its lanes as they stood, in a cycle in
which its core writes no other header. R180 to R182: the restore that is served next begins, and is promised what it
needs; one whose granules and headers are in makes its block resident with every wave of it that was out, and one whose
launch is to stay out is given up. R163 and R166: the GROW.WAIT that is served next gets its granules, 4 cycles for
each.

R268 and R270 (16): a block's frozen or ended stream with nothing issued, at the pre-emption of a stopped wave 0, has
that wave trap MATRIX_FREEZE 0x43 once at S level, with no detail word; its lanes as they stood are kept. -/
def Obligations.WavesSwitchAndFreeze : Prop :=
  (∀ (s : State),
     (∀ core p, s.preempts.find? (fun p => decide (p.1 = core ∧ p.2.1 ≤ s.cyc)) = some p →
       exec (.preemptRequestArrival core) s = .next { s with
         preempts := s.preempts.erase p
         waves := s.waves.map fun w => if w.core = core ∧ w.launch = p.2.2 ∧ w.resident = true ∧ w.control = false then
           { w with preempt := some s.cyc, noSafeReported := false } else w }) ∧
     (∀ wi w b, s.waves[wi]? = some w → s.blocks[w.block]? = some b → w.resident = true → w.preempt.isSome = true → s.isStopped wi w = true →
       (w.number ≠ 0 ∨ State.streamSaved b w = true) → (∀ e ∈ w.ocache, e.dirty = 0) → w.core ∉ s.headersUsed →
       ∃ t x, exec (.switchOut wi) s = .next t ∧ t.waves[wi]? = some x ∧
         x.resident = false ∧ x.switchedOut = some s.cyc ∧ x.preempt = none ∧ x.effClass = w.baseClass ∧ x.frame = w.frame ∧ x.wregs = w.wregs ∧
         x.ocache = [] ∧ x.sweep = (w.sweep.map fun k => { k with counting := none, nDone := 0, nAsleep := 0, nInvalid := 0, faulted := false }) ∧
         t.headersUsed = w.core :: s.headersUsed ∧
         ∀ l, l < w.lanes.length → (x.lane l).pc = (w.lane l).pc ∧ (x.lane l).preds = (w.lane l).preds ∧ (x.lane l).fstat = (w.lane l).fstat ∧
           (x.lane l).status = if (w.lane l).status = .blocked .grow then .ready else (w.lane l).status) ∧
     (∀ bi b L, s.blocks[bi]? = some b → s.launches[b.launch]? = some L →
       (∀ q, b.restore = none → s.nextServed b.core = some q → q.rank = 2 → q.who = bi →
         (∃ t, exec (.switchIn bi) s = .next t) ∧
         (s.restoreNeed b ≤ s.comingFree b.core → exec (.switchIn bi) s = .next { s with
           fresh := s.fresh + 1
           poolQueue := SMap.set [] s.poolQueue b.core ((s.queue b.core).erase q)
           blocks := s.blocks.modify bi fun c => { c with restore := some ⟨s.fresh, s.restoreNeed b, 0, 0, 0, (s.outWaves b).length⟩ } })) ∧
       (∀ r, b.restore = some r → L.stayOut = true →
         exec (.switchIn bi) s = .next { s with blocks := s.blocks.modify bi fun c => { c with restore := none } }) ∧
       (∀ r, b.restore = some r → L.stayOut = false → r.got = r.need → r.next ≤ s.cyc → r.after = 0 ∨ r.after + 18 ≤ s.cyc → r.headers = 0 →
         ∃ t c, exec (.switchIn bi) s = .next t ∧ t.blocks[bi]? = some c ∧ c.state = .resident ∧ c.restore = none ∧
           ∀ (wi : Nat) (w : Wave), wi ∈ s.outWaves b → s.waves[wi]? = some w → w.control = false → ∃ x : Wave, t.waves[wi]? = some x ∧
             x.resident = true ∧ x.switchedOut = none ∧ (b.state ≠ .evicted → x.frame = w.frame ∧ x.wregs = w.wregs))) ∧
     (∀ core r w, s.nextServed core = some r → r.rank = 1 → s.waves[r.who]? = some w → ∃ t, exec (.poolGrant core) s = .next t ∧
       t.poolQueue = SMap.set [] s.poolQueue core ((s.queue core).erase r) ∧
       t.waves = s.waves.set r.who { w with granted := w.granted + r.n, grantDue := max w.grantDue s.cyc + 4 * r.n } ∧
       t.blocks = s.blocks.modify w.block (fun b => { b with gWaves := b.gWaves + r.n }) ∧ (∀ e ∈ t.lines, e ∈ s.lines) ∧
       { t with poolQueue := [], waves := [], blocks := [], lines := [], fresh := 0 } =
         { s with poolQueue := [], waves := [], blocks := [], lines := [], fresh := 0 })) ∧
  (∀ (s : State) (bi : Nat) (b : Block) (w : Wave), s.blocks[bi]? = some b → s.waves[b.waves.headD 0]? = some w →
     b.state = .resident → b.seq = .frozen ∨ b.seq = .ended → b.seqOps = [] → b.frozenTrapped = false → w.resident = true →
     w.preempt.isSome = true → s.isStopped (b.waves.headD 0) w = true → (∃ l ∈ w.lanes, l.status ≠ .exited) → w.lanes.length = 32 →
     (s.tenant w.tenant).tvec ≠ 0 →
     ∃ t x, exec (.matrixFreeze bi) s = .next t ∧ t.waves[b.waves.headD 0]? = some x ∧ x.inHandler = true ∧ x.level = true ∧
       x.savedLanes = w.lanes ∧ (x.trec.headD 0).toNat % 256 = 0x43 ∧ x.trec.getD 8 0 = 0 ∧
       x.frame = w.frame ∧ x.wregs = w.wregs ∧ (∀ l, l < 32 → (w.lane l).status ≠ .exited →
         (x.lane l).pc = (s.tenant w.tenant).tvec.toNat ∧ (x.lane l).status = .ready) ∧
       t.blocks = s.blocks.modify bi fun b => { b with frozenTrapped := true, seqSave := [] })

/-- R198 and R199 (10): a fairness run begins with the most-starved ready cohort. R195: a wave passed over 512 times
rises one class, to at most 3. R185 (09), R201 (10), R177 (08): NO_PROGRESS of a cohort passed over for an interval
where no progress is promised, of a wave whose lanes wait only for one another, and NO_SAFE_POINT of a wave that has
not stopped 20 000 cycles after a pre-emption, each send a record to the tenant's control ring once (R287: a request,
which ages). -/
def Obligations.SchedulerTimers : Prop :=
  ∀ (s : State) (wi lane : Nat) (w : Wave), s.waves[wi]? = some w → w.resident = true →
    let set := fun (f : Wave → Wave) => { s with waves := s.waves.set wi (f w) }
    let reports := fun (i : Instr) (cause : Nat) (d0 : Word) (f : Wave → Wave) => ∃ r, exec i s =
      .next ((s.notice w.tenant false r).modWave wi f) ∧ r.cause = cause ∧ r.words.getD 8 0 = d0
    let cohort := w.cohortAt (w.lane lane).pc
    (s.runDue w = true → exec (.fairnessRun wi) s = .next (set fun w => { w with fair := some (w.mostStarved w.readyLanes, 0) })) ∧
    (512 ≤ w.age → exec (.ageingPromotion wi) s = .next (set fun w => { w with effClass := min 3 (w.effClass + 1), age := 0 })) ∧
    (s.promised w = false → (w.lane lane).isReady = true → 2 ^ (s.tenant w.tenant).wdlog ≤ w.passedOf cohort → w.toldOf cohort = false →
      reports (.noProgress wi lane) 0x30 0 fun v => v.modLanes cohort fun x => { x with told := true }) ∧
    (w.allWait = true → (s.tenant w.tenant).waitrep = true → 2 ^ (s.tenant w.tenant).wdlog ≤ w.idle →
      reports (.stalledWaveReport wi) 0x30 1 fun w => { w with idle := 0 }) ∧
    (∀ c, w.preempt = some c → w.noSafeReported = false → s.isStopped wi w = false → c + 20000 ≤ s.cyc →
      reports (.noSafePoint wi) 0x2A ((w.lanesWhere fun l => !s.laneStops w l).setWidth 64) fun w => { w with noSafeReported := true })

/-- R317 and R190 (19, 10): BLOCK_PLACEMENT, with no reservation to release, places the head of a cluster's offer queue
on the core chosen for it; a single block becomes resident, every wave of it with the kernel's frame and its threads at
the entry. R319 (19): a block of a unit of several only reserves, and the
last that reserves makes them resident together. R418 (19): a block that no core takes waits in the pool queue of its
core. R319: overtaken reservations of a unit are released. R320: PRIORITY_PREEMPT has the lowest launch below the
head's PRIO pre-empted on every core of it. R98 and R192 (04, 10): WAVE_RETIRE returns the wave's granules; the last
wave of a block completes it. -/
def Obligations.BlocksArePlacedAndRetired : Prop :=
  ∀ (s : State) (k li idx : Nat) (L : Launch),
    (∀ (u : OfferUnit), k < 6 → s.launches[li]? = some L → L.home = k → s.offerHead k = some (li, u) → s.offered u = some (li, idx) →
      s.overtaken k = none →
      let stands := fun (t : State) (i n : Nat) (st : BlockState) => ∃ (bi : Nat) (b : Block), t.blocks[bi]? = some b ∧ b.launch = i ∧ b.index = n ∧
        b.state = st
      (∀ c, s.placeOn k (li, idx) = some c →
        (u.multi = false → ∃ (t : State) (bi : Nat) (b : Block), exec (.blockPlacement k) s = .next t ∧ t.blocks[bi]? = some b ∧ b.launch = li ∧ b.index = idx ∧ b.core = c ∧
          b.state = .resident ∧ b.waves.length = L.cart.waves ∧ (b.seq = if L.cart.mstream = 0 then .none else .running) ∧
          ∀ wi ∈ b.waves, ∃ w : Wave, t.waves[wi]? = some w ∧ w.core = c ∧ w.resident = true ∧ w.frameSize = L.cart.frame ∧ w.frame = [] ∧
            w.wread 1 = (BitVec.ofNat 64 L.id, .u64) ∧
            ∀ l, l < 32 → (w.lane l).pc = L.cart.entry ∧ (w.lane l).status = .ready ∧ (w.lane l).preds = 0 ∧ (w.lane l).fstat = 0) ∧
        (u.multi = true → (∃ q ∈ u.pieces, q ≠ (li, idx) ∧ s.reservedAt q = none) → ∃ t, exec (.blockPlacement k) s = .next t ∧
          t.waves = s.waves ∧ stands t li idx .reserved) ∧
        (u.multi = true → (∀ q ∈ u.pieces, q ≠ (li, idx) → (s.reservedAt q).isSome) → ∃ t, exec (.blockPlacement k) s = .next t ∧
          ∀ q ∈ u.pieces, stands t q.1 q.2 .resident)) ∧
      (∀ c, s.placeOn k (li, idx) = none → s.queuedOn k (li, idx) = false → s.richest L.tenant (s.pieceCores k (li, idx)) = some c →
        exec (.blockPlacement k) s = .next { s with
          fresh := s.fresh + 1
          poolQueue := SMap.set [] s.poolQueue c (s.queue c ++ [⟨s.fresh, 3, L.tenant, L.cart.need, li, idx⟩]) })) ∧
    (∀ (u : OfferUnit), k < 6 → s.overtaken k = some u → ∃ t, exec (.blockPlacement k) s = .next t ∧ t.waves = s.waves ∧
      ∀ (bi : Nat) (b : Block), s.blocks[bi]? = some b → (∀ p ∈ u.pieces, s.blockAt p.1 p.2 ≠ some bi) → t.blocks[bi]? = some b) ∧
    (∀ u since v V, s.offerHead k = some (li, u) → s.launches[li]? = some L → SMap.get (0, 0) s.headSince k = (li + 1, since) →
      since + 4096 ≤ s.cyc → s.displacing k = false → s.victim k L.prio = some v → s.launches[v]? = some V → V.gang = none →
      ∃ t, exec (.priorityPreempt k) s = .next t ∧ V.prio < L.prio ∧ t.launches = s.launches.modify v (fun M => { M with displaced := true }) ∧
        t.waves = s.waves ∧ t.blocks = s.blocks ∧ ∀ w ∈ s.waves, w.launch = v → w.resident = true →
          ∃ p ∈ t.preempts, p.1 = w.core ∧ p.2.2 = v ∧ s.cyc ≤ p.2.1 ∧ p.2.1 ≤ s.cyc + 64) ∧
    (∀ (wi : Nat) (w : Wave) (b : Block), s.waves[wi]? = some w → s.blocks[w.block]? = some b → s.mayRetire wi w = true →
      ∃ t x, exec (.waveRetire wi) s = .next t ∧ t.waves[wi]? = some x ∧ x.retired = true ∧ x.resident = false ∧
        ((∃ j ∈ b.waves, j ≠ wi ∧ ∃ v : Wave, s.waves[j]? = some v ∧ v.retired = false) →
          t.blocks = s.blocks.set w.block { b with gWaves := b.gWaves - w.granules } ∧ t.launches = s.launches ∧
          ∀ j, j ≠ wi → t.waves[j]? = s.waves[j]?) ∧
        (wi ∈ b.waves → (∀ j ∈ b.waves, j ≠ wi → ∃ v : Wave, s.waves[j]? = some v ∧ v.retired = true) → b.commit = [] → b.seqOps = [] →
          s.draining w.block b = false → b.state = .resident → b.faultMark = false → ∀ M, s.launches[b.launch]? = some M →
          ∃ (N : Launch) (c : Block), t.launches[b.launch]? = some N ∧ N.completed = M.completed + 1 ∧ N.faulted = M.faulted ∧ N.killed = M.killed ∧
            t.blocks[w.block]? = some c ∧ c.state = .completed ∧ c.granules = 0))

/-- R246 and R257 (14): MATRIX_OP_COMPLETE writes the registers of its wave in every lane, exited or not, and no other;
R252: MFILL_COMPLETE gives its slot the word's format and the bytes read; each word leaves the stream, and R255: an
MARRIVE right behind it then counts. R59 (02): SEQUENCER_ILLEGAL stops the sequencer with ILLEGAL_ENCODING, the word
and the reason of R58, and marks the block. R157 (06): COMMIT_DRAIN_DONE, once every write of the drain is visible,
empties the buffer and lets the threads of the block that wait in COMMIT go on. -/
def Obligations.StreamWordsAndDrainsComplete : Prop :=
  ∀ (s : State) (bi : Nat) (b : Block), s.blocks[bi]? = some b →
    let leaves := fun (t : State) (o : StreamOp) (c : Block) =>
      ((∀ q ∈ b.seqOps, ∀ j, q.insn ≠ .marrive j) → t.blocks = s.blocks.set bi { c with seqOps := b.seqOps.erase o }) ∧
      (∀ (m : StreamOp) (rest : List StreamOp) (j : BitVec 4), b.seqOps.erase o = m :: rest → m.insn = .marrive j →
        (∀ q ∈ rest, ∀ j, q.insn ≠ .marrive j) → ∃ d, t.blocks = s.blocks.set bi d ∧ d.seqOps = rest ∧
          d = { c with seqOps := rest, marr := SMap.set 0 b.marr j.toNat (SMap.get 0 b.marr j.toNat + 1) })
    (∀ (o : StreamOp) (k : Nat) (w : Wave), b.seqOps.find? (fun o => isArrayOp o.insn && decide (o.due ≤ s.cyc)) = some o →
      o.wave = some k → s.waves[k]? = some w → SMap.wf RegCell.zero w.frame = true →
      (∀ r ∈ o.writes, r.lane < 32 ∧ ∃ n, r.target = .v n ∧ n < w.frameSize ∧
        ∀ q ∈ o.writes, q.target = r.target → q.lane = r.lane → q = r) →
      ∃ t x, exec (.matrixOpComplete bi) s = .next t ∧ t.waves[k]? = some x ∧ leaves t o b ∧ x.wregs = w.wregs ∧
        (∀ r ∈ o.writes, ∀ n, r.target = .v n → (x.vcell n r.lane).val = r.val ∧ (x.vcell n r.lane).tag = r.tag) ∧
        ∀ n l, l < 32 → (∀ r ∈ o.writes, r.lane = l → r.target ≠ .v n) →
          { x.vcell n l with cap := false } = { w.vcell n l with cap := false }) ∧
    (∀ (o : StreamOp) (m : TileFmt) (d a bo : Operand) (imm : BitVec 15),
      b.seqOps.find? (fun o => isFill o.insn && decide (o.due ≤ s.cyc)) = some o → o.insn = .mfill m d a bo imm →
      SMap.wf Slot.free b.slots = true → ∃ t c, exec (.mfillComplete bi) s = .next t ∧ leaves t o c ∧ { c with slots := [] } = { b with slots := [] } ∧
        (∀ n, n ≠ slotNo d → c.slot n = b.slot n) ∧ (c.slot (slotNo d)).claimed = true ∧ (c.slot (slotNo d)).fmt = TileFmt.slotFmt m ∧
        ∀ j, SMap.get 0 (c.slot (slotNo d)).bytes j = o.bytes.getD j 0) ∧
    (∀ x r, s.streamRuns b = true → s.streamFetch b = .ok x → decodeStream x = .illegal r →
      exec (.sequencerIllegal bi) s = .next { s with blocks := s.blocks.modify bi fun c => { c with
        seq := .stopped, redo := none, faultMark := true
        seqFault := some [0x07, BitVec.ofNat 64 c.seqPc, BitVec.ofNat 64 (fld x 0 32), BitVec.ofNat 64 (fld x 32 32), BitVec.ofNat 64 (fld x 64 32),
          BitVec.ofNat 64 r] } }) ∧
    (∀ ids, b.drain = some ids → (∀ i ∈ ids, (∀ w ∈ s.coreWrites, w.id ≠ i) ∧ ∀ w ∈ s.linkWrites, w.id ≠ i) →
      (∃ wi ∈ b.waves, ∃ w : Wave, s.waves[wi]? = some w ∧ w.retired = false) →
      ∃ t, exec (.commitDrainDone bi) s = .next t ∧ t.blocks = s.blocks.set bi { b with commit := [], drain := none, effects := false } ∧
        ∀ (wi : Nat) (w : Wave), wi ∈ b.waves → s.waves[wi]? = some w → w.lanes.length = 32 → ∃ x : Wave, t.waves[wi]? = some x ∧
          x.frame = w.frame ∧ x.wregs = w.wregs ∧ ∀ l, l < 32 →
            if (w.lane l).status = .inside .commit then (x.lane l).status = .ready ∧ (x.lane l).pc = ((w.lane l).pc + 12) % 2 ^ 64
            else x.lane l = w.lane l)

/-- R366 (22), R373 and R417 (24): SWEEP_LANE_LOAD gives a free sweep lane the element at the sweep's position, if it
is awake: its index, data and context in v0 to v2, and v3 where cells are of 16 bytes, and its state's entry as the PC,
12 cycles later; the position and the count of dispatches rise. Elements whose skip bits are set are passed over, to
the end of their line at most, and an element that sleeps for sweeps asks for its decrement; each takes the engine one
cycle.

R373 and R374 (24): SWEEP_COUNT_PASS, when every sweep lane is back and the position is at the end, counts on over the
elements that are done, asleep and invalid, up to the eighth sleeper or the end of the line, in a cycle for the line
and one for the sleepers; when all are counted each sweep lane goes on past its SWEEP with the four counts. -/
def Obligations.EnginesLoadAndCount : Prop :=
  ∀ (s : State) (wi : Nat) (w : Wave) (k : Sweep), s.waves[wi]? = some w → w.sweep = some k → s.sweepOpen w k = true →
    let t := w.tensor k
    let line := fun i => 512 * (i / 512 + 1)
    (∀ l, w.sweepWaiter k = some l → (w.lane l).elem = none → l < w.lanes.length → w.lanes.length = 32 →
      (∀ c e, s.readSkip t k.p = .ok false → s.readCell t k.p = .ok c →
        let ctx := s.effCtx (some wi) k.p (cellCtx k.word0 c)
        ctx / 256 % 16 = 0 ∨ (ctx / 256 % 16 = 1 ∧ ctx / 4096 % 2 ^ 20 = 0) → s.readEntry t k.entry (ctx % 64) = .ok e → e ≠ 0 → e % 4 = 0 →
        4 ≤ w.frameSize → SMap.wf RegCell.zero w.frame = true →
        ∃ u x, exec (.sweepLaneLoad wi) s = .next u ∧ u.waves[wi]? = some x ∧ x.sweep = some { k with p := k.p + 1, disp := k.disp + 1, next := s.cyc + 1 } ∧
          (x.lane l).pc = e ∧ (x.lane l).status = .loading ∧ (x.lane l).elem = some k.p ∧ (x.lane l).readyAt = s.cyc + 12 ∧
          (∀ j, j ≠ l → x.lane j = w.lane j) ∧ x.vread 0 l = (BitVec.ofNat 64 k.p, .u64) ∧
          x.vread 1 l = (BitVec.ofNat 64 (cellData k.word0 c), .raw) ∧ x.vread 2 l = (BitVec.ofNat 64 (ctx % 256), .u64) ∧
          (cellSize k.word0 = 16 → x.vread 3 l = (BitVec.ofNat 64 (cellData k.word0 c / 2 ^ 64), .raw)) ∧
          ∀ n j, j < 32 → (j ≠ l ∨ 4 ≤ n ∨ (n = 3 ∧ cellSize k.word0 = 8)) → x.vcell n j = w.vcell n j) ∧
      (∀ m, k.p < m → m ≤ k.n → m ≤ line k.p → (∀ i, k.p ≤ i → i < m → s.readSkip t i = .ok true) →
        m = k.n ∨ m = line k.p ∨ s.readSkip t m = .ok false →
        exec (.sweepLaneLoad wi) s = .next { s with waves := s.waves.set wi { w with sweep := some { k with p := m, next := s.cyc + 1 } } }) ∧
      (∀ c p, s.readSkip t k.p = .ok false → s.readCell t k.p = .ok c →
        let ctx := s.effCtx (some wi) k.p (cellCtx k.word0 c)
        ctx / 256 % 16 = 1 → 0 < ctx / 4096 % 2 ^ 20 → s.walk w.asid k.slevel (t.cellVa k.p) (cellSize k.word0) .store = .ok p →
        exec (.sweepLaneLoad wi) s = .next (({ s with waves := s.waves.set wi { w with sweep := some { k with p := k.p + 1, next := s.cyc + 1 } } } :
          State).request wi 0 w.core none none (.decrement k.p)))) ∧
    (∀ (sk : Nat → Bool) (ce : Nat → Nat) (m : Nat), k.faulted = false → k.n ≤ k.p → w.sweepIdle k = true →
      let f := k.counting.getD 0
      let ctx := fun i => s.effCtx (some wi) i (cellCtx k.word0 (ce i))
      let isDone := fun i => (ctx i).testBit 7
      let isBad := fun i => !isDone i && ((ctx i).testBit 6 || decide (4 < ctx i / 256 % 16))
      let howMany := fun (g : Nat → Bool) => (((List.range (m - f)).map (f + ·)).filter g).length
      f < m → m ≤ k.n → m ≤ line f → (∀ i, f ≤ i → i < k.n → s.readSkip t i = .ok (sk i) ∧ s.readCell t i = .ok (ce i)) →
      howMany sk ≤ 8 → m = k.n ∨ m = line f ∨ (howMany sk = 8 ∧ sk (m - 1) = true) → (howMany sk = 8 → sk (m - 1) = true) →
      exec (.sweepCountPass wi) s = .next { s with waves := s.waves.set wi { w with sweep := some { k with
        counting := some m, nDone := k.nDone + howMany isDone, nAsleep := k.nAsleep + howMany (fun i => !isDone i && !isBad i && sk i)
        nInvalid := k.nInvalid + howMany isBad
        next := s.cyc + ((if f % 512 = 0 then 1 else 0) + if howMany sk = 0 then 0 else 1) } } }) ∧
    (∀ (h : Hdr) (n : BitVec 10) (a b x : Operand), k.faulted = false → k.n ≤ k.p → w.sweepIdle k = true →
      k.n ≤ k.counting.getD 0 → k.insn = .sweep h (.v n) a b x → w.lanes.length = 32 →
      let lo := BitVec.ofNat 64 (k.disp + k.nDone * 2 ^ 32)
      let hi := BitVec.ofNat 64 (k.nAsleep + k.nInvalid * 2 ^ 32)
      ∃ u y, exec (.sweepCountPass wi) s = .next u ∧ u.waves[wi]? = some y ∧ y.sweep = none ∧ y.frame = w.frame ∧ y.wregs = w.wregs ∧
        (∀ l, l < 32 → k.lanes.getLsbD l = false → y.lane l = w.lane l) ∧
        ∀ l, l < 32 → k.lanes.getLsbD l = true → (w.lane l).status ≠ .exited →
          (y.lane l).status = .ready ∧ (y.lane l).pc = ((w.lane l).pc + 12) % 2 ^ 64 ∧
          ∀ id, (k.owed.find? fun e => decide (e.1 = l)) = some (l, id) → ∀ q ∈ w.wbs, q.id = id → ∃ r ∈ y.wbs, r.id = id ∧ r.due = some s.cyc ∧
            r.lanes = q.lanes ∧ ∀ g ∈ q.writes, ∀ m, g.target = .v m →
              { g with val := if m = n.toNat then lo else hi } ∈ r.writes)

/-- R390 (25) and R404 (27): a store to TAKE in PHASE 1 makes the mailbox TAKEN; POST equal to STEP in PHASE 2 posts an
observation, which the model leaves free (log entry 70), and any other sets SEQERR, which SEQERR_CLEAR clears.

R401 and R402 (27): service 0 ends the running episode with its code, service 1 sends it to the tail of its queue, and
service 2 goes on with the first mailbox in PHASE 1, or waits; at the end of a quantum it goes to the tail. R406 and
R408 (27): an exception, an uncorrectable error, a watchdog, a deadline and a reset end it with their REASON: its
mailboxes go to their phase but for those that are dead or unbound, its window reads zero, and its number stays known.
-/
def Obligations.MailboxWindowsAndEpisodes : Prop :=
  (∀ (s : State) (mb v : Nat), mb < 4096 → SMap.wf Mailbox.unbound s.mailboxes = true →
     let only := fun (t : State) (m : Mailbox) => t.mb mb = m ∧ (∀ k, k ≠ mb → t.mb k = s.mb k) ∧ t.waves = s.waves ∧ t.episodes = s.episodes
     ((s.mb mb).phase = 1 → ∃ t, exec (.take mb v) s = .next t ∧ only t { s.mb mb with phase := 2, counter := 0 }) ∧
     ((s.mb mb).phase ≠ 1 → exec (.take mb v) s = .next s) ∧
     ((s.mb mb).phase = 2 → v % 2 ^ 32 = (s.mb mb).step → ∃ t m, exec (.post mb v) s = .next t ∧ t.mb mb = m ∧
       m = { s.mb mb with phase := 3, obs := m.obs } ∧ (∀ k, k ≠ mb → t.mb k = s.mb k) ∧
       ((s.mb mb).target = none → t.waves = s.waves ∧ t.view0 = s.view0 ∧ t.view1 = s.view1)) ∧
     (¬ ((s.mb mb).phase = 2 ∧ v % 2 ^ 32 = (s.mb mb).step) → ∃ t, exec (.post mb v) s = .next t ∧ only t { s.mb mb with seqErr := true }) ∧
     (∃ t, exec (.seqerrClear mb) s = .next t ∧ only t { s.mb mb with seqErr := false })) ∧
  (∀ (s : State) (e core k : Nat) (code cause tval : Word), SMap.wf Episode.free s.episodes = true → SMap.wf [] s.runQueues = true →
     SMap.wf Mailbox.unbound s.mailboxes = true →
     let ep := s.episode e
     let ends := fun (i : Instr) (reason : Nat) (phase : Option Nat) => ∃ t, exec i s = .next t ∧ (t.episode e).state = 3 ∧
       (t.episode e).reason = reason ∧ (t.episode e).waiting = false ∧ e ∉ t.runQueue ep.core ∧
       (∀ a, ep.wbase ≤ a → a < ep.wbase + ep.bytes → Memory.get t.view0 a = 0 ∧ Memory.get t.view1 a = 0) ∧
       (∀ j, (t.mb j).phase = match phase with
         | some p => if ep.firstMb ≤ j ∧ j < ep.firstMb + ep.nmb ∧ (s.mb j).phase ≠ 5 ∧ (s.mb j).phase ≠ 6 then p else (s.mb j).phase
         | none => (s.mb j).phase) ∧
       ∀ f, ep.wbase ≤ 4096 * f → 4096 * f < ep.wbase + ep.bytes → 4096 ∣ ep.wbase → f ∉ t.framesUsed
     (s.runs e = true →
       (ends (.episodeExit e code) 0 none ∧ ∃ t, exec (.episodeExit e code) s = .next t ∧ (t.episode e).exitCode = code) ∧
       (∃ t rest, exec (.episodeYield e) s = .next t ∧ s.runQueue ep.core = e :: rest ∧ t.runQueue ep.core = rest ++ [e] ∧
         t.episode e = { ep with used := 0, regs := SMap.set 0 ep.regs 10 0 } ∧ t.mailboxes = s.mailboxes ∧ t.waves = s.waves) ∧
       ((∀ j, j < ep.nmb → (s.mb (ep.firstMb + j)).phase ≠ 1) → ∃ t, exec (.episodeWait e) s = .next t ∧
         t.episode e = { ep with waiting := true, used := 0 } ∧ t.runQueue ep.core = (s.runQueue ep.core).filter (fun x => decide (x ≠ e))) ∧
       (k < ep.nmb → (s.mb (ep.firstMb + k)).phase = 1 → (∀ j, j < k → (s.mb (ep.firstMb + j)).phase ≠ 1) →
         ∃ t, exec (.episodeWait e) s = .next t ∧ t.episode e = { ep with regs := SMap.set 0 ep.regs 10 (BitVec.ofNat 64 k) } ∧
           t.runQueues = s.runQueues) ∧
       ends (.episodeException e cause tval) 3 (some 4) ∧ ends (.episodeEccError ep.core) 3 (some 4)) ∧
     (∀ rest, s.power = .on → s.runQueue core = e :: rest → 30000 ≤ ep.used → ∃ t, exec (.quantumExpiry core) s = .next t ∧
       t.runQueue core = rest ++ [e] ∧ t.episode e = { ep with used := 0 } ∧ t.mailboxes = s.mailboxes) ∧
     (ep.state = 2 → k < ep.nmb → (s.mb (ep.firstMb + k)).phase = 2 → ep.stepLim ≠ 0 → ep.stepLim ≤ (s.mb (ep.firstMb + k)).counter →
       ends (.stepWatchdogExpiry e k) 1 (some 4)) ∧
     (ep.state = 2 → ep.deadline ≠ 0 → ep.created + 1800 * ep.deadline ≤ s.cyc → ends (.deadlineExpiry e) 2 (some 4)) ∧
     (ep.state = 2 → ends (.episodeReset e) 5 (some 5)))

/-- R290 (17): the commands of WCTL on a launch that has not ended and is not the control wave's. PREEMPT asks each
core of it to pre-empt, and what is out stays out; CANCEL withdraws a pending request, and does nothing where none is;
RESUME asks for the restore of its blocks that are out by command 1, and does nothing where none is (log entry 88); the
kills end every block, or one. R241 (13): RECBASE_RELEASE clears RECBASE and unmaps the recovery page. -/
def Obligations.LaunchCommandsAreTaken : Prop :=
  ∀ (s : State) (t li : Nat) (id : Word) (L : Launch),
    (s.launchIx t id = some li → s.launches[li]? = some L → L.ended = false → s.isControl t li = false →
      (∃ d, d ≤ 64 ∧ exec (.wctlPreempt t id) s = .next { s with
        fresh := s.fresh + 1
        preempts := s.preempts ++ (s.launchCores li).map fun c => (c, s.cyc + d, li)
        launches := s.launches.modify li fun L => { L with preempted := true, stayOut := true } }) ∧
      (s.preemptPending li = true → exec (.wctlCancel t id) s = .next { s with
        preempts := s.preempts.filter fun p => decide (p.2.2 ≠ li)
        waves := s.waves.map fun w => if w.launch = li ∧ w.resident = true ∧ w.switchedOut = none then
          { w with preempt := none, lanes := w.lanes.map fun l => { l with stopped := false } } else w
        launches := s.launches.modify li fun L => { L with preempted := false } }) ∧
      (s.preemptPending li = false → L.preempted = false → exec (.wctlCancel t id) s = .next s) ∧
      (L.stayOut = true → s.anyOut li = true → ∃ u, exec (.wctlResume t id) s = .next u ∧
        u.launches = s.launches.modify li (fun L => { L with preempted := false, stayOut := false }) ∧
        u.waves = s.waves ∧ u.blocks = s.blocks ∧ (SMap.wf [] s.poolQueue = true → ∀ (bi : Nat) (b : Block), s.blocks[bi]? = some b →
          b.launch = li → s.isOut b = true → b.restore = none → ∃ r ∈ u.queue b.core, r.rank = 2 ∧ r.who = bi)) ∧
      (L.stayOut = false ∨ s.anyOut li = false → exec (.wctlResume t id) s = .next s) ∧
      (let gone := fun (u : State) (n : Nat) => ∃ (bi : Nat) (b : Block), u.blocks[bi]? = some b ∧ b.launch = li ∧ b.index = n ∧ b.state.isEnded = true
       let others := fun (u : State) (p : Block → Prop) => ∀ (bi : Nat) (b : Block), s.blocks[bi]? = some b → ¬ p b → u.blocks[bi]? = some b
       let one := fun (i : Instr) (n : Nat) => ∃ u, exec i s = .next u ∧ gone u n ∧ others u fun b => b.launch = li ∧ b.index = n
       (∃ u, exec (.wctlKillLaunch t id) s = .next u ∧ (∀ n, n < L.blocks → gone u n) ∧ others u fun b => b.launch = li) ∧
       (∀ n, n < L.blocks → one (.wctlKillBlock t id n) n) ∧
       ∀ n v, n < L.blocks → v < L.cart.waves → one (.wctlKillWaveBlock t id n v) n)) ∧
    ((s.tenant t).recbase ≠ 0 → SMap.wf Tenant.absent s.tenants = true → ∃ u, exec (.recbaseRelease t) s = .next u ∧
      u.tenant t = { s.tenant t with recbase := 0 } ∧ (∀ v, v ≠ t → u.tenant v = s.tenant v) ∧ u.waves = s.waves ∧ u.view0 = s.view0 ∧
      ∀ p, p ∈ u.pages ↔ p ∈ s.pages ∧ ¬ ((s.tenant t).asids.contains p.asid = true ∧ (s.tenant t).recbase ≤ p.va ∧
        p.va < (s.tenant t).recbase + 2 ^ 32))

/-- R353 to R360 (21): the service requests on a range of pages that keeps the field rules, is mapped where the request
needs it, is not global but for PRIVATE and SHARE, and has no confirmed access still to perform, are answered with
STATUS 0 and change the pages of the range as each says: MAP adds them, UNMAP removes them with their cached lines,
PROTECT sets their permissions, MIGRATE moves the bytes, DISCARD marks them, PRIVATE and SHARE make and end a copy,
INVAL drops cached lines. PARTITION sets the ASID's; RESUME makes the named parked lanes ready. -/
def Obligations.MappingServices : Prop :=
  ∀ (s : State) (t : Nat) (req : SvcReq), (s.tenant t).live = true → s.ringHolds t req = true →
    let m := MapReq.ofReq req
    let op := (req.headD 0).toNat
    let done := fun (i : Instr) (f : State → Prop) => ∃ u, exec i s = .next (u.answer t op 0 0 []) ∧ f u
    let inside := fun (p : Page) => p.asid = m.asid ∧ p.va < m.va + m.len ∧ m.va < p.va + p.size
    let cached := fun (u : State) => ∀ l ∈ u.lines, (l.asid = m.asid ∨ (l.asid = 0 ∧ l.tenant = t)) → 64 * l.va < m.va + m.len → 64 * l.va + 64 ≤ m.va
    let here := s.rangePages m.asid m.va m.len
    let maps := fun (u : State) (f : Page → Page) => u.pages = s.pages.map fun p => if inside p then f p else p
    let mapped := s.mapRules t m = true ∧ s.rangeOk m = true
    let local_ := mapped ∧ (∀ p ∈ s.pages, inside p → p.g = false) ∧ s.mustWait here = false
    let page := fun (va pa kind : Nat) => (⟨m.asid, va, m.size, m.r, m.w, m.x, m.u, m.g, m.sw, m.res, kind, pa, 0, none, none, none⟩ : Page)
    let noAlias := ∀ p ∈ here, ∀ q ∈ s.pages, q.kind = p.kind → q.kind ≠ 2 → q.pa = p.pa → q.asid = m.asid
    (op = 16 → s.mapRules t m = false → exec (.map t req) s = .next (s.answer t 16 4 0 [])) ∧
    (op = 16 → s.mapRules t m = true → m.g = false → (∀ p ∈ s.pages, inside p → p.g = false) →
      (∀ p ∈ s.pages, p.g = true → (s.tenant t).asids.contains p.asid = true → p.overlaps m.va m.len = false) →
      (here ≠ [] → exec (.map t req) s = .next (s.answer t 16 2 0 [])) ∧
      (here = [] → m.source = 2 → m.a % m.size = 0 →
        (∀ q ∈ s.pages, q.kind = 1 → q.asid ≠ m.asid → ∀ i, i < m.len / m.size → q.pa ≠ hostBase + m.a + i * m.size) →
        done (.map t req) fun u => u.pages = s.pages ++ (List.range (m.len / m.size)).map (fun i =>
          page (m.va + i * m.size) (hostBase + m.a + i * m.size) 1) ∧ u.view0 = s.view0 ∧ u.view1 = s.view1) ∧
      (∀ f, s.memOk → here = [] → m.source = 0 → m.b ≤ 2 → m.len = m.size → s.freeFrames (framesOf m.size) (dieStacks m.b) = some f →
        (∀ q ∈ s.pages, q.kind = 0 → q.pa ≠ 4096 * f) → done (.map t req) fun u => u.pages = s.pages ++ [page m.va (4096 * f) 0] ∧
          (∀ a, Memory.get u.view0 a = if 4096 * f ≤ a ∧ a < 4096 * f + m.size then 0 else Memory.get s.view0 a) ∧
          (∀ a, Memory.get u.view1 a = if 4096 * f ≤ a ∧ a < 4096 * f + m.size then 0 else Memory.get s.view1 a) ∧
          ∀ k, k ∈ u.framesUsed ↔ k ∈ s.framesUsed ∨ (f ≤ k ∧ k < f + framesOf m.size))) ∧
    (op = 17 → local_ → done (.unmap t req) fun u => (∀ p, p ∈ u.pages ↔ p ∈ s.pages ∧ ¬ inside p) ∧ cached u ∧ u.waves = s.waves ∧ u.view0 = s.view0) ∧
    (op = 18 → local_ → m.g = false → noAlias → s.deferred = [] → done (.protect t req) fun u =>
      maps u (fun p => { p with r := m.r, w := m.w, x := m.x, u := m.u, sw := m.sw, res := m.res }) ∧ u.view0 = s.view0) ∧
    (∀ p f sts, op = 19 → local_ → s.memOk → here = [p] → p.va = m.va → p.kind = 0 → p.mig = none → isDurable p.pa = false →
      migrateStacks m.a false = some sts → s.freeFrames (framesOf m.size) sts = some f →
      4096 * f + m.size ≤ p.pa ∨ p.pa + m.size ≤ 4096 * f →
      (m.force = true ∨ s.pinnedIn [m.asid] t m = false → done (.migrate t req) fun u =>
        (∃ q ∈ u.pages, inside q ∧ q = { p with pa := 4096 * f, mig := some (p.pa, List.range (m.size / 64)) }) ∧ cached u ∧
        ∀ k, k < m.size → Memory.get u.view0 (4096 * f + k) = Memory.get s.view0 (p.pa + k) ∧
          Memory.get u.view1 (4096 * f + k) = Memory.get s.view1 (p.pa + k)) ∧
      (m.force = false → s.pinnedIn [m.asid] t m = true →
        exec (.migrate t req) s = .next (({ s with deferred := s.deferred ++ [(t, req)] } : State).answer t 19 5 0 []))) ∧
    (op = 20 → local_ → (∀ p ∈ here, p.kind = 0 ∧ isDurable p.pa = false) → done (.discard t req) fun u =>
      maps u (fun p => { p with disc := some s.fresh }) ∧ cached u ∧ u.view0 = s.view0 ∧ u.view1 = s.view1) ∧
    (∀ p f, op = 21 → mapped → here = [p] → p.va = m.va → p.g = true → p.w = false → p.sw = false → p.kind = 0 → s.memOk →
      s.mustWait ((s.tenant t).asids.flatMap fun a => s.rangePages a m.va m.len) = false →
      s.freeFrames (framesOf m.size) (dieStacks 2) = some f → 4096 * f + m.size ≤ p.pa ∨ p.pa + m.size ≤ 4096 * f →
      done (.unshare t req) fun u =>
        { p with g := false, sw := true, orig := some p.pa, pa := 4096 * f } ∈ u.pages ∧
        (∀ a ∈ (s.tenant t).asids, a ≠ m.asid → ∀ q ∈ s.pages, q.asid = a → q.overlaps m.va m.len = true → { q with g := false } ∈ u.pages) ∧
        ∀ k, k < m.size → Memory.get u.view0 (4096 * f + k) = Memory.get s.view0 (p.pa + k) ∧
          Memory.get u.view1 (4096 * f + k) = Memory.get s.view1 (p.pa + k)) ∧
    (op = 22 → local_ → (∀ p ∈ here, p.orig.isSome = true) → done (.share t req) fun u =>
      ∀ q, q ∈ u.pages ↔ (q ∈ s.pages ∧ ¬ ((s.tenant t).asids.contains q.asid = true ∧ q.overlaps m.va m.len = true)) ∨
        ∃ a ∈ (s.tenant t).asids, ∃ p ∈ here, ∃ o, p.orig = some o ∧ q = { p with asid := a, g := true, sw := false, orig := none, pa := o }) ∧
    (op = 23 → let b := req.getD 5 0
      (s.launchIx t (req.getD 4 0) = none → exec (.resume t req) s = .next (s.answer t 23 1 0 [])) ∧
      (∀ li, s.launchIx t (req.getD 4 0) = some li → field b 37 27 ≠ 0 ∨ field (req.getD 1 0) 32 32 ≠ 0 →
        exec (.resume t req) s = .next (s.answer t 23 4 0 [])) ∧
      (∀ li, s.launchIx t (req.getD 4 0) = some li → field b 37 27 = 0 → field (req.getD 1 0) 32 32 = 0 → done (.resume t req) fun u =>
        ∀ (wi : Nat) (w : Wave), s.waves[wi]? = some w → w.sweep = none → w.lanes.length = 32 → ∃ x : Wave, u.waves[wi]? = some x ∧
          x.frame = w.frame ∧ x.wregs = w.wregs ∧ ∀ l, l < 32 → x.lane l =
            if w.launch = li ∧ w.number = field b 32 5 ∧ w.retired = false ∧ ((s.blocks[w.block]?).map (·.index)) = some (field b 0 32) ∧
              (req.getD 3 0).getLsbD l = true ∧ (match (w.lane l).status with | .parked _ => true | _ => false) = true
            then { w.lane l with status := .ready } else w.lane l)) ∧
    (op = 24 → local_ → done (.inval t req) fun u => cached u ∧ u.pages = s.pages ∧ u.view0 = s.view0 ∧ u.waves = s.waves) ∧
    (op = 25 → SMap.wf Tenant.absent s.tenants = true → SMap.wf 0 (s.tenant t).partitionOf = true →
      ((s.tenant t).asids.contains m.asid = true → (s.tenant t).partitions.contains m.a = true → m.clean = true → done (.partition t req) fun u =>
        SMap.get 0 (u.tenant t).partitionOf m.asid = m.a ∧ u.pages = s.pages) ∧
      ((s.tenant t).partitions.contains m.a = false ∨ m.clean = false → exec (.partition t req) s = .next (s.answer t 25 4 0 [])))

/-- R334 (20): the other services answer the request at the head of the tenant's ring, and HEAD rises. R312 and R313
(19): LOAD_OBJECT of a file that a check refuses answers with its STATUS and loads nothing; of another it writes the
translated object, and its cartouches become kernels, until UNLOAD_OBJECT. R329 (20): COLLECTIVE_WINDOW. R293 (17),
R262 (15), R207 (10), R180 (08): the debug service. R335 (20): a quote of the measurements, the nonce, EPOCH and the
serial number, with the device key's signature. R397, R398 and R408 (27): CREATE of an episode with its window,
registers and run queue; QUERY; DESTROY. The arguments' layouts are the model's (log entry 42). -/
def Obligations.OtherServices : Prop :=
  ∀ (s : State) (t : Nat) (req : SvcReq), (s.tenant t).live = true → s.ringHolds t req = true → SMap.wf Tenant.absent s.tenants = true →
    let op := (req.headD 0).toNat
    let w := fun (n : Nat) => req.getD n 0
    let tells := fun (i : Instr) (status : Nat) => exec i s = .next (s.answer t op status 0 [])
    let done := fun (i : Instr) (r : Word) (more : List Word) (f : State → Prop) => ∃ u, exec i s = .next (u.answer t op 0 r more) ∧ f u
    ((s.answer t op 0 0 []).answers = s.answers ++ [⟨t, op, 0, 0, []⟩] ∧ ((s.answer t op 0 0 []).tenant t).svcHead = (s.tenant t).svcHead + 1) ∧
    (∀ f, op = 1 → (s.tenant t).asids.contains (w 5).toNat = true → s.devRead (w 5).toNat true (w 1).toNat (w 2).toNat = .ok f →
      let base := (w 3).toNat
      let n := s.fresh
      let st := s.loadStatus t (w 5).toNat f base (w 4).toNat n
      let ns := (objectNotes f).getD []
      (st ≠ 0 → tells (.loadObject t req) st) ∧
      (∀ p, st = 0 → s.walk (w 5).toNat true base (translate f ns base n).length .store = .ok p → ∃ more,
        done (.loadObject t req) (BitVec.ofNat 64 base) more fun u =>
          (u.tenant t).objects = (s.tenant t).objects ++ [(base, n, f)] ∧
          u.carts.length = s.carts.length + (ns.filter fun x => decide (x.1 = 1)).length ∧ (∀ c ∈ s.carts, c ∈ u.carts) ∧
          more = (u.carts.drop s.carts.length).map (fun c => BitVec.ofNat 64 c.addr) ∧
          ∀ c ∈ u.carts.drop s.carts.length, c.tenant = t ∧ c.object = base)) ∧
    (op = 2 → ((∃ o ∈ (s.tenant t).objects, o.1 = (w 1).toNat) → done (.unloadObject t req) 0 [] fun u =>
        (∀ o, o ∈ (u.tenant t).objects ↔ o ∈ (s.tenant t).objects ∧ o.1 ≠ (w 1).toNat) ∧
        (∀ c, c ∈ u.carts ↔ c ∈ s.carts ∧ ¬ (c.tenant = t ∧ c.object = (w 1).toNat)) ∧ u.launches = s.launches ∧ u.waves = s.waves) ∧
      ((∀ o ∈ (s.tenant t).objects, o.1 ≠ (w 1).toNat) → tells (.unloadObject t req) 1)) ∧
    (∀ g k, op = 3 → (s.tenant t).asids.contains (field (w 1) 0 16) = true → (w 1).getLsbD 16 = false → redOpOf (field (w 1) 17 2) = some k →
      s.groups.find? (fun x => decide (x.g = field (w 1) 24 8)) = some g → done (.collectiveWindow t req) (w 2) [] fun u =>
        u = { s with windows := s.windows ++ [⟨t, field (w 1) 0 16, (w 2).toNat, (w 3).toNat, g.g, k, (w 1).getLsbD 19, (w 1).getLsbD 20,
          (w 4).toNat, 0⟩] }) ∧
    (let arms := fun (wi : Option Nat) => done (.armInjection t req) 0 [] fun u => u = { s with injections := s.injections ++
      [{ applied := 0, target := ((w 1).toNat, field (w 2) 0 32, field (w 2) 32 5), wave := wi, lane := field (w 3) 10 5, reg := field (w 3) 0 10
         bit := field (w 3) 15 6, pc := (w 4).toNat, ecc := (w 3).getLsbD 21, tenant := t, done := 0, cached := false, dirty := false }] }
     (op = 5 → s.launchIx t (w 1) = none → (s.tenant t).nextLaunch ≤ (w 1).toNat → (w 1).toNat < 2 ^ 63 → arms none) ∧
     ∀ li, s.launchIx t (w 1) = some li →
      (op = 4 → w 2 = 1 → done (.debuggerAttach t req) 0 [] fun u => u = { s with launches := s.launches.modify li fun L => { L with debugger := true } }) ∧
      (op = 4 → w 2 = 0 → done (.debuggerAttach t req) 0 [] fun u => u = { s with launches := s.launches.modify li fun L => { L with debugger := false } }) ∧
      (op = 4 → w 2 = 2 → done (.debuggerAttach t req) 0 [] fun u => ∀ (wi : Nat) (v : Wave), s.waves[wi]? = some v → v.launch = li →
        v.stoppedBrk = true → v.inHandler = false → ∃ x : Wave, u.waves[wi]? = some x ∧ x.stoppedBrk = false ∧
          ∀ l, l < v.lanes.length → x.lane l = if (v.lane l).status = .exited then v.lane l else { v.lane l with held := false }) ∧
      (op = 5 → arms (s.waveNamed li (field (w 2) 0 32) (field (w 2) 32 5))) ∧
      (op = 6 → done (.scoreboardSwitch t req) 0 [] fun u => ∀ (wi : Nat) (v : Wave), s.waves[wi]? = some v → u.waves[wi]? = some
        (if v.launch = li then { v with scoreboard := (w 2).getLsbD 0 || ((s.launches[li]?).map (·.cart.checkstall)).getD false } else v)) ∧
      (∀ bi (b : Block) n, op = 8 → s.blockAt li (w 2).toNat = some bi → s.blocks[bi]? = some b → b.evictedTo = some n →
        done (.mapGranuleImage t req) (BitVec.ofNat 64 n) [BitVec.ofNat 64 (s.imageCount b)] fun u => u = s)) ∧
    (s.launchIx t (w 1) = none → (op = 4 → tells (.debuggerAttach t req) 1) ∧ (op = 5 → (w 1).toNat < (s.tenant t).nextLaunch ∨ 2 ^ 63 ≤ (w 1).toNat → tells (.armInjection t req) 1) ∧
      (op = 6 → tells (.scoreboardSwitch t req) 1) ∧ (op = 8 → tells (.mapGranuleImage t req) 1)) ∧
    (∀ p, op = 7 → (s.tenant t).asids.contains (w 6).toNat = true →
      let body := (List.range 256).map Config.measurement ++ ((s.tenant t).objects.flatMap fun o => sha512 o.2.2) ++
        ((List.range 4).flatMap fun k => natLe 8 (w (k + 1)).toNat) ++ natLe 8 s.epoch ++ Config.serialNumber
      let quote := body ++ edSign ((List.range 32).map Config.deviceKey) (sha512 body)
      s.walk (w 6).toNat true (w 5).toNat quote.length .store = .ok p →
      done (.attestationQuote t req) (w 5) [] fun u => u = s.devWriteAt (w 5).toNat p quote ∧ u.waves = s.waves ∧ u.tenants = s.tenants) ∧
    (op = 32 → (s.createBad t req = true → tells (.create t req) 4) ∧
      (s.createBad t req = false → s.freeEpisode = none → tells (.create t req) 3) ∧
      ∀ e core f image, s.createBad t req = false → s.freeEpisode = some e →
        let w1 := w 1
        let first := field w1 24 12
        let size := 2 ^ (16 + field w1 20 4)
        s.fieldCore (first / 2048) = some core → s.freeFrames (framesOf size) (dieStacks (first / 2048)) = some f →
        s.devRead (field w1 0 16) true (w 2).toNat (w 3).toNat = .ok image → s.memOk →
        SMap.wf Episode.free s.episodes = true → SMap.wf [] s.runQueues = true →
        done (.create t req) (BitVec.ofNat 64 e) [] fun u =>
          let ep := u.episode e
          ep.state = 2 ∧ ep.tenant = t ∧ ep.core = core ∧ ep.firstMb = first ∧ ep.nmb = field w1 16 4 ∧ ep.wbase = 4096 * f ∧ ep.created = s.cyc ∧
          ep.pc = w 4 ∧ SMap.get 0 ep.regs 2 = BitVec.ofNat 64 size ∧ SMap.get 0 ep.regs 10 = 0x40000000 ∧ SMap.get 0 ep.regs 11 = w 5 ∧
          ep.stepLim = field (w 6) 0 32 ∧ ep.deadline = field (w 6) 32 32 ∧ u.runQueue core = s.runQueue core ++ [e] ∧
          (∀ k, k ≠ e → u.episode k = s.episode k) ∧
          ∀ a, Memory.get u.view0 a =
            if 4096 * f ≤ a ∧ a < 4096 * f + size then image.getD (a - 4096 * f) 0 else Memory.get s.view0 a) ∧
    (let e := (w 1).toNat
     (e < 4096 → (s.episode e).state ≠ 0 → (s.episode e).tenant = t →
      (op = 33 → (s.episode e).state = 2 → SMap.wf Episode.free s.episodes = true → done (.destroy t req) 0 [] fun u =>
        (u.episode e).state = 3 ∧ (u.episode e).reason = 5) ∧
      (op = 34 → done (.query t req) (BitVec.ofNat 64 ((s.episode e).state + (s.episode e).reason * 2 ^ 4 + (s.episode e).core * 2 ^ 8 +
        (s.episode e).exitCode.toNat % 2 ^ 32 * 2 ^ 32)) [] fun u => u = s)) ∧
     ((s.episode e).state = 0 → (op = 33 → tells (.destroy t req) 4) ∧ (op = 34 → tells (.query t req) 4)))

/-- R315, R336, R281, R164 and R311 (19, 20, 16, 08): the management commands. A tenant that is created holds its ASIDs
and quotas and finds its rings and a read-only gazetteer in each of its ASIDs; one that is destroyed holds nothing and
maps nothing; durable frames that move from another tenant read zero in every copy; the others set what they name.
READ_TELEMETRY answers with sensor values that the model leaves free (log entry 79). -/
def Obligations.ManagementCommands : Prop :=
  ∀ (s : State) (t core q slot key v first count watts : Nat) (r : TenantReq), SMap.wf Tenant.absent s.tenants = true →
    let x := s.tenant t
    (x.live = true → ∃ u, exec (.tenantCreate t none) s = .next u ∧ (u.tenant t).live = false ∧ (∀ p ∈ u.pages, p.asid ∉ x.asids) ∧
      (∀ c ∈ u.carts, c.tenant ≠ t) ∧ ∀ (li : Nat) (L : Launch), s.launches[li]? = some L → L.tenant = t → L.ended = false → ∀ i, i < L.blocks →
        ∃ (bi : Nat) (b : Block), u.blocks[bi]? = some b ∧ b.launch = li ∧ b.index = i ∧ b.state.isEnded = true) ∧
    (s.tenantOk t r = true → (∃ k, k < 12 ∧ s.absent.contains (4, k) = false ∧ ∀ f, f ∈ s.framesUsed ∨ f ∈ s.retiredFrames → f < (stackFrames k).1 ∨ (stackFrames k).1 + (stackFrames k).2 ≤ f) →
      ∃ u, exec (.tenantCreate t (some r)) s = .next u ∧ (u.tenant t).live = true ∧ (u.tenant t).asids = r.asids ∧
        (∀ c, c < 384 → SMap.get 0 (u.tenant t).qmax c = r.qmax) ∧ (u.tenant t).frames = x.frames ∧
        ∀ a ∈ r.asids, (∃ p ∈ u.pages, p.asid = a ∧ p.va = (u.tenant t).svcRing.base ∧ p.r = true ∧ p.w = true) ∧
          (∃ p ∈ u.pages, p.asid = a ∧ p.va = (u.tenant t).bindRing.base ∧ p.r = true ∧ p.w = true) ∧
          ∃ p ∈ u.pages, p.asid = a ∧ p.va = gazVa 1 ∧ p.r = true ∧ p.w = false) ∧
    (x.live = true → core < 384 → q ≤ 928 → exec (.setQmax t core q) s = .next { s with
      tenants := SMap.set Tenant.absent s.tenants t { x with qmax := SMap.set 0 x.qmax core q } }) ∧
    (x.live = true → slot < 8 → exec (.writeKeySlot t slot key) s = .next { s with
      tenants := SMap.set Tenant.absent s.tenants t { x with keys := SMap.set 0 x.keys slot key } }) ∧
    exec (.writeRaspol v) s = .next { s with raspol := BitVec.ofNat 4 v } ∧
    exec (.setPowerCap watts) s = .next { s with powerCap := watts } ∧
    (∃ sensors more, exec .readTelemetry s = .next { s with
      fresh := s.fresh + 1, answers := s.answers ++ [⟨64, 9, 0, sensors, more ++ [BitVec.ofNat 64 s.powerCap]⟩] }) ∧
    (x.live = true → first + count ≤ 2 ^ 28 → s.confirmedIn (durBase + 4096 * first) (4096 * count) = false →
      ∃ u, exec (.assignDurableFrames t first count) s = .next u ∧ ∀ f, first ≤ f → f < first + count → f ∈ (u.tenant t).frames ∧
        ∀ w, s.frameOwner f = some w → w ≠ t → f ∉ (u.tenant w).frames ∧
          ∀ a, durBase + 4096 * f ≤ a → a < durBase + 4096 * (f + 1) →
            Memory.get u.view0 a = 0 ∧ Memory.get u.view1 a = 0 ∧ Memory.get u.media a = 0)

/-- R238 to R240 (13): at a power failure the controllers stop at one value of CYC, which is kept with whether a launch
was running; a drain that ends whole leaves the media as accepted, and one that does not leaves each line either as the
media had it before the drain or with what the controllers had accepted for it. R338 (20): a power-up begins the next
epoch with durable memory in both dies' views. R339: THERMAL_TRIP. R337 (20): a module reset leaves the media and the
assignment of durable frames, and by R7 (00) CYC; a die reset ends the blocks of its die; a tenant reset ends the
tenant's launches and puts its special registers at their reset values, but for RECBASE, whose column holds a dash. -/
def Obligations.PowerAndResets : Prop :=
  ∀ (s : State) (t die : Nat), SMap.wf Tenant.absent s.tenants = true → s.memOk →
    let ended := fun (u : State) (li i : Nat) => ∃ (bi : Nat) (b : Block), u.blocks[bi]? = some b ∧ b.launch = li ∧ b.index = i ∧
      b.state.isEnded = true
    (s.power = .on → exec .powerFail s = .next { s with power := .failed, pfcyc := s.cyc, clean := s.recovery.isEmpty }) ∧
    (s.power = .on → exec .thermalTrip s = .next { s with power := .failed, pfcyc := s.cyc, clean := false, thermal := true }) ∧
    (s.power = .failed → exec (.durableDrainDone true) s = .next { s with
      fresh := s.fresh + 1, power := .drained, incomplete := false, accepted := [], mediaOld := s.media }) ∧
    (s.power = .failed → ∃ u, exec (.durableDrainDone false) s = .next u ∧ u.power = .drained ∧ u.incomplete = true ∧ u.mediaOld = u.media ∧
      { u with media := [], mediaOld := [], fresh := 0 } =
        { s with media := [], mediaOld := [], fresh := 0, power := .drained, incomplete := true, accepted := [] } ∧
      ∀ line, (∀ a, a / 64 = line → Memory.get u.media a = Memory.get s.mediaOld a) ∨
        ∀ a, a / 64 = line → Memory.get u.media a =
          match s.accepted.reverse.find? fun e => decide (e.pa ≤ a ∧ a < e.pa + e.bytes.length) with
          | some e => e.bytes.getD (a - e.pa) 0
          | none => Memory.get s.mediaOld a) ∧
    (s.power = .drained → ∃ u, exec .powerUp s = .next u ∧ u.power = .on ∧ u.cyc = 0 ∧ u.epoch = s.epoch + 1 ∧ u.pfcyc = s.pfcyc ∧
      u.clean = s.clean ∧ u.incomplete = s.incomplete ∧ u.media = s.media ∧ 2000000 ≤ u.holdupNs ∧ u.wbmax ≤ 64 * 2 ^ 20 ∧
      (∀ w ∈ u.waves, w.control = true) ∧ (∀ a, isDurable a = true → Memory.get u.view0 a = Memory.get s.media a ∧
        Memory.get u.view1 a = Memory.get s.media a) ∧
      ∀ k, (u.tenant k).live = (s.tenant k).live ∧ (u.tenant k).asids = (s.tenant k).asids ∧ (u.tenant k).frames = (s.tenant k).frames ∧
        (u.tenant k).keys = (s.tenant k).keys ∧ (u.tenant k).qmax = (s.tenant k).qmax) ∧
    (s.power = .on → ∃ u, exec .moduleReset s = .next u ∧ u.power = .on ∧ u.cyc = s.cyc ∧ u.absent = s.absent ∧ u.accepted = s.accepted ∧ u.waves = [] ∧ u.blocks = [] ∧ u.launches = [] ∧
      u.pages = [] ∧ u.carts = [] ∧ u.mailboxes = [] ∧ u.episodes = [] ∧ u.raspol = 0 ∧ u.media = s.media ∧ u.view0 = s.media ∧ u.view1 = s.media ∧
      u.epoch = s.epoch ∧ ∀ k, u.tenant k = { Tenant.absent with frames := (s.tenant k).frames }) ∧
    (s.power = .on → die < 2 → ∃ u, exec (.dieReset die) s = .next u ∧
      (∀ (bi : Nat) (b : Block), s.blocks[bi]? = some b → b.launch < s.launches.length → b.holds = true → dieOfCore b.core = die →
        ∃ c : Block, u.blocks[bi]? = some c ∧ c.state.isEnded = true) ∧
      (∀ w ∈ u.coreWrites, dieOfCore w.core ≠ die) ∧ (∀ r ∈ u.reqs, r.kind.isNotice = false → dieOfCore r.core ≠ die) ∧ (∀ l ∈ u.lines, l.l1 = true → dieOfCore l.unit ≠ die) ∧
      ((∀ e ∈ s.tenants, e.2.live = false) → ∀ a, homeDie a ≠ die → Memory.get (u.view die) a = Memory.get (u.view (1 - die)) a)) ∧
    (s.power = .on → (s.tenant t).live = true → ∃ u, exec (.tenantReset t) s = .next u ∧
      (∀ (li : Nat) (L : Launch), s.launches[li]? = some L → L.tenant = t → L.ended = false → ∀ i, i < L.blocks → ended u li i) ∧
      (let x := u.tenant t
       x.live = true ∧ x.tvec = 0 ∧ x.ctlq = Ring.off ∧ x.flog = Ring.off ∧ x.waitrep = true ∧ x.wdlog = 20 ∧ x.poolsaveBase = 0 ∧ x.poolsaveSize = 0 ∧
       x.recbase = (s.tenant t).recbase ∧ x.frames = (s.tenant t).frames ∧ x.objects = (s.tenant t).objects ∧ x.qmax = (s.tenant t).qmax ∧ x.floors = []) ∧ ∀ c, ∀ r ∈ SMap.get [] u.watchRegs c, r.tenant ≠ t)

/-- R229 (12): a host write goes to the view of each byte's home die, and a host read takes each byte from there. R100
(04) and R314 (19): BIND_SERVICE binds the cell of the request at HEAD to its symbol's target, its own object's or the
one of that name in another loaded object, or marks it failed; a cell that is bound or failed keeps what it holds. R357
(21): MIGRATION_PULL of the last line ends the page's migration. R332 (20): GAZETTEER_UPDATE raises an entry's sequence
by two around its new body. -/
def Obligations.HostAndChartCores : Prop :=
  ∀ (s : State) (t pa n asid va entry : Nat) (bytes : List Byte) (body : List Word),
    (s.power = .on → s.memOk → (∀ p ∈ s.pages, p.disc = none) → pa + bytes.length ≤ 2 ^ 64 → ∃ u, exec (.hostWrite pa bytes) s = .next u ∧
      (∀ a, Memory.get (u.view (homeDie a)) a =
        if pa ≤ a ∧ a < pa + bytes.length then bytes.getD (a - pa) 0 else Memory.get (s.view (homeDie a)) a) ∧
      (∀ a, Memory.get (u.view (1 - homeDie a)) a = Memory.get (s.view (1 - homeDie a)) a) ∧ u.waves = s.waves ∧ u.reqs = s.reqs) ∧
    (s.power = .on → ∃ data, exec (.hostRead pa n) s = .next { s with hostData := data } ∧ data.length = n ∧
      ∀ k, k < n → data.getD k 0 = Memory.get (s.view (homeDie (pa + k))) (pa + k)) ∧
    (∀ tail cell id word p,
      let x := s.tenant t
      let ring := x.bindRing
      let slot := ring.base + 128 * (1 + x.bindHead % (2 ^ ring.log2n - 1))
      x.live = true → ring.log2n ≠ 0 → s.ringWord ring (ring.base + 8) = some tail → x.bindHead < tail →
      s.ringWord ring slot = some cell → s.ringWord ring (slot + 8) = some id →
      let who := ((s.launches.find? fun L => decide (L.tenant = t ∧ L.id = id)).map (·.asid)).getD ring.asid
      let taken := fun (u : State) => (u.modTenant t fun y => { y with bindHead := y.bindHead + 1 }).ringPut ring ring.base (natLe 8 (x.bindHead + 1))
      let r := s.resolveSymbol t cell (leNat word / 4)
      let new := match r.2 with
        | some a => a / 4 * 4
        | none => leNat word / 4 * 4 + 3
      s.devRead who true cell 8 = .ok word →
      (leNat word % 4 = 0 ∨ leNat word % 4 = 3 → exec (.bindService t) s = .next (taken s)) ∧
      (leNat word % 4 = 1 ∨ leNat word % 4 = 2 → r.1.walk who true cell 8 .store = .ok p →
        ∃ w, r.1.devWrite who true cell (natLe 8 new) = .ok w ∧ exec (.bindService t) s = .next (taken w)) ∧
      (∀ o y, s.cellSymbol t cell (leNat word / 4) = some (o, y) →
        (y.defined = true → r = (s, some (placeOf o.1 o.2.1 y.value))) ∧
        (∀ a, y.defined = false → s.definedAt t y.name = some a → r = (s, some a)))) ∧
    (∀ p old ls, s.page? asid va = some p → p.mig = some (old, ls) → (va - p.va) / 64 ∈ ls →
      let rest := ls.filter fun k => decide (k ≠ (va - p.va) / 64)
      ∃ u, exec (.migrationPull asid va) s = .next u ∧ u.view0 = s.view0 ∧ u.view1 = s.view1 ∧ u.waves = s.waves ∧
        (p.kind = 0 → { p with mig := if rest = [] then none else some (old, rest) } ∈ u.pages) ∧
        ∀ q ∈ s.pages, q.kind ≠ 0 ∨ q.pa ≠ p.pa → q ∈ u.pages) ∧
    (let id := entry % 16
     (s.tenant (entry / 16)).live = true → 1 ≤ id → id ≤ 7 → (1 < id → body = s.gazBody (entry / 16) id) →
     SMap.wf 0 s.gazetteerSeq = true → SMap.wf [] s.gazetteer = true → ∃ u, exec (.gazetteerUpdate entry body) s = .next u ∧
       SMap.get [] u.gazetteer entry = body ∧ SMap.get 0 u.gazetteerSeq entry = SMap.get 0 s.gazetteerSeq entry + 2 ∧ u.waves = s.waves)

/-- R43 and R45 to R53 (02), R16 and R23 to R30 (01): encoding and decoding agree, for every well-formed instruction
with every operand its word admits, and for every word that decodes. -/
def Obligations.EncodeAndDecodeAgree : Prop :=
  (∀ (i : Instr) (w : Nat), i.wf = true → encode i = some w → w < 2 ^ 96 ∧ decodeTableWord 96 w = some i) ∧
  ∀ (i : Instr) (w : Nat), decodeTableWord 96 w = some i → i.wf = true ∧ encode i = some w

/-- R54 and R58 (02): a word of a wave stream with an unassigned op is illegal for reason 1, of group 0xC for reason 2,
with set flag 12, 13 or 14 for reason 3, in this order; a word of the matrix stream with an op outside 0x300 to 0x307
for reason 0xA, and with other bits [79:51] than the fixed pattern for reason 0xB. -/
def Obligations.ReservedWordsAreIllegal : Prop :=
  ∀ w : Nat, w < 2 ^ 96 →
    let op := w / 2 ^ 86
    let flag := w / 2 ^ 56 % 16
    let stream := 0x300 ≤ op ∧ op ≤ 0x307
    let assigned := op ≤ 0x00F ∨ (0x040 ≤ op ∧ op ≤ 0x054) ∨ (0x080 ≤ op ∧ op ≤ 0x089) ∨ (0x0C0 ≤ op ∧ op ≤ 0x0C8) ∨
      (0x100 ≤ op ∧ op ≤ 0x109) ∨ (0x140 ≤ op ∧ op ≤ 0x151) ∨ (0x180 ≤ op ∧ op ≤ 0x189) ∨ (0x1C0 ≤ op ∧ op ≤ 0x1C4) ∨
      (0x200 ≤ op ∧ op ≤ 0x205) ∨ (0x240 ≤ op ∧ op ≤ 0x246) ∨ (0x280 ≤ op ∧ op ≤ 0x28D) ∨ (0x2C0 ≤ op ∧ op ≤ 0x2CC) ∨ stream ∨
      (0x340 ≤ op ∧ op ≤ 0x349) ∨ (0x380 ≤ op ∧ op ≤ 0x389)
    (¬ assigned → decodeWave w = .illegal 1) ∧ (stream → decodeWave w = .illegal 2) ∧
    (assigned → ¬ stream → 12 ≤ flag → flag ≤ 14 → decodeWave w = .illegal 3) ∧
    (¬ stream → decodeStream w = .illegal 0xA) ∧
    (stream → w / 2 ^ 51 % 2 ^ 29 ≠ 7 * 2 ^ 25 + 15 * 2 ^ 5 → decodeStream w = .illegal 0xB)

/-- R337 and R338 (20), R3 (00): after reset CYC is 0, the power is on, and no launch, block, wave, tenant, page,
mailbox or episode exists; RASPOL is zero. That memory then reads zero is the model's choice (log entry 4). The
invariants of the step hold. -/
def Obligations.ResetState : Prop :=
  let s := State.reset
  s.cyc = 0 ∧ s.power = .on ∧ s.waves = [] ∧ s.blocks = [] ∧ s.launches = [] ∧ s.carts = [] ∧ s.pages = [] ∧ s.lines = [] ∧ s.raspol = 0 ∧
  s.reqs = [] ∧ s.coreWrites = [] ∧ s.atomics = [] ∧ (∀ t, s.tenant t = Tenant.absent) ∧ (∀ k, s.mb k = Mailbox.unbound) ∧
  (∀ e, (s.episode e).state = 0) ∧ Tenant.absent.waitrep = true ∧ Tenant.absent.wdlog = 20 ∧ Tenant.absent.tvec = 0 ∧
  Tenant.absent.recbase = 0 ∧ (∀ a die, Memory.get (s.view die) a = 0 ∧ Memory.get s.media a = 0) ∧ s.memOk ∧ s.tidy

/-- The memories of both dies and the media keep their canonical form over every step, whatever it does. -/
def Obligations.StepsKeepMemoriesCanonical : Prop :=
  ∀ s t : State, s.memOk → step s = .next t → t.memOk

/-- Every step keeps the tables of the device, the registers, lanes and results of its waves, and the slots and
scratchpads of its blocks in the form that the other statements assume. -/
def Obligations.StepsKeepTablesCanonical : Prop :=
  ∀ s t : State, s.tidy → step s = .next t → t.tidy

/-- R13, R14, R54 (01, 02), R193 (10): where no input and no event of the device is due and no other wave is able to
issue, the step runs the word at the PC of the selected cohort of a quadrant that no power cap makes skip the cycle
(20: R339): an instruction as exec has it, with the fills its fill field asks for; an illegal word traps with its
reason and its three parts. R247 (14): a sequencer's word likewise. An input that is due comes first, and with nothing
to issue the cycle ends. -/
def Obligations.StepsRunTheDecodedInstruction : Prop :=
  ∀ s : State,
    let quiet := s.dueInput = none ∧ s.power = .on ∧ s.internal = none
    let idle := fun (j : Nat) => ∀ v : Wave, s.waves[j]? = some v → v.resident = true →
      s.find v v.select = .nothing ∨ s.find v v.select = .held
    (∀ (wi : Nat) (w : Wave) (x : Nat), quiet → s.waves[wi]? = some w → s.waveRuns w = true → w.select ≠ 0 → w.quadrant < 4 →
      w.pcOf w.select % 4 = 0 → s.waveWord w (w.pcOf w.select) = .ok x → w.heldBy w.select x s.cyc = false → w.preempt = none →
      (∀ j, j ≠ wi → idle j) → (∀ v ∈ s.waves, v.replay = []) → 4 * w.core + w.quadrant ∉ s.issuedQ → s.skips (4 * w.core + w.quadrant) = false →
      let at_ := { s with cur := wi, curLanes := w.select }
      (∀ i v, decodeWave x = .ok i → i.view = some v → w.fullFor w.select x = false → w.needs w.select i = [] →
        step s = (match exec i at_ with
          | .next t => .next (if s.issuedQ.length < t.issuedQ.length then t.hintFills wi w.select (w.pcOf w.select) i else t)
          | o => o) ∧
        (v.hdr.fill = 0 → step s = exec i at_)) ∧
      (∀ r, decodeWave x = .illegal r → step s = .next (at_.raise wi ⟨w.select, 0x00, false,
        [BitVec.ofNat 64 r, BitVec.ofNat 64 (fld x 0 32), BitVec.ofNat 64 (fld x 32 32), BitVec.ofNat 64 (fld x 64 32)]⟩))) ∧
    (∀ (bi : Nat) (b : Block) (x : Nat) (i : Instr), quiet → (∀ j, idle j) → s.blocks[bi]? = some b → s.streamRuns b = true →
      s.streamFetch b = .ok x → decodeStream x = .ok i → s.streamReady b i = true → 1536 + bi ∉ s.issuedQ →
      (∀ j, j < bi → ∀ c : Block, s.blocks[j]? = some c → s.streamInstr c = none) →
      step s = exec i { s with curBlock := bi, issuedQ := s.issuedQ ++ [1536 + bi] }) ∧
    (∀ c i t, s.dueInput = some (c, i) → exec i { s with inputs := s.inputs.erase (c, i), curLanes := 0 } = .next t →
      ∃ u, step s = .next u ∧ { u with journal := [] } = { t with journal := [] }) ∧
    (quiet → (∀ j, idle j) → (∀ b ∈ s.blocks, s.streamInstr b = none) → ∃ u, step s = .next u ∧ u.cyc = s.cyc + 1 ∧ u.issuedQ = [])

/-- R197 (10) and R183 (09): outside runs, yields and replays, and in a cycle in which a cohort has passed its slot, a
wave's selected cohort is every ready lane at the lowest PC of the ready lanes; in a fairness run it is the part of the
running cohort with the lowest PC, with those that merged; after a yield it is a most-starved other cohort. R193 (10):
the wave chosen in a quadrant has the highest class, then the oldest last issue, then the lowest slot; R200 (10): while
a replay goes on it is the one whose next instruction was recorded first. -/
def Obligations.CohortsAndWavesAreChosen : Prop :=
  (∀ w : Wave, w.lanes.length = 32 → w.replay = [] →
    let ready := fun l => l < 32 ∧ (w.lane l).isReady = true
    let least := fun (within : Nat → Prop) (p : Nat) => (∃ l, within l ∧ ready l ∧ (w.lane l).pc = p) ∧ ∀ l, within l → ready l → p ≤ (w.lane l).pc
    let cohort := fun (p : Nat) => ∀ l, l < 32 → (w.select.getLsbD l = true ↔ ready l ∧ (w.lane l).pc = p)
    ((w.fair = none ∧ w.yielding = none) ∨ w.slotPassed = true → ∀ p, least (fun _ => True) p → cohort p) ∧
    (∀ m n p, w.slotPassed = false → w.fair = some (m, n) → least (fun l => m.getLsbD l = true) p → cohort p) ∧
    (∀ m, w.slotPassed = false → w.fair = none → w.yielding = some m →
      let other := fun l => ready l ∧ ∀ j, ready j → (w.lane j).pc = (w.lane l).pc → m.getLsbD j = false
      (∃ l, other l) → ∃ p, cohort p ∧ (∃ l, other l ∧ (w.lane l).pc = p) ∧
        ∀ l, other l → ∃ j, ready j ∧ (w.lane j).pc = p ∧ (w.lane l).starve ≤ (w.lane j).starve)) ∧
  ∀ (s : State) (core q wi : Nat) (m : LaneMask) (i : Instr), s.choose core q = some (wi, m, i) →
    ∃ w : Wave, s.waves[wi]? = some w ∧ w.core = core ∧ w.quadrant = q ∧ m = w.select ∧ s.find w m = .instr i ∧
      (∀ (j : Nat) (v : Wave) (k : Nat) (c : LaneMask) (rest : List (Nat × LaneMask)), s.waves[j]? = some v → v.resident = true → v.core = core →
        v.quadrant = q → v.replay = (k, c) :: rest → ∃ k' c' rest', w.replay = (k', c') :: rest' ∧ k' ≤ k) ∧
      ((∀ v ∈ s.waves, v.replay = []) →
        ∀ (j : Nat) (v : Wave) (k : Instr), s.waves[j]? = some v → v.resident = true → v.core = core → v.quadrant = q → s.find v v.select = .instr k →
          v.effClass < w.effClass ∨ (v.effClass = w.effClass ∧
            (w.lastIssue = none ∧ v.lastIssue ≠ none ∨ (∃ a b, w.lastIssue = some a ∧ v.lastIssue = some b ∧ a < b) ∨
              (w.lastIssue = v.lastIssue ∧ w.slot ≤ v.slot))))

/-- R16 and R24 to R30 (01), R43 to R53 (02): some words and what they stand for, each written from the places of its
fields; the first is the example of the instruction word's chapter. -/
def Obligations.DecodedWords : Prop :=
  let plain : Hdr := ⟨false, 7, 0, 0, none, false, false, false, false, false, 0⟩
  let top := fun (op mod : Nat) => op * 2 ^ 86 + mod * 2 ^ 80 + 7 * 2 ^ 76 + 15 * 2 ^ 56
  let unused := 0xC00
  decodeTableWord 96 0x508192008430050040048051 =
    some (.ffma ⟨true, 1, 2, 8, some 4, false, false, true, true, false, 1⟩ ⟨.rne, .f32⟩ (.v 10) (.v 8) (.v 9) (.v 10)) ∧
  decodeTableWord 96 (top 0x000 0x05 + 1 * 2 ^ 39 + 0x403 * 2 ^ 27 + 2 * 2 ^ 15 + unused * 2 ^ 3) = some (.iadd plain ⟨.u64, true⟩ (.v 1) (.w 3) (.v 2)) ∧
  decodeTableWord 96 (top 0x080 0x13 + 0x801 * 2 ^ 39 + 3 * 2 ^ 27 + 0xA05 * 2 ^ 15 + 0x807 * 2 ^ 3) =
    some (.isetp plain ⟨.lt, .u32⟩ (.p 1) (.v 3) (.small 5) (.p 7)) ∧
  decodeTableWord 96 (top 0x0C0 0 + unused * 2 ^ 39 + (2 ^ 32 - 6) * 2 ^ 7) = some (.bra plain (-6)) ∧
  decodeTableWord 96 (top 0x102 0 + 1 * 2 ^ 39 + unused * 2 ^ 27 + (2 ^ 27 - 1)) = some (.movi plain (.v 1) (-1)) ∧
  decodeTableWord 96 (top 0x240 0x1E + 2 * 2 ^ 39 + 4 * 2 ^ 27 + unused * 2 ^ 15 + 8) = some (.ld plain ⟨3, true, .b32⟩ (.v 2) (.v 4) .none 8) ∧
  decodeTableWord 96 (top 0x280 0x2B + 2 * 2 ^ 39 + 4 * 2 ^ 27 + 6 * 2 ^ 15 + unused * 2 ^ 3) =
    some (.atomAdd plain ⟨.dev, .acq, true⟩ (.v 2) (.v 4) (.v 6)) ∧
  decodeTableWord 96 (top 0x303 0x01 + 0x20 * 2 ^ 39 + 0x403 * 2 ^ 27 + 0x404 * 2 ^ 15 + 0xA02 * 2 ^ 3) =
    some (.mma .k8 (.v 32) (.w 3) (.w 4) (.small 2)) ∧
  decodeTableWord 96 (top 0x342 0 + 5 * 2 ^ 39 + unused * 2 ^ 27 + 0x010) = some (.srd plain (.v 5) 0x010)
end

