-- ==== Sys2Proof/Laws/Memory.lean ====
section
/-! SUPPORT. Sorted tables and memory: what a write does to every read, and that every operation on a memory keeps
its canonical form. -/

namespace Sys2Proof

variable {α : Type} [DecidableEq α] {d : α}

/-! ### The canonical form -/

theorem SMap.wfAbove_iff (lo : Option Nat) (m : SMap α) :
    SMap.wfAbove d lo m = true ↔
      (∀ e ∈ m, ∀ l ∈ lo, l < e.1) ∧ m.Pairwise (fun a b => a.1 < b.1) ∧ ∀ e ∈ m, e.2 ≠ d := by
  induction m generalizing lo with
  | nil => simp [SMap.wfAbove]
  | cons e rest ih =>
    obtain ⟨k, v⟩ := e
    simp only [SMap.wfAbove, Bool.and_eq_true, decide_eq_true_eq, ih, List.mem_cons, forall_eq_or_imp,
      List.pairwise_cons, Option.mem_def, Option.some.injEq, forall_eq']
    cases lo with
    | none => simp; tauto
    | some l =>
      simp only [decide_eq_true_eq, Option.some.injEq, forall_eq']
      constructor
      · rintro ⟨⟨h1, h2⟩, h3, h4, h5⟩
        exact ⟨⟨h1, fun e he => lt_trans h1 (h3 e he)⟩, ⟨h3, h4⟩, h2, h5⟩
      · rintro ⟨⟨h1, _⟩, ⟨h3, h4⟩, h2, h5⟩
        exact ⟨⟨h1, h2⟩, h3, h4, h5⟩

theorem SMap.wf_iff (m : SMap α) :
    SMap.wf d m = true ↔ m.Pairwise (fun a b => a.1 < b.1) ∧ ∀ e ∈ m, e.2 ≠ d := by
  simp [SMap.wf, SMap.wfAbove_iff]

theorem SMap.wf_filter {m : SMap α} (h : SMap.wf d m = true) (p : Nat × α → Bool) : SMap.wf d (m.filter p) = true := by
  rw [SMap.wf_iff] at h ⊢
  exact ⟨h.1.filter p, fun e he => h.2 e (List.mem_filter.1 he).1⟩

theorem SMap.mem_set {m : SMap α} {i : Nat} {v : α} {e : Nat × α} (h : e ∈ SMap.set d m i v) :
    e ∈ m ∨ (e = (i, v) ∧ v ≠ d) := by
  induction m with
  | nil =>
    simp only [SMap.set] at h
    split at h
    · simp at h
    · simp at h; exact .inr ⟨h, ‹_›⟩
  | cons x rest ih =>
    obtain ⟨k, w⟩ := x
    simp only [SMap.set] at h
    split at h
    · split at h
      · exact .inl (List.mem_cons_of_mem _ h)
      · rename_i hk hv
        rcases List.mem_cons.1 h with h | h
        · exact .inr ⟨by rw [h, hk], hv⟩
        · exact .inl (List.mem_cons_of_mem _ h)
    · split at h
      · split at h
        · exact .inl h
        · rcases List.mem_cons.1 h with h | h
          · exact .inr ⟨h, ‹_›⟩
          · exact .inl h
      · rcases List.mem_cons.1 h with h | h
        · exact .inl (h ▸ List.mem_cons_self)
        · rcases ih h with h | h
          · exact .inl (List.mem_cons_of_mem _ h)
          · exact .inr h

theorem SMap.wf_set {m : SMap α} (h : SMap.wf d m = true) (i : Nat) (v : α) : SMap.wf d (SMap.set d m i v) = true := by
  rw [SMap.wf_iff] at h ⊢
  refine ⟨?_, fun e he => ?_⟩
  · induction m with
    | nil => simp only [SMap.set]; split <;> simp
    | cons x rest ih =>
      obtain ⟨k, w⟩ := x
      obtain ⟨hp, hv⟩ := h
      rw [List.pairwise_cons] at hp
      simp only [SMap.set]
      split
      · split
        · exact hp.2
        · exact List.pairwise_cons.2 hp
      · split
        · split
          · exact List.pairwise_cons.2 hp
          · rename_i hlt _
            refine List.pairwise_cons.2 ⟨fun e he => ?_, List.pairwise_cons.2 hp⟩
            rcases List.mem_cons.1 he with he | he
            · exact he ▸ hlt
            · exact lt_trans hlt (hp.1 e he)
        · rename_i hne hlt
          refine List.pairwise_cons.2 ⟨fun e he => ?_, ih ⟨hp.2, fun e he => hv e (List.mem_cons_of_mem _ he)⟩⟩
          rcases SMap.mem_set he with he | ⟨he, _⟩
          · exact hp.1 e he
          · rw [he]; exact lt_of_le_of_ne (not_lt.1 hlt) (Ne.symm hne)
  · rcases SMap.mem_set he with he | ⟨he, hv⟩
    · exact h.2 e he
    · rw [he]; exact hv

omit [DecidableEq α] in
/-- A read below every key gives the default. -/
theorem SMap.get_below {m : SMap α} {i : Nat} (h : ∀ e ∈ m, i < e.1) : SMap.get d m i = d := by
  cases m with
  | nil => rfl
  | cons x rest =>
    obtain ⟨k, v⟩ := x
    have hk : i < k := h (k, v) List.mem_cons_self
    simp [SMap.get, Nat.ne_of_lt hk, hk]

/-- A read after a write at the place the value, elsewhere what stood. -/
theorem SMap.get_set {m : SMap α} (h : SMap.wf d m = true) (i j : Nat) (v : α) :
    SMap.get d (SMap.set d m i v) j = if j = i then v else SMap.get d m j := by
  rw [SMap.wf_iff] at h
  induction m with
  | nil =>
    simp only [SMap.set]
    split
    · rename_i hv; simp [SMap.get, hv]
    · simp only [SMap.get]; split <;> simp_all
  | cons x rest ih =>
    obtain ⟨k, w⟩ := x
    obtain ⟨hp, hv⟩ := h
    rw [List.pairwise_cons] at hp
    have hi := ih ⟨hp.2, fun e he => hv e (List.mem_cons_of_mem _ he)⟩
    simp only [SMap.set]
    split
    · rename_i hik
      subst hik
      split
      · rename_i hd
        by_cases hj : j = i
        · subst hj; simp only [if_true]; rw [hd]; exact SMap.get_below fun e he => hp.1 e he
        · simp only [hj, if_false, SMap.get]
          split
          · exact SMap.get_below fun e he => lt_trans ‹_› (hp.1 e he)
          · rfl
      · by_cases hj : j = i
        · simp [SMap.get, hj]
        · simp [SMap.get, hj]
    · rename_i hik
      split
      · rename_i hlt
        split
        · rename_i hd
          by_cases hj : j = i
          · subst hj; simp [SMap.get, hik, hlt, hd]
          · simp [hj]
        · by_cases hj : j = i
          · subst hj; simp [SMap.get]
          · simp only [hj, if_false]
            rw [SMap.get.eq_2]
            simp only [hj, if_false]
            split
            · have : j < k := lt_trans ‹_› hlt
              simp [SMap.get, Nat.ne_of_lt this, this]
            · rfl
      · rename_i hlt
        have hki : k < i := lt_of_le_of_ne (not_lt.1 hlt) (Ne.symm hik)
        by_cases hj : j = i
        · subst hj
          simp only [SMap.get, hik, if_false, hlt, if_true] at hi ⊢
          exact hi
        · simp only [SMap.get, hi, hj, if_false]

namespace Machine

theorem Memory.wf_empty : Memory.wf [] = true := rfl

theorem Memory.wf_set {m : Memory} (h : m.wf = true) (a : Nat) (b : Byte) : (m.set a b).wf = true := SMap.wf_set h a b

theorem Memory.wf_filter {m : Memory} (h : m.wf = true) (p : Nat × Byte → Bool) : Memory.wf (m.filter p) = true :=
  SMap.wf_filter h p

theorem Memory.wf_write {m : Memory} (h : m.wf = true) (a : Nat) (bs : List Byte) : (m.write a bs).wf = true := by
  induction bs generalizing m a with
  | nil => exact h
  | cons b rest ih => exact ih (Memory.wf_set h a b) (a + 1)

theorem Memory.wf_zeroRange {m : Memory} (h : m.wf = true) (a n : Nat) : (m.zeroRange a n).wf = true := Memory.wf_filter h _

/-- Setting the places of a list one after another keeps the form. -/
theorem Memory.wf_foldl_set {m : Memory} (h : m.wf = true) (l : List (Nat × Byte)) (f : Nat → Nat) :
    Memory.wf (l.foldl (fun (x : Memory) e => Memory.set x (f e.1) e.2) m) = true := by
  induction l generalizing m with
  | nil => exact h
  | cons e rest ih => exact ih (Memory.wf_set h _ _)

theorem Memory.wf_moveRange {m : Memory} (h : m.wf = true) (old new n : Nat) : (m.moveRange old new n).wf = true :=
  Memory.wf_foldl_set h _ fun a => a - old + new

theorem remoteMerge_wf (s : State) (die clock : Nat) {m : Memory} (h : m.wf = true) (a : Nat) (bs : List Byte) :
    (remoteMerge s die clock m a bs).wf = true := by
  induction bs generalizing m a with
  | nil => exact h
  | cons b rest ih =>
    simp only [remoteMerge]
    split
    · exact ih h _
    · exact ih (Memory.wf_set h _ _) _

theorem Memory.get_set {m : Memory} (h : m.wf = true) (a c : Nat) (b : Byte) :
    (m.set a b).get c = if c = a then b else m.get c := SMap.get_set h a c b

/-- A read after a write of bytes: inside them the byte written, outside what stood. -/
theorem Memory.get_write {m : Memory} (h : m.wf = true) (a : Nat) (bs : List Byte) (c : Nat) :
    (m.write a bs).get c = if a ≤ c ∧ c < a + bs.length then bs.getD (c - a) 0 else m.get c := by
  induction bs generalizing m a with
  | nil => simp [Memory.write]
  | cons b rest ih =>
    simp only [Memory.write, ih (Memory.wf_set h a b), Memory.get_set h, List.length_cons]
    by_cases h1 : c = a
    · subst h1; simp
    · by_cases h2 : a + 1 ≤ c ∧ c < a + 1 + rest.length
      · have h3 : a ≤ c ∧ c < a + (rest.length + 1) := by omega
        have h4 : c - a = (c - (a + 1)) + 1 := by omega
        simp only [h2, h3, and_self, if_true, h4, List.getD_cons_succ]
      · have h3 : ¬ (a ≤ c ∧ c < a + (rest.length + 1)) := by omega
        simp only [h2, h3, if_false, h1]

theorem Memory.get_zeroRange_outside {m : Memory} (h : m.wf = true) {a n c : Nat} (hc : c < a ∨ a + n ≤ c) :
    (m.zeroRange a n).get c = m.get c := by
  have key : ∀ (l : Memory), l.wf = true → SMap.get (0 : Byte) (l.zeroRange a n) c = SMap.get 0 l c := by
    intro l
    induction l with
    | nil => intro; rfl
    | cons e rest ih =>
      intro hl
      obtain ⟨k, v⟩ := e
      have hl' := hl
      rw [Memory.wf, SMap.wf_iff, List.pairwise_cons] at hl'
      have hr : Memory.wf rest = true := by
        rw [Memory.wf, SMap.wf_iff]; exact ⟨hl'.1.2, fun e he => hl'.2 e (List.mem_cons_of_mem _ he)⟩
      have hi := ih hr
      unfold Memory.zeroRange at hi ⊢
      by_cases hk : k < a ∨ a + n ≤ k
      · simp only [List.filter_cons, hk, decide_true, if_true, SMap.get, hi]
      · simp only [List.filter_cons, hk, decide_false, Bool.false_eq_true, if_false, SMap.get, hi]
        have hne : c ≠ k := by omega
        simp only [hne, if_false]
        split
        · exact SMap.get_below fun e he => lt_trans ‹_› (hl'.1.1 e he)
        · rfl
  exact key m h

end Machine
end Sys2Proof
end

