-- ==== Sys2Proof/Laws/State.lean ====
section
/-! SUPPORT. What each shared update of the state leaves in each field. -/

namespace Sys2Proof.Machine

/-! ### bump -/

@[simp] theorem State.bump_cyc (s : State) : s.bump.cyc = s.cyc := rfl
@[simp] theorem State.bump_waves (s : State) : s.bump.waves = s.waves := rfl
@[simp] theorem State.bump_blocks (s : State) : s.bump.blocks = s.blocks := rfl
@[simp] theorem State.bump_launches (s : State) : s.bump.launches = s.launches := rfl
@[simp] theorem State.bump_carts (s : State) : s.bump.carts = s.carts := rfl
@[simp] theorem State.bump_tenants (s : State) : s.bump.tenants = s.tenants := rfl
@[simp] theorem State.bump_pipes (s : State) : s.bump.pipes = s.pipes := rfl
@[simp] theorem State.bump_groupStates (s : State) : s.bump.groupStates = s.groupStates := rfl
@[simp] theorem State.bump_headSince (s : State) : s.bump.headSince = s.headSince := rfl
@[simp] theorem State.bump_tasks (s : State) : s.bump.tasks = s.tasks := rfl
@[simp] theorem State.bump_view0 (s : State) : s.bump.view0 = s.view0 := rfl
@[simp] theorem State.bump_view1 (s : State) : s.bump.view1 = s.view1 := rfl
@[simp] theorem State.bump_own0 (s : State) : s.bump.own0 = s.own0 := rfl
@[simp] theorem State.bump_own1 (s : State) : s.bump.own1 = s.own1 := rfl
@[simp] theorem State.bump_clock00 (s : State) : s.bump.clock00 = s.clock00 := rfl
@[simp] theorem State.bump_clock01 (s : State) : s.bump.clock01 = s.clock01 := rfl
@[simp] theorem State.bump_clock10 (s : State) : s.bump.clock10 = s.clock10 := rfl
@[simp] theorem State.bump_clock11 (s : State) : s.bump.clock11 = s.clock11 := rfl
@[simp] theorem State.bump_reqs (s : State) : s.bump.reqs = s.reqs := rfl
@[simp] theorem State.bump_coreWrites (s : State) : s.bump.coreWrites = s.coreWrites := rfl
@[simp] theorem State.bump_linkWrites (s : State) : s.bump.linkWrites = s.linkWrites := rfl
@[simp] theorem State.bump_atomics (s : State) : s.bump.atomics = s.atomics := rfl
@[simp] theorem State.bump_durQueue (s : State) : s.bump.durQueue = s.durQueue := rfl
@[simp] theorem State.bump_media (s : State) : s.bump.media = s.media := rfl
@[simp] theorem State.bump_mediaOld (s : State) : s.bump.mediaOld = s.mediaOld := rfl
@[simp] theorem State.bump_accepted (s : State) : s.bump.accepted = s.accepted := rfl
@[simp] theorem State.bump_hostQueue (s : State) : s.bump.hostQueue = s.hostQueue := rfl
@[simp] theorem State.bump_shown (s : State) : s.bump.shown = s.shown := rfl
@[simp] theorem State.bump_engineUsed (s : State) : s.bump.engineUsed = s.engineUsed := rfl
@[simp] theorem State.bump_headersUsed (s : State) : s.bump.headersUsed = s.headersUsed := rfl
@[simp] theorem State.bump_evictFree (s : State) : s.bump.evictFree = s.evictFree := rfl
@[simp] theorem State.bump_absent (s : State) : s.bump.absent = s.absent := rfl
@[simp] theorem State.bump_checking (s : State) : s.bump.checking = s.checking := rfl
@[simp] theorem State.bump_l2Off (s : State) : s.bump.l2Off = s.l2Off := rfl
@[simp] theorem State.bump_outcomes (s : State) : s.bump.outcomes = s.outcomes := rfl
@[simp] theorem State.bump_wbmax (s : State) : s.bump.wbmax = s.wbmax := rfl
@[simp] theorem State.bump_holdupNs (s : State) : s.bump.holdupNs = s.holdupNs := rfl
@[simp] theorem State.bump_pages (s : State) : s.bump.pages = s.pages := rfl
@[simp] theorem State.bump_lines (s : State) : s.bump.lines = s.lines := rfl
@[simp] theorem State.bump_deferred (s : State) : s.bump.deferred = s.deferred := rfl
@[simp] theorem State.bump_framesUsed (s : State) : s.bump.framesUsed = s.framesUsed := rfl
@[simp] theorem State.bump_retiredFrames (s : State) : s.bump.retiredFrames = s.retiredFrames := rfl
@[simp] theorem State.bump_poolQueue (s : State) : s.bump.poolQueue = s.poolQueue := rfl
@[simp] theorem State.bump_fencedGranules (s : State) : s.bump.fencedGranules = s.fencedGranules := rfl
@[simp] theorem State.bump_copies (s : State) : s.bump.copies = s.copies := rfl
@[simp] theorem State.bump_watchRegs (s : State) : s.bump.watchRegs = s.watchRegs := rfl
@[simp] theorem State.bump_preempts (s : State) : s.bump.preempts = s.preempts := rfl
@[simp] theorem State.bump_heldWakes (s : State) : s.bump.heldWakes = s.heldWakes := rfl
@[simp] theorem State.bump_mailboxes (s : State) : s.bump.mailboxes = s.mailboxes := rfl
@[simp] theorem State.bump_episodes (s : State) : s.bump.episodes = s.episodes := rfl
@[simp] theorem State.bump_runQueues (s : State) : s.bump.runQueues = s.runQueues := rfl
@[simp] theorem State.bump_groups (s : State) : s.bump.groups = s.groups := rfl
@[simp] theorem State.bump_windows (s : State) : s.bump.windows = s.windows := rfl
@[simp] theorem State.bump_collectives (s : State) : s.bump.collectives = s.collectives := rfl
@[simp] theorem State.bump_injections (s : State) : s.bump.injections = s.injections := rfl
@[simp] theorem State.bump_raspol (s : State) : s.bump.raspol = s.raspol := rfl
@[simp] theorem State.bump_fenced (s : State) : s.bump.fenced = s.fenced := rfl
@[simp] theorem State.bump_marked (s : State) : s.bump.marked = s.marked := rfl
@[simp] theorem State.bump_journal (s : State) : s.bump.journal = s.journal := rfl
@[simp] theorem State.bump_seqJournal (s : State) : s.bump.seqJournal = s.seqJournal := rfl
@[simp] theorem State.bump_landed (s : State) : s.bump.landed = s.landed := rfl
@[simp] theorem State.bump_taken (s : State) : s.bump.taken = s.taken := rfl
@[simp] theorem State.bump_recovery (s : State) : s.bump.recovery = s.recovery := rfl
@[simp] theorem State.bump_epoch (s : State) : s.bump.epoch = s.epoch := rfl
@[simp] theorem State.bump_pfcyc (s : State) : s.bump.pfcyc = s.pfcyc := rfl
@[simp] theorem State.bump_clean (s : State) : s.bump.clean = s.clean := rfl
@[simp] theorem State.bump_incomplete (s : State) : s.bump.incomplete = s.incomplete := rfl
@[simp] theorem State.bump_power (s : State) : s.bump.power = s.power := rfl
@[simp] theorem State.bump_powerCap (s : State) : s.bump.powerCap = s.powerCap := rfl
@[simp] theorem State.bump_thermal (s : State) : s.bump.thermal = s.thermal := rfl
@[simp] theorem State.bump_chartLog (s : State) : s.bump.chartLog = s.chartLog := rfl
@[simp] theorem State.bump_answers (s : State) : s.bump.answers = s.answers := rfl
@[simp] theorem State.bump_hostData (s : State) : s.bump.hostData = s.hostData := rfl
@[simp] theorem State.bump_gazetteer (s : State) : s.bump.gazetteer = s.gazetteer := rfl
@[simp] theorem State.bump_gazetteerSeq (s : State) : s.bump.gazetteerSeq = s.gazetteerSeq := rfl
@[simp] theorem State.bump_cur (s : State) : s.bump.cur = s.cur := rfl
@[simp] theorem State.bump_curLanes (s : State) : s.bump.curLanes = s.curLanes := rfl
@[simp] theorem State.bump_curBlock (s : State) : s.bump.curBlock = s.curBlock := rfl
@[simp] theorem State.bump_inputs (s : State) : s.bump.inputs = s.inputs := rfl
@[simp] theorem State.bump_fresh (s : State) : s.bump.fresh = s.fresh + 1 := rfl
@[simp] theorem State.bump_issuedQ (s : State) : s.bump.issuedQ = s.issuedQ := rfl

/-! ### setWave -/

@[simp] theorem State.setWave_cyc (s : State) (i : Nat) (w : Wave) : (s.setWave i w).cyc = s.cyc := rfl
@[simp] theorem State.setWave_waves (s : State) (i : Nat) (w : Wave) : (s.setWave i w).waves = s.waves.set i w := rfl
@[simp] theorem State.setWave_blocks (s : State) (i : Nat) (w : Wave) : (s.setWave i w).blocks = s.blocks := rfl
@[simp] theorem State.setWave_launches (s : State) (i : Nat) (w : Wave) : (s.setWave i w).launches = s.launches := rfl
@[simp] theorem State.setWave_carts (s : State) (i : Nat) (w : Wave) : (s.setWave i w).carts = s.carts := rfl
@[simp] theorem State.setWave_tenants (s : State) (i : Nat) (w : Wave) : (s.setWave i w).tenants = s.tenants := rfl
@[simp] theorem State.setWave_pipes (s : State) (i : Nat) (w : Wave) : (s.setWave i w).pipes = s.pipes := rfl
@[simp] theorem State.setWave_groupStates (s : State) (i : Nat) (w : Wave) : (s.setWave i w).groupStates = s.groupStates := rfl
@[simp] theorem State.setWave_headSince (s : State) (i : Nat) (w : Wave) : (s.setWave i w).headSince = s.headSince := rfl
@[simp] theorem State.setWave_tasks (s : State) (i : Nat) (w : Wave) : (s.setWave i w).tasks = s.tasks := rfl
@[simp] theorem State.setWave_view0 (s : State) (i : Nat) (w : Wave) : (s.setWave i w).view0 = s.view0 := rfl
@[simp] theorem State.setWave_view1 (s : State) (i : Nat) (w : Wave) : (s.setWave i w).view1 = s.view1 := rfl
@[simp] theorem State.setWave_own0 (s : State) (i : Nat) (w : Wave) : (s.setWave i w).own0 = s.own0 := rfl
@[simp] theorem State.setWave_own1 (s : State) (i : Nat) (w : Wave) : (s.setWave i w).own1 = s.own1 := rfl
@[simp] theorem State.setWave_clock00 (s : State) (i : Nat) (w : Wave) : (s.setWave i w).clock00 = s.clock00 := rfl
@[simp] theorem State.setWave_clock01 (s : State) (i : Nat) (w : Wave) : (s.setWave i w).clock01 = s.clock01 := rfl
@[simp] theorem State.setWave_clock10 (s : State) (i : Nat) (w : Wave) : (s.setWave i w).clock10 = s.clock10 := rfl
@[simp] theorem State.setWave_clock11 (s : State) (i : Nat) (w : Wave) : (s.setWave i w).clock11 = s.clock11 := rfl
@[simp] theorem State.setWave_reqs (s : State) (i : Nat) (w : Wave) : (s.setWave i w).reqs = s.reqs := rfl
@[simp] theorem State.setWave_coreWrites (s : State) (i : Nat) (w : Wave) : (s.setWave i w).coreWrites = s.coreWrites := rfl
@[simp] theorem State.setWave_linkWrites (s : State) (i : Nat) (w : Wave) : (s.setWave i w).linkWrites = s.linkWrites := rfl
@[simp] theorem State.setWave_atomics (s : State) (i : Nat) (w : Wave) : (s.setWave i w).atomics = s.atomics := rfl
@[simp] theorem State.setWave_durQueue (s : State) (i : Nat) (w : Wave) : (s.setWave i w).durQueue = s.durQueue := rfl
@[simp] theorem State.setWave_media (s : State) (i : Nat) (w : Wave) : (s.setWave i w).media = s.media := rfl
@[simp] theorem State.setWave_mediaOld (s : State) (i : Nat) (w : Wave) : (s.setWave i w).mediaOld = s.mediaOld := rfl
@[simp] theorem State.setWave_accepted (s : State) (i : Nat) (w : Wave) : (s.setWave i w).accepted = s.accepted := rfl
@[simp] theorem State.setWave_hostQueue (s : State) (i : Nat) (w : Wave) : (s.setWave i w).hostQueue = s.hostQueue := rfl
@[simp] theorem State.setWave_shown (s : State) (i : Nat) (w : Wave) : (s.setWave i w).shown = s.shown := rfl
@[simp] theorem State.setWave_engineUsed (s : State) (i : Nat) (w : Wave) : (s.setWave i w).engineUsed = s.engineUsed := rfl
@[simp] theorem State.setWave_headersUsed (s : State) (i : Nat) (w : Wave) : (s.setWave i w).headersUsed = s.headersUsed := rfl
@[simp] theorem State.setWave_evictFree (s : State) (i : Nat) (w : Wave) : (s.setWave i w).evictFree = s.evictFree := rfl
@[simp] theorem State.setWave_absent (s : State) (i : Nat) (w : Wave) : (s.setWave i w).absent = s.absent := rfl
@[simp] theorem State.setWave_checking (s : State) (i : Nat) (w : Wave) : (s.setWave i w).checking = s.checking := rfl
@[simp] theorem State.setWave_l2Off (s : State) (i : Nat) (w : Wave) : (s.setWave i w).l2Off = s.l2Off := rfl
@[simp] theorem State.setWave_outcomes (s : State) (i : Nat) (w : Wave) : (s.setWave i w).outcomes = s.outcomes := rfl
@[simp] theorem State.setWave_wbmax (s : State) (i : Nat) (w : Wave) : (s.setWave i w).wbmax = s.wbmax := rfl
@[simp] theorem State.setWave_holdupNs (s : State) (i : Nat) (w : Wave) : (s.setWave i w).holdupNs = s.holdupNs := rfl
@[simp] theorem State.setWave_pages (s : State) (i : Nat) (w : Wave) : (s.setWave i w).pages = s.pages := rfl
@[simp] theorem State.setWave_lines (s : State) (i : Nat) (w : Wave) : (s.setWave i w).lines = s.lines := rfl
@[simp] theorem State.setWave_deferred (s : State) (i : Nat) (w : Wave) : (s.setWave i w).deferred = s.deferred := rfl
@[simp] theorem State.setWave_framesUsed (s : State) (i : Nat) (w : Wave) : (s.setWave i w).framesUsed = s.framesUsed := rfl
@[simp] theorem State.setWave_retiredFrames (s : State) (i : Nat) (w : Wave) : (s.setWave i w).retiredFrames = s.retiredFrames := rfl
@[simp] theorem State.setWave_poolQueue (s : State) (i : Nat) (w : Wave) : (s.setWave i w).poolQueue = s.poolQueue := rfl
@[simp] theorem State.setWave_fencedGranules (s : State) (i : Nat) (w : Wave) : (s.setWave i w).fencedGranules = s.fencedGranules := rfl
@[simp] theorem State.setWave_copies (s : State) (i : Nat) (w : Wave) : (s.setWave i w).copies = s.copies := rfl
@[simp] theorem State.setWave_watchRegs (s : State) (i : Nat) (w : Wave) : (s.setWave i w).watchRegs = s.watchRegs := rfl
@[simp] theorem State.setWave_preempts (s : State) (i : Nat) (w : Wave) : (s.setWave i w).preempts = s.preempts := rfl
@[simp] theorem State.setWave_heldWakes (s : State) (i : Nat) (w : Wave) : (s.setWave i w).heldWakes = s.heldWakes := rfl
@[simp] theorem State.setWave_mailboxes (s : State) (i : Nat) (w : Wave) : (s.setWave i w).mailboxes = s.mailboxes := rfl
@[simp] theorem State.setWave_episodes (s : State) (i : Nat) (w : Wave) : (s.setWave i w).episodes = s.episodes := rfl
@[simp] theorem State.setWave_runQueues (s : State) (i : Nat) (w : Wave) : (s.setWave i w).runQueues = s.runQueues := rfl
@[simp] theorem State.setWave_groups (s : State) (i : Nat) (w : Wave) : (s.setWave i w).groups = s.groups := rfl
@[simp] theorem State.setWave_windows (s : State) (i : Nat) (w : Wave) : (s.setWave i w).windows = s.windows := rfl
@[simp] theorem State.setWave_collectives (s : State) (i : Nat) (w : Wave) : (s.setWave i w).collectives = s.collectives := rfl
@[simp] theorem State.setWave_injections (s : State) (i : Nat) (w : Wave) : (s.setWave i w).injections = s.injections := rfl
@[simp] theorem State.setWave_raspol (s : State) (i : Nat) (w : Wave) : (s.setWave i w).raspol = s.raspol := rfl
@[simp] theorem State.setWave_fenced (s : State) (i : Nat) (w : Wave) : (s.setWave i w).fenced = s.fenced := rfl
@[simp] theorem State.setWave_marked (s : State) (i : Nat) (w : Wave) : (s.setWave i w).marked = s.marked := rfl
@[simp] theorem State.setWave_journal (s : State) (i : Nat) (w : Wave) : (s.setWave i w).journal = s.journal := rfl
@[simp] theorem State.setWave_seqJournal (s : State) (i : Nat) (w : Wave) : (s.setWave i w).seqJournal = s.seqJournal := rfl
@[simp] theorem State.setWave_landed (s : State) (i : Nat) (w : Wave) : (s.setWave i w).landed = s.landed := rfl
@[simp] theorem State.setWave_taken (s : State) (i : Nat) (w : Wave) : (s.setWave i w).taken = s.taken := rfl
@[simp] theorem State.setWave_recovery (s : State) (i : Nat) (w : Wave) : (s.setWave i w).recovery = s.recovery := rfl
@[simp] theorem State.setWave_epoch (s : State) (i : Nat) (w : Wave) : (s.setWave i w).epoch = s.epoch := rfl
@[simp] theorem State.setWave_pfcyc (s : State) (i : Nat) (w : Wave) : (s.setWave i w).pfcyc = s.pfcyc := rfl
@[simp] theorem State.setWave_clean (s : State) (i : Nat) (w : Wave) : (s.setWave i w).clean = s.clean := rfl
@[simp] theorem State.setWave_incomplete (s : State) (i : Nat) (w : Wave) : (s.setWave i w).incomplete = s.incomplete := rfl
@[simp] theorem State.setWave_power (s : State) (i : Nat) (w : Wave) : (s.setWave i w).power = s.power := rfl
@[simp] theorem State.setWave_powerCap (s : State) (i : Nat) (w : Wave) : (s.setWave i w).powerCap = s.powerCap := rfl
@[simp] theorem State.setWave_thermal (s : State) (i : Nat) (w : Wave) : (s.setWave i w).thermal = s.thermal := rfl
@[simp] theorem State.setWave_chartLog (s : State) (i : Nat) (w : Wave) : (s.setWave i w).chartLog = s.chartLog := rfl
@[simp] theorem State.setWave_answers (s : State) (i : Nat) (w : Wave) : (s.setWave i w).answers = s.answers := rfl
@[simp] theorem State.setWave_hostData (s : State) (i : Nat) (w : Wave) : (s.setWave i w).hostData = s.hostData := rfl
@[simp] theorem State.setWave_gazetteer (s : State) (i : Nat) (w : Wave) : (s.setWave i w).gazetteer = s.gazetteer := rfl
@[simp] theorem State.setWave_gazetteerSeq (s : State) (i : Nat) (w : Wave) : (s.setWave i w).gazetteerSeq = s.gazetteerSeq := rfl
@[simp] theorem State.setWave_cur (s : State) (i : Nat) (w : Wave) : (s.setWave i w).cur = s.cur := rfl
@[simp] theorem State.setWave_curLanes (s : State) (i : Nat) (w : Wave) : (s.setWave i w).curLanes = s.curLanes := rfl
@[simp] theorem State.setWave_curBlock (s : State) (i : Nat) (w : Wave) : (s.setWave i w).curBlock = s.curBlock := rfl
@[simp] theorem State.setWave_inputs (s : State) (i : Nat) (w : Wave) : (s.setWave i w).inputs = s.inputs := rfl
@[simp] theorem State.setWave_fresh (s : State) (i : Nat) (w : Wave) : (s.setWave i w).fresh = s.fresh := rfl
@[simp] theorem State.setWave_issuedQ (s : State) (i : Nat) (w : Wave) : (s.setWave i w).issuedQ = s.issuedQ := rfl

/-! ### modWave -/

@[simp] theorem State.modWave_cyc (s : State) (i : Nat) (f : Wave → Wave) : (s.modWave i f).cyc = s.cyc := rfl
@[simp] theorem State.modWave_waves (s : State) (i : Nat) (f : Wave → Wave) : (s.modWave i f).waves = s.waves.modify i f := rfl
@[simp] theorem State.modWave_blocks (s : State) (i : Nat) (f : Wave → Wave) : (s.modWave i f).blocks = s.blocks := rfl
@[simp] theorem State.modWave_launches (s : State) (i : Nat) (f : Wave → Wave) : (s.modWave i f).launches = s.launches := rfl
@[simp] theorem State.modWave_carts (s : State) (i : Nat) (f : Wave → Wave) : (s.modWave i f).carts = s.carts := rfl
@[simp] theorem State.modWave_tenants (s : State) (i : Nat) (f : Wave → Wave) : (s.modWave i f).tenants = s.tenants := rfl
@[simp] theorem State.modWave_pipes (s : State) (i : Nat) (f : Wave → Wave) : (s.modWave i f).pipes = s.pipes := rfl
@[simp] theorem State.modWave_groupStates (s : State) (i : Nat) (f : Wave → Wave) : (s.modWave i f).groupStates = s.groupStates := rfl
@[simp] theorem State.modWave_headSince (s : State) (i : Nat) (f : Wave → Wave) : (s.modWave i f).headSince = s.headSince := rfl
@[simp] theorem State.modWave_tasks (s : State) (i : Nat) (f : Wave → Wave) : (s.modWave i f).tasks = s.tasks := rfl
@[simp] theorem State.modWave_view0 (s : State) (i : Nat) (f : Wave → Wave) : (s.modWave i f).view0 = s.view0 := rfl
@[simp] theorem State.modWave_view1 (s : State) (i : Nat) (f : Wave → Wave) : (s.modWave i f).view1 = s.view1 := rfl
@[simp] theorem State.modWave_own0 (s : State) (i : Nat) (f : Wave → Wave) : (s.modWave i f).own0 = s.own0 := rfl
@[simp] theorem State.modWave_own1 (s : State) (i : Nat) (f : Wave → Wave) : (s.modWave i f).own1 = s.own1 := rfl
@[simp] theorem State.modWave_clock00 (s : State) (i : Nat) (f : Wave → Wave) : (s.modWave i f).clock00 = s.clock00 := rfl
@[simp] theorem State.modWave_clock01 (s : State) (i : Nat) (f : Wave → Wave) : (s.modWave i f).clock01 = s.clock01 := rfl
@[simp] theorem State.modWave_clock10 (s : State) (i : Nat) (f : Wave → Wave) : (s.modWave i f).clock10 = s.clock10 := rfl
@[simp] theorem State.modWave_clock11 (s : State) (i : Nat) (f : Wave → Wave) : (s.modWave i f).clock11 = s.clock11 := rfl
@[simp] theorem State.modWave_reqs (s : State) (i : Nat) (f : Wave → Wave) : (s.modWave i f).reqs = s.reqs := rfl
@[simp] theorem State.modWave_coreWrites (s : State) (i : Nat) (f : Wave → Wave) : (s.modWave i f).coreWrites = s.coreWrites := rfl
@[simp] theorem State.modWave_linkWrites (s : State) (i : Nat) (f : Wave → Wave) : (s.modWave i f).linkWrites = s.linkWrites := rfl
@[simp] theorem State.modWave_atomics (s : State) (i : Nat) (f : Wave → Wave) : (s.modWave i f).atomics = s.atomics := rfl
@[simp] theorem State.modWave_durQueue (s : State) (i : Nat) (f : Wave → Wave) : (s.modWave i f).durQueue = s.durQueue := rfl
@[simp] theorem State.modWave_media (s : State) (i : Nat) (f : Wave → Wave) : (s.modWave i f).media = s.media := rfl
@[simp] theorem State.modWave_mediaOld (s : State) (i : Nat) (f : Wave → Wave) : (s.modWave i f).mediaOld = s.mediaOld := rfl
@[simp] theorem State.modWave_accepted (s : State) (i : Nat) (f : Wave → Wave) : (s.modWave i f).accepted = s.accepted := rfl
@[simp] theorem State.modWave_hostQueue (s : State) (i : Nat) (f : Wave → Wave) : (s.modWave i f).hostQueue = s.hostQueue := rfl
@[simp] theorem State.modWave_shown (s : State) (i : Nat) (f : Wave → Wave) : (s.modWave i f).shown = s.shown := rfl
@[simp] theorem State.modWave_engineUsed (s : State) (i : Nat) (f : Wave → Wave) : (s.modWave i f).engineUsed = s.engineUsed := rfl
@[simp] theorem State.modWave_headersUsed (s : State) (i : Nat) (f : Wave → Wave) : (s.modWave i f).headersUsed = s.headersUsed := rfl
@[simp] theorem State.modWave_evictFree (s : State) (i : Nat) (f : Wave → Wave) : (s.modWave i f).evictFree = s.evictFree := rfl
@[simp] theorem State.modWave_absent (s : State) (i : Nat) (f : Wave → Wave) : (s.modWave i f).absent = s.absent := rfl
@[simp] theorem State.modWave_checking (s : State) (i : Nat) (f : Wave → Wave) : (s.modWave i f).checking = s.checking := rfl
@[simp] theorem State.modWave_l2Off (s : State) (i : Nat) (f : Wave → Wave) : (s.modWave i f).l2Off = s.l2Off := rfl
@[simp] theorem State.modWave_outcomes (s : State) (i : Nat) (f : Wave → Wave) : (s.modWave i f).outcomes = s.outcomes := rfl
@[simp] theorem State.modWave_wbmax (s : State) (i : Nat) (f : Wave → Wave) : (s.modWave i f).wbmax = s.wbmax := rfl
@[simp] theorem State.modWave_holdupNs (s : State) (i : Nat) (f : Wave → Wave) : (s.modWave i f).holdupNs = s.holdupNs := rfl
@[simp] theorem State.modWave_pages (s : State) (i : Nat) (f : Wave → Wave) : (s.modWave i f).pages = s.pages := rfl
@[simp] theorem State.modWave_lines (s : State) (i : Nat) (f : Wave → Wave) : (s.modWave i f).lines = s.lines := rfl
@[simp] theorem State.modWave_deferred (s : State) (i : Nat) (f : Wave → Wave) : (s.modWave i f).deferred = s.deferred := rfl
@[simp] theorem State.modWave_framesUsed (s : State) (i : Nat) (f : Wave → Wave) : (s.modWave i f).framesUsed = s.framesUsed := rfl
@[simp] theorem State.modWave_retiredFrames (s : State) (i : Nat) (f : Wave → Wave) : (s.modWave i f).retiredFrames = s.retiredFrames := rfl
@[simp] theorem State.modWave_poolQueue (s : State) (i : Nat) (f : Wave → Wave) : (s.modWave i f).poolQueue = s.poolQueue := rfl
@[simp] theorem State.modWave_fencedGranules (s : State) (i : Nat) (f : Wave → Wave) : (s.modWave i f).fencedGranules = s.fencedGranules := rfl
@[simp] theorem State.modWave_copies (s : State) (i : Nat) (f : Wave → Wave) : (s.modWave i f).copies = s.copies := rfl
@[simp] theorem State.modWave_watchRegs (s : State) (i : Nat) (f : Wave → Wave) : (s.modWave i f).watchRegs = s.watchRegs := rfl
@[simp] theorem State.modWave_preempts (s : State) (i : Nat) (f : Wave → Wave) : (s.modWave i f).preempts = s.preempts := rfl
@[simp] theorem State.modWave_heldWakes (s : State) (i : Nat) (f : Wave → Wave) : (s.modWave i f).heldWakes = s.heldWakes := rfl
@[simp] theorem State.modWave_mailboxes (s : State) (i : Nat) (f : Wave → Wave) : (s.modWave i f).mailboxes = s.mailboxes := rfl
@[simp] theorem State.modWave_episodes (s : State) (i : Nat) (f : Wave → Wave) : (s.modWave i f).episodes = s.episodes := rfl
@[simp] theorem State.modWave_runQueues (s : State) (i : Nat) (f : Wave → Wave) : (s.modWave i f).runQueues = s.runQueues := rfl
@[simp] theorem State.modWave_groups (s : State) (i : Nat) (f : Wave → Wave) : (s.modWave i f).groups = s.groups := rfl
@[simp] theorem State.modWave_windows (s : State) (i : Nat) (f : Wave → Wave) : (s.modWave i f).windows = s.windows := rfl
@[simp] theorem State.modWave_collectives (s : State) (i : Nat) (f : Wave → Wave) : (s.modWave i f).collectives = s.collectives := rfl
@[simp] theorem State.modWave_injections (s : State) (i : Nat) (f : Wave → Wave) : (s.modWave i f).injections = s.injections := rfl
@[simp] theorem State.modWave_raspol (s : State) (i : Nat) (f : Wave → Wave) : (s.modWave i f).raspol = s.raspol := rfl
@[simp] theorem State.modWave_fenced (s : State) (i : Nat) (f : Wave → Wave) : (s.modWave i f).fenced = s.fenced := rfl
@[simp] theorem State.modWave_marked (s : State) (i : Nat) (f : Wave → Wave) : (s.modWave i f).marked = s.marked := rfl
@[simp] theorem State.modWave_journal (s : State) (i : Nat) (f : Wave → Wave) : (s.modWave i f).journal = s.journal := rfl
@[simp] theorem State.modWave_seqJournal (s : State) (i : Nat) (f : Wave → Wave) : (s.modWave i f).seqJournal = s.seqJournal := rfl
@[simp] theorem State.modWave_landed (s : State) (i : Nat) (f : Wave → Wave) : (s.modWave i f).landed = s.landed := rfl
@[simp] theorem State.modWave_taken (s : State) (i : Nat) (f : Wave → Wave) : (s.modWave i f).taken = s.taken := rfl
@[simp] theorem State.modWave_recovery (s : State) (i : Nat) (f : Wave → Wave) : (s.modWave i f).recovery = s.recovery := rfl
@[simp] theorem State.modWave_epoch (s : State) (i : Nat) (f : Wave → Wave) : (s.modWave i f).epoch = s.epoch := rfl
@[simp] theorem State.modWave_pfcyc (s : State) (i : Nat) (f : Wave → Wave) : (s.modWave i f).pfcyc = s.pfcyc := rfl
@[simp] theorem State.modWave_clean (s : State) (i : Nat) (f : Wave → Wave) : (s.modWave i f).clean = s.clean := rfl
@[simp] theorem State.modWave_incomplete (s : State) (i : Nat) (f : Wave → Wave) : (s.modWave i f).incomplete = s.incomplete := rfl
@[simp] theorem State.modWave_power (s : State) (i : Nat) (f : Wave → Wave) : (s.modWave i f).power = s.power := rfl
@[simp] theorem State.modWave_powerCap (s : State) (i : Nat) (f : Wave → Wave) : (s.modWave i f).powerCap = s.powerCap := rfl
@[simp] theorem State.modWave_thermal (s : State) (i : Nat) (f : Wave → Wave) : (s.modWave i f).thermal = s.thermal := rfl
@[simp] theorem State.modWave_chartLog (s : State) (i : Nat) (f : Wave → Wave) : (s.modWave i f).chartLog = s.chartLog := rfl
@[simp] theorem State.modWave_answers (s : State) (i : Nat) (f : Wave → Wave) : (s.modWave i f).answers = s.answers := rfl
@[simp] theorem State.modWave_hostData (s : State) (i : Nat) (f : Wave → Wave) : (s.modWave i f).hostData = s.hostData := rfl
@[simp] theorem State.modWave_gazetteer (s : State) (i : Nat) (f : Wave → Wave) : (s.modWave i f).gazetteer = s.gazetteer := rfl
@[simp] theorem State.modWave_gazetteerSeq (s : State) (i : Nat) (f : Wave → Wave) : (s.modWave i f).gazetteerSeq = s.gazetteerSeq := rfl
@[simp] theorem State.modWave_cur (s : State) (i : Nat) (f : Wave → Wave) : (s.modWave i f).cur = s.cur := rfl
@[simp] theorem State.modWave_curLanes (s : State) (i : Nat) (f : Wave → Wave) : (s.modWave i f).curLanes = s.curLanes := rfl
@[simp] theorem State.modWave_curBlock (s : State) (i : Nat) (f : Wave → Wave) : (s.modWave i f).curBlock = s.curBlock := rfl
@[simp] theorem State.modWave_inputs (s : State) (i : Nat) (f : Wave → Wave) : (s.modWave i f).inputs = s.inputs := rfl
@[simp] theorem State.modWave_fresh (s : State) (i : Nat) (f : Wave → Wave) : (s.modWave i f).fresh = s.fresh := rfl
@[simp] theorem State.modWave_issuedQ (s : State) (i : Nat) (f : Wave → Wave) : (s.modWave i f).issuedQ = s.issuedQ := rfl

/-! ### modBlock -/

@[simp] theorem State.modBlock_cyc (s : State) (i : Nat) (f : Block → Block) : (s.modBlock i f).cyc = s.cyc := rfl
@[simp] theorem State.modBlock_waves (s : State) (i : Nat) (f : Block → Block) : (s.modBlock i f).waves = s.waves := rfl
@[simp] theorem State.modBlock_blocks (s : State) (i : Nat) (f : Block → Block) : (s.modBlock i f).blocks = s.blocks.modify i f := rfl
@[simp] theorem State.modBlock_launches (s : State) (i : Nat) (f : Block → Block) : (s.modBlock i f).launches = s.launches := rfl
@[simp] theorem State.modBlock_carts (s : State) (i : Nat) (f : Block → Block) : (s.modBlock i f).carts = s.carts := rfl
@[simp] theorem State.modBlock_tenants (s : State) (i : Nat) (f : Block → Block) : (s.modBlock i f).tenants = s.tenants := rfl
@[simp] theorem State.modBlock_pipes (s : State) (i : Nat) (f : Block → Block) : (s.modBlock i f).pipes = s.pipes := rfl
@[simp] theorem State.modBlock_groupStates (s : State) (i : Nat) (f : Block → Block) : (s.modBlock i f).groupStates = s.groupStates := rfl
@[simp] theorem State.modBlock_headSince (s : State) (i : Nat) (f : Block → Block) : (s.modBlock i f).headSince = s.headSince := rfl
@[simp] theorem State.modBlock_tasks (s : State) (i : Nat) (f : Block → Block) : (s.modBlock i f).tasks = s.tasks := rfl
@[simp] theorem State.modBlock_view0 (s : State) (i : Nat) (f : Block → Block) : (s.modBlock i f).view0 = s.view0 := rfl
@[simp] theorem State.modBlock_view1 (s : State) (i : Nat) (f : Block → Block) : (s.modBlock i f).view1 = s.view1 := rfl
@[simp] theorem State.modBlock_own0 (s : State) (i : Nat) (f : Block → Block) : (s.modBlock i f).own0 = s.own0 := rfl
@[simp] theorem State.modBlock_own1 (s : State) (i : Nat) (f : Block → Block) : (s.modBlock i f).own1 = s.own1 := rfl
@[simp] theorem State.modBlock_clock00 (s : State) (i : Nat) (f : Block → Block) : (s.modBlock i f).clock00 = s.clock00 := rfl
@[simp] theorem State.modBlock_clock01 (s : State) (i : Nat) (f : Block → Block) : (s.modBlock i f).clock01 = s.clock01 := rfl
@[simp] theorem State.modBlock_clock10 (s : State) (i : Nat) (f : Block → Block) : (s.modBlock i f).clock10 = s.clock10 := rfl
@[simp] theorem State.modBlock_clock11 (s : State) (i : Nat) (f : Block → Block) : (s.modBlock i f).clock11 = s.clock11 := rfl
@[simp] theorem State.modBlock_reqs (s : State) (i : Nat) (f : Block → Block) : (s.modBlock i f).reqs = s.reqs := rfl
@[simp] theorem State.modBlock_coreWrites (s : State) (i : Nat) (f : Block → Block) : (s.modBlock i f).coreWrites = s.coreWrites := rfl
@[simp] theorem State.modBlock_linkWrites (s : State) (i : Nat) (f : Block → Block) : (s.modBlock i f).linkWrites = s.linkWrites := rfl
@[simp] theorem State.modBlock_atomics (s : State) (i : Nat) (f : Block → Block) : (s.modBlock i f).atomics = s.atomics := rfl
@[simp] theorem State.modBlock_durQueue (s : State) (i : Nat) (f : Block → Block) : (s.modBlock i f).durQueue = s.durQueue := rfl
@[simp] theorem State.modBlock_media (s : State) (i : Nat) (f : Block → Block) : (s.modBlock i f).media = s.media := rfl
@[simp] theorem State.modBlock_mediaOld (s : State) (i : Nat) (f : Block → Block) : (s.modBlock i f).mediaOld = s.mediaOld := rfl
@[simp] theorem State.modBlock_accepted (s : State) (i : Nat) (f : Block → Block) : (s.modBlock i f).accepted = s.accepted := rfl
@[simp] theorem State.modBlock_hostQueue (s : State) (i : Nat) (f : Block → Block) : (s.modBlock i f).hostQueue = s.hostQueue := rfl
@[simp] theorem State.modBlock_shown (s : State) (i : Nat) (f : Block → Block) : (s.modBlock i f).shown = s.shown := rfl
@[simp] theorem State.modBlock_engineUsed (s : State) (i : Nat) (f : Block → Block) : (s.modBlock i f).engineUsed = s.engineUsed := rfl
@[simp] theorem State.modBlock_headersUsed (s : State) (i : Nat) (f : Block → Block) : (s.modBlock i f).headersUsed = s.headersUsed := rfl
@[simp] theorem State.modBlock_evictFree (s : State) (i : Nat) (f : Block → Block) : (s.modBlock i f).evictFree = s.evictFree := rfl
@[simp] theorem State.modBlock_absent (s : State) (i : Nat) (f : Block → Block) : (s.modBlock i f).absent = s.absent := rfl
@[simp] theorem State.modBlock_checking (s : State) (i : Nat) (f : Block → Block) : (s.modBlock i f).checking = s.checking := rfl
@[simp] theorem State.modBlock_l2Off (s : State) (i : Nat) (f : Block → Block) : (s.modBlock i f).l2Off = s.l2Off := rfl
@[simp] theorem State.modBlock_outcomes (s : State) (i : Nat) (f : Block → Block) : (s.modBlock i f).outcomes = s.outcomes := rfl
@[simp] theorem State.modBlock_wbmax (s : State) (i : Nat) (f : Block → Block) : (s.modBlock i f).wbmax = s.wbmax := rfl
@[simp] theorem State.modBlock_holdupNs (s : State) (i : Nat) (f : Block → Block) : (s.modBlock i f).holdupNs = s.holdupNs := rfl
@[simp] theorem State.modBlock_pages (s : State) (i : Nat) (f : Block → Block) : (s.modBlock i f).pages = s.pages := rfl
@[simp] theorem State.modBlock_lines (s : State) (i : Nat) (f : Block → Block) : (s.modBlock i f).lines = s.lines := rfl
@[simp] theorem State.modBlock_deferred (s : State) (i : Nat) (f : Block → Block) : (s.modBlock i f).deferred = s.deferred := rfl
@[simp] theorem State.modBlock_framesUsed (s : State) (i : Nat) (f : Block → Block) : (s.modBlock i f).framesUsed = s.framesUsed := rfl
@[simp] theorem State.modBlock_retiredFrames (s : State) (i : Nat) (f : Block → Block) : (s.modBlock i f).retiredFrames = s.retiredFrames := rfl
@[simp] theorem State.modBlock_poolQueue (s : State) (i : Nat) (f : Block → Block) : (s.modBlock i f).poolQueue = s.poolQueue := rfl
@[simp] theorem State.modBlock_fencedGranules (s : State) (i : Nat) (f : Block → Block) : (s.modBlock i f).fencedGranules = s.fencedGranules := rfl
@[simp] theorem State.modBlock_copies (s : State) (i : Nat) (f : Block → Block) : (s.modBlock i f).copies = s.copies := rfl
@[simp] theorem State.modBlock_watchRegs (s : State) (i : Nat) (f : Block → Block) : (s.modBlock i f).watchRegs = s.watchRegs := rfl
@[simp] theorem State.modBlock_preempts (s : State) (i : Nat) (f : Block → Block) : (s.modBlock i f).preempts = s.preempts := rfl
@[simp] theorem State.modBlock_heldWakes (s : State) (i : Nat) (f : Block → Block) : (s.modBlock i f).heldWakes = s.heldWakes := rfl
@[simp] theorem State.modBlock_mailboxes (s : State) (i : Nat) (f : Block → Block) : (s.modBlock i f).mailboxes = s.mailboxes := rfl
@[simp] theorem State.modBlock_episodes (s : State) (i : Nat) (f : Block → Block) : (s.modBlock i f).episodes = s.episodes := rfl
@[simp] theorem State.modBlock_runQueues (s : State) (i : Nat) (f : Block → Block) : (s.modBlock i f).runQueues = s.runQueues := rfl
@[simp] theorem State.modBlock_groups (s : State) (i : Nat) (f : Block → Block) : (s.modBlock i f).groups = s.groups := rfl
@[simp] theorem State.modBlock_windows (s : State) (i : Nat) (f : Block → Block) : (s.modBlock i f).windows = s.windows := rfl
@[simp] theorem State.modBlock_collectives (s : State) (i : Nat) (f : Block → Block) : (s.modBlock i f).collectives = s.collectives := rfl
@[simp] theorem State.modBlock_injections (s : State) (i : Nat) (f : Block → Block) : (s.modBlock i f).injections = s.injections := rfl
@[simp] theorem State.modBlock_raspol (s : State) (i : Nat) (f : Block → Block) : (s.modBlock i f).raspol = s.raspol := rfl
@[simp] theorem State.modBlock_fenced (s : State) (i : Nat) (f : Block → Block) : (s.modBlock i f).fenced = s.fenced := rfl
@[simp] theorem State.modBlock_marked (s : State) (i : Nat) (f : Block → Block) : (s.modBlock i f).marked = s.marked := rfl
@[simp] theorem State.modBlock_journal (s : State) (i : Nat) (f : Block → Block) : (s.modBlock i f).journal = s.journal := rfl
@[simp] theorem State.modBlock_seqJournal (s : State) (i : Nat) (f : Block → Block) : (s.modBlock i f).seqJournal = s.seqJournal := rfl
@[simp] theorem State.modBlock_landed (s : State) (i : Nat) (f : Block → Block) : (s.modBlock i f).landed = s.landed := rfl
@[simp] theorem State.modBlock_taken (s : State) (i : Nat) (f : Block → Block) : (s.modBlock i f).taken = s.taken := rfl
@[simp] theorem State.modBlock_recovery (s : State) (i : Nat) (f : Block → Block) : (s.modBlock i f).recovery = s.recovery := rfl
@[simp] theorem State.modBlock_epoch (s : State) (i : Nat) (f : Block → Block) : (s.modBlock i f).epoch = s.epoch := rfl
@[simp] theorem State.modBlock_pfcyc (s : State) (i : Nat) (f : Block → Block) : (s.modBlock i f).pfcyc = s.pfcyc := rfl
@[simp] theorem State.modBlock_clean (s : State) (i : Nat) (f : Block → Block) : (s.modBlock i f).clean = s.clean := rfl
@[simp] theorem State.modBlock_incomplete (s : State) (i : Nat) (f : Block → Block) : (s.modBlock i f).incomplete = s.incomplete := rfl
@[simp] theorem State.modBlock_power (s : State) (i : Nat) (f : Block → Block) : (s.modBlock i f).power = s.power := rfl
@[simp] theorem State.modBlock_powerCap (s : State) (i : Nat) (f : Block → Block) : (s.modBlock i f).powerCap = s.powerCap := rfl
@[simp] theorem State.modBlock_thermal (s : State) (i : Nat) (f : Block → Block) : (s.modBlock i f).thermal = s.thermal := rfl
@[simp] theorem State.modBlock_chartLog (s : State) (i : Nat) (f : Block → Block) : (s.modBlock i f).chartLog = s.chartLog := rfl
@[simp] theorem State.modBlock_answers (s : State) (i : Nat) (f : Block → Block) : (s.modBlock i f).answers = s.answers := rfl
@[simp] theorem State.modBlock_hostData (s : State) (i : Nat) (f : Block → Block) : (s.modBlock i f).hostData = s.hostData := rfl
@[simp] theorem State.modBlock_gazetteer (s : State) (i : Nat) (f : Block → Block) : (s.modBlock i f).gazetteer = s.gazetteer := rfl
@[simp] theorem State.modBlock_gazetteerSeq (s : State) (i : Nat) (f : Block → Block) : (s.modBlock i f).gazetteerSeq = s.gazetteerSeq := rfl
@[simp] theorem State.modBlock_cur (s : State) (i : Nat) (f : Block → Block) : (s.modBlock i f).cur = s.cur := rfl
@[simp] theorem State.modBlock_curLanes (s : State) (i : Nat) (f : Block → Block) : (s.modBlock i f).curLanes = s.curLanes := rfl
@[simp] theorem State.modBlock_curBlock (s : State) (i : Nat) (f : Block → Block) : (s.modBlock i f).curBlock = s.curBlock := rfl
@[simp] theorem State.modBlock_inputs (s : State) (i : Nat) (f : Block → Block) : (s.modBlock i f).inputs = s.inputs := rfl
@[simp] theorem State.modBlock_fresh (s : State) (i : Nat) (f : Block → Block) : (s.modBlock i f).fresh = s.fresh := rfl
@[simp] theorem State.modBlock_issuedQ (s : State) (i : Nat) (f : Block → Block) : (s.modBlock i f).issuedQ = s.issuedQ := rfl

/-! ### modLaunch -/

@[simp] theorem State.modLaunch_cyc (s : State) (i : Nat) (f : Launch → Launch) : (s.modLaunch i f).cyc = s.cyc := rfl
@[simp] theorem State.modLaunch_waves (s : State) (i : Nat) (f : Launch → Launch) : (s.modLaunch i f).waves = s.waves := rfl
@[simp] theorem State.modLaunch_blocks (s : State) (i : Nat) (f : Launch → Launch) : (s.modLaunch i f).blocks = s.blocks := rfl
@[simp] theorem State.modLaunch_launches (s : State) (i : Nat) (f : Launch → Launch) : (s.modLaunch i f).launches = s.launches.modify i f := rfl
@[simp] theorem State.modLaunch_carts (s : State) (i : Nat) (f : Launch → Launch) : (s.modLaunch i f).carts = s.carts := rfl
@[simp] theorem State.modLaunch_tenants (s : State) (i : Nat) (f : Launch → Launch) : (s.modLaunch i f).tenants = s.tenants := rfl
@[simp] theorem State.modLaunch_pipes (s : State) (i : Nat) (f : Launch → Launch) : (s.modLaunch i f).pipes = s.pipes := rfl
@[simp] theorem State.modLaunch_groupStates (s : State) (i : Nat) (f : Launch → Launch) : (s.modLaunch i f).groupStates = s.groupStates := rfl
@[simp] theorem State.modLaunch_headSince (s : State) (i : Nat) (f : Launch → Launch) : (s.modLaunch i f).headSince = s.headSince := rfl
@[simp] theorem State.modLaunch_tasks (s : State) (i : Nat) (f : Launch → Launch) : (s.modLaunch i f).tasks = s.tasks := rfl
@[simp] theorem State.modLaunch_view0 (s : State) (i : Nat) (f : Launch → Launch) : (s.modLaunch i f).view0 = s.view0 := rfl
@[simp] theorem State.modLaunch_view1 (s : State) (i : Nat) (f : Launch → Launch) : (s.modLaunch i f).view1 = s.view1 := rfl
@[simp] theorem State.modLaunch_own0 (s : State) (i : Nat) (f : Launch → Launch) : (s.modLaunch i f).own0 = s.own0 := rfl
@[simp] theorem State.modLaunch_own1 (s : State) (i : Nat) (f : Launch → Launch) : (s.modLaunch i f).own1 = s.own1 := rfl
@[simp] theorem State.modLaunch_clock00 (s : State) (i : Nat) (f : Launch → Launch) : (s.modLaunch i f).clock00 = s.clock00 := rfl
@[simp] theorem State.modLaunch_clock01 (s : State) (i : Nat) (f : Launch → Launch) : (s.modLaunch i f).clock01 = s.clock01 := rfl
@[simp] theorem State.modLaunch_clock10 (s : State) (i : Nat) (f : Launch → Launch) : (s.modLaunch i f).clock10 = s.clock10 := rfl
@[simp] theorem State.modLaunch_clock11 (s : State) (i : Nat) (f : Launch → Launch) : (s.modLaunch i f).clock11 = s.clock11 := rfl
@[simp] theorem State.modLaunch_reqs (s : State) (i : Nat) (f : Launch → Launch) : (s.modLaunch i f).reqs = s.reqs := rfl
@[simp] theorem State.modLaunch_coreWrites (s : State) (i : Nat) (f : Launch → Launch) : (s.modLaunch i f).coreWrites = s.coreWrites := rfl
@[simp] theorem State.modLaunch_linkWrites (s : State) (i : Nat) (f : Launch → Launch) : (s.modLaunch i f).linkWrites = s.linkWrites := rfl
@[simp] theorem State.modLaunch_atomics (s : State) (i : Nat) (f : Launch → Launch) : (s.modLaunch i f).atomics = s.atomics := rfl
@[simp] theorem State.modLaunch_durQueue (s : State) (i : Nat) (f : Launch → Launch) : (s.modLaunch i f).durQueue = s.durQueue := rfl
@[simp] theorem State.modLaunch_media (s : State) (i : Nat) (f : Launch → Launch) : (s.modLaunch i f).media = s.media := rfl
@[simp] theorem State.modLaunch_mediaOld (s : State) (i : Nat) (f : Launch → Launch) : (s.modLaunch i f).mediaOld = s.mediaOld := rfl
@[simp] theorem State.modLaunch_accepted (s : State) (i : Nat) (f : Launch → Launch) : (s.modLaunch i f).accepted = s.accepted := rfl
@[simp] theorem State.modLaunch_hostQueue (s : State) (i : Nat) (f : Launch → Launch) : (s.modLaunch i f).hostQueue = s.hostQueue := rfl
@[simp] theorem State.modLaunch_shown (s : State) (i : Nat) (f : Launch → Launch) : (s.modLaunch i f).shown = s.shown := rfl
@[simp] theorem State.modLaunch_engineUsed (s : State) (i : Nat) (f : Launch → Launch) : (s.modLaunch i f).engineUsed = s.engineUsed := rfl
@[simp] theorem State.modLaunch_headersUsed (s : State) (i : Nat) (f : Launch → Launch) : (s.modLaunch i f).headersUsed = s.headersUsed := rfl
@[simp] theorem State.modLaunch_evictFree (s : State) (i : Nat) (f : Launch → Launch) : (s.modLaunch i f).evictFree = s.evictFree := rfl
@[simp] theorem State.modLaunch_absent (s : State) (i : Nat) (f : Launch → Launch) : (s.modLaunch i f).absent = s.absent := rfl
@[simp] theorem State.modLaunch_checking (s : State) (i : Nat) (f : Launch → Launch) : (s.modLaunch i f).checking = s.checking := rfl
@[simp] theorem State.modLaunch_l2Off (s : State) (i : Nat) (f : Launch → Launch) : (s.modLaunch i f).l2Off = s.l2Off := rfl
@[simp] theorem State.modLaunch_outcomes (s : State) (i : Nat) (f : Launch → Launch) : (s.modLaunch i f).outcomes = s.outcomes := rfl
@[simp] theorem State.modLaunch_wbmax (s : State) (i : Nat) (f : Launch → Launch) : (s.modLaunch i f).wbmax = s.wbmax := rfl
@[simp] theorem State.modLaunch_holdupNs (s : State) (i : Nat) (f : Launch → Launch) : (s.modLaunch i f).holdupNs = s.holdupNs := rfl
@[simp] theorem State.modLaunch_pages (s : State) (i : Nat) (f : Launch → Launch) : (s.modLaunch i f).pages = s.pages := rfl
@[simp] theorem State.modLaunch_lines (s : State) (i : Nat) (f : Launch → Launch) : (s.modLaunch i f).lines = s.lines := rfl
@[simp] theorem State.modLaunch_deferred (s : State) (i : Nat) (f : Launch → Launch) : (s.modLaunch i f).deferred = s.deferred := rfl
@[simp] theorem State.modLaunch_framesUsed (s : State) (i : Nat) (f : Launch → Launch) : (s.modLaunch i f).framesUsed = s.framesUsed := rfl
@[simp] theorem State.modLaunch_retiredFrames (s : State) (i : Nat) (f : Launch → Launch) : (s.modLaunch i f).retiredFrames = s.retiredFrames := rfl
@[simp] theorem State.modLaunch_poolQueue (s : State) (i : Nat) (f : Launch → Launch) : (s.modLaunch i f).poolQueue = s.poolQueue := rfl
@[simp] theorem State.modLaunch_fencedGranules (s : State) (i : Nat) (f : Launch → Launch) : (s.modLaunch i f).fencedGranules = s.fencedGranules := rfl
@[simp] theorem State.modLaunch_copies (s : State) (i : Nat) (f : Launch → Launch) : (s.modLaunch i f).copies = s.copies := rfl
@[simp] theorem State.modLaunch_watchRegs (s : State) (i : Nat) (f : Launch → Launch) : (s.modLaunch i f).watchRegs = s.watchRegs := rfl
@[simp] theorem State.modLaunch_preempts (s : State) (i : Nat) (f : Launch → Launch) : (s.modLaunch i f).preempts = s.preempts := rfl
@[simp] theorem State.modLaunch_heldWakes (s : State) (i : Nat) (f : Launch → Launch) : (s.modLaunch i f).heldWakes = s.heldWakes := rfl
@[simp] theorem State.modLaunch_mailboxes (s : State) (i : Nat) (f : Launch → Launch) : (s.modLaunch i f).mailboxes = s.mailboxes := rfl
@[simp] theorem State.modLaunch_episodes (s : State) (i : Nat) (f : Launch → Launch) : (s.modLaunch i f).episodes = s.episodes := rfl
@[simp] theorem State.modLaunch_runQueues (s : State) (i : Nat) (f : Launch → Launch) : (s.modLaunch i f).runQueues = s.runQueues := rfl
@[simp] theorem State.modLaunch_groups (s : State) (i : Nat) (f : Launch → Launch) : (s.modLaunch i f).groups = s.groups := rfl
@[simp] theorem State.modLaunch_windows (s : State) (i : Nat) (f : Launch → Launch) : (s.modLaunch i f).windows = s.windows := rfl
@[simp] theorem State.modLaunch_collectives (s : State) (i : Nat) (f : Launch → Launch) : (s.modLaunch i f).collectives = s.collectives := rfl
@[simp] theorem State.modLaunch_injections (s : State) (i : Nat) (f : Launch → Launch) : (s.modLaunch i f).injections = s.injections := rfl
@[simp] theorem State.modLaunch_raspol (s : State) (i : Nat) (f : Launch → Launch) : (s.modLaunch i f).raspol = s.raspol := rfl
@[simp] theorem State.modLaunch_fenced (s : State) (i : Nat) (f : Launch → Launch) : (s.modLaunch i f).fenced = s.fenced := rfl
@[simp] theorem State.modLaunch_marked (s : State) (i : Nat) (f : Launch → Launch) : (s.modLaunch i f).marked = s.marked := rfl
@[simp] theorem State.modLaunch_journal (s : State) (i : Nat) (f : Launch → Launch) : (s.modLaunch i f).journal = s.journal := rfl
@[simp] theorem State.modLaunch_seqJournal (s : State) (i : Nat) (f : Launch → Launch) : (s.modLaunch i f).seqJournal = s.seqJournal := rfl
@[simp] theorem State.modLaunch_landed (s : State) (i : Nat) (f : Launch → Launch) : (s.modLaunch i f).landed = s.landed := rfl
@[simp] theorem State.modLaunch_taken (s : State) (i : Nat) (f : Launch → Launch) : (s.modLaunch i f).taken = s.taken := rfl
@[simp] theorem State.modLaunch_recovery (s : State) (i : Nat) (f : Launch → Launch) : (s.modLaunch i f).recovery = s.recovery := rfl
@[simp] theorem State.modLaunch_epoch (s : State) (i : Nat) (f : Launch → Launch) : (s.modLaunch i f).epoch = s.epoch := rfl
@[simp] theorem State.modLaunch_pfcyc (s : State) (i : Nat) (f : Launch → Launch) : (s.modLaunch i f).pfcyc = s.pfcyc := rfl
@[simp] theorem State.modLaunch_clean (s : State) (i : Nat) (f : Launch → Launch) : (s.modLaunch i f).clean = s.clean := rfl
@[simp] theorem State.modLaunch_incomplete (s : State) (i : Nat) (f : Launch → Launch) : (s.modLaunch i f).incomplete = s.incomplete := rfl
@[simp] theorem State.modLaunch_power (s : State) (i : Nat) (f : Launch → Launch) : (s.modLaunch i f).power = s.power := rfl
@[simp] theorem State.modLaunch_powerCap (s : State) (i : Nat) (f : Launch → Launch) : (s.modLaunch i f).powerCap = s.powerCap := rfl
@[simp] theorem State.modLaunch_thermal (s : State) (i : Nat) (f : Launch → Launch) : (s.modLaunch i f).thermal = s.thermal := rfl
@[simp] theorem State.modLaunch_chartLog (s : State) (i : Nat) (f : Launch → Launch) : (s.modLaunch i f).chartLog = s.chartLog := rfl
@[simp] theorem State.modLaunch_answers (s : State) (i : Nat) (f : Launch → Launch) : (s.modLaunch i f).answers = s.answers := rfl
@[simp] theorem State.modLaunch_hostData (s : State) (i : Nat) (f : Launch → Launch) : (s.modLaunch i f).hostData = s.hostData := rfl
@[simp] theorem State.modLaunch_gazetteer (s : State) (i : Nat) (f : Launch → Launch) : (s.modLaunch i f).gazetteer = s.gazetteer := rfl
@[simp] theorem State.modLaunch_gazetteerSeq (s : State) (i : Nat) (f : Launch → Launch) : (s.modLaunch i f).gazetteerSeq = s.gazetteerSeq := rfl
@[simp] theorem State.modLaunch_cur (s : State) (i : Nat) (f : Launch → Launch) : (s.modLaunch i f).cur = s.cur := rfl
@[simp] theorem State.modLaunch_curLanes (s : State) (i : Nat) (f : Launch → Launch) : (s.modLaunch i f).curLanes = s.curLanes := rfl
@[simp] theorem State.modLaunch_curBlock (s : State) (i : Nat) (f : Launch → Launch) : (s.modLaunch i f).curBlock = s.curBlock := rfl
@[simp] theorem State.modLaunch_inputs (s : State) (i : Nat) (f : Launch → Launch) : (s.modLaunch i f).inputs = s.inputs := rfl
@[simp] theorem State.modLaunch_fresh (s : State) (i : Nat) (f : Launch → Launch) : (s.modLaunch i f).fresh = s.fresh := rfl
@[simp] theorem State.modLaunch_issuedQ (s : State) (i : Nat) (f : Launch → Launch) : (s.modLaunch i f).issuedQ = s.issuedQ := rfl

/-! ### setTenant -/

@[simp] theorem State.setTenant_cyc (s : State) (t : Nat) (v : Tenant) : (s.setTenant t v).cyc = s.cyc := rfl
@[simp] theorem State.setTenant_waves (s : State) (t : Nat) (v : Tenant) : (s.setTenant t v).waves = s.waves := rfl
@[simp] theorem State.setTenant_blocks (s : State) (t : Nat) (v : Tenant) : (s.setTenant t v).blocks = s.blocks := rfl
@[simp] theorem State.setTenant_launches (s : State) (t : Nat) (v : Tenant) : (s.setTenant t v).launches = s.launches := rfl
@[simp] theorem State.setTenant_carts (s : State) (t : Nat) (v : Tenant) : (s.setTenant t v).carts = s.carts := rfl
@[simp] theorem State.setTenant_tenants (s : State) (t : Nat) (v : Tenant) : (s.setTenant t v).tenants = SMap.set Tenant.absent s.tenants t v := rfl
@[simp] theorem State.setTenant_pipes (s : State) (t : Nat) (v : Tenant) : (s.setTenant t v).pipes = s.pipes := rfl
@[simp] theorem State.setTenant_groupStates (s : State) (t : Nat) (v : Tenant) : (s.setTenant t v).groupStates = s.groupStates := rfl
@[simp] theorem State.setTenant_headSince (s : State) (t : Nat) (v : Tenant) : (s.setTenant t v).headSince = s.headSince := rfl
@[simp] theorem State.setTenant_tasks (s : State) (t : Nat) (v : Tenant) : (s.setTenant t v).tasks = s.tasks := rfl
@[simp] theorem State.setTenant_view0 (s : State) (t : Nat) (v : Tenant) : (s.setTenant t v).view0 = s.view0 := rfl
@[simp] theorem State.setTenant_view1 (s : State) (t : Nat) (v : Tenant) : (s.setTenant t v).view1 = s.view1 := rfl
@[simp] theorem State.setTenant_own0 (s : State) (t : Nat) (v : Tenant) : (s.setTenant t v).own0 = s.own0 := rfl
@[simp] theorem State.setTenant_own1 (s : State) (t : Nat) (v : Tenant) : (s.setTenant t v).own1 = s.own1 := rfl
@[simp] theorem State.setTenant_clock00 (s : State) (t : Nat) (v : Tenant) : (s.setTenant t v).clock00 = s.clock00 := rfl
@[simp] theorem State.setTenant_clock01 (s : State) (t : Nat) (v : Tenant) : (s.setTenant t v).clock01 = s.clock01 := rfl
@[simp] theorem State.setTenant_clock10 (s : State) (t : Nat) (v : Tenant) : (s.setTenant t v).clock10 = s.clock10 := rfl
@[simp] theorem State.setTenant_clock11 (s : State) (t : Nat) (v : Tenant) : (s.setTenant t v).clock11 = s.clock11 := rfl
@[simp] theorem State.setTenant_reqs (s : State) (t : Nat) (v : Tenant) : (s.setTenant t v).reqs = s.reqs := rfl
@[simp] theorem State.setTenant_coreWrites (s : State) (t : Nat) (v : Tenant) : (s.setTenant t v).coreWrites = s.coreWrites := rfl
@[simp] theorem State.setTenant_linkWrites (s : State) (t : Nat) (v : Tenant) : (s.setTenant t v).linkWrites = s.linkWrites := rfl
@[simp] theorem State.setTenant_atomics (s : State) (t : Nat) (v : Tenant) : (s.setTenant t v).atomics = s.atomics := rfl
@[simp] theorem State.setTenant_durQueue (s : State) (t : Nat) (v : Tenant) : (s.setTenant t v).durQueue = s.durQueue := rfl
@[simp] theorem State.setTenant_media (s : State) (t : Nat) (v : Tenant) : (s.setTenant t v).media = s.media := rfl
@[simp] theorem State.setTenant_mediaOld (s : State) (t : Nat) (v : Tenant) : (s.setTenant t v).mediaOld = s.mediaOld := rfl
@[simp] theorem State.setTenant_accepted (s : State) (t : Nat) (v : Tenant) : (s.setTenant t v).accepted = s.accepted := rfl
@[simp] theorem State.setTenant_hostQueue (s : State) (t : Nat) (v : Tenant) : (s.setTenant t v).hostQueue = s.hostQueue := rfl
@[simp] theorem State.setTenant_shown (s : State) (t : Nat) (v : Tenant) : (s.setTenant t v).shown = s.shown := rfl
@[simp] theorem State.setTenant_engineUsed (s : State) (t : Nat) (v : Tenant) : (s.setTenant t v).engineUsed = s.engineUsed := rfl
@[simp] theorem State.setTenant_headersUsed (s : State) (t : Nat) (v : Tenant) : (s.setTenant t v).headersUsed = s.headersUsed := rfl
@[simp] theorem State.setTenant_evictFree (s : State) (t : Nat) (v : Tenant) : (s.setTenant t v).evictFree = s.evictFree := rfl
@[simp] theorem State.setTenant_absent (s : State) (t : Nat) (v : Tenant) : (s.setTenant t v).absent = s.absent := rfl
@[simp] theorem State.setTenant_checking (s : State) (t : Nat) (v : Tenant) : (s.setTenant t v).checking = s.checking := rfl
@[simp] theorem State.setTenant_l2Off (s : State) (t : Nat) (v : Tenant) : (s.setTenant t v).l2Off = s.l2Off := rfl
@[simp] theorem State.setTenant_outcomes (s : State) (t : Nat) (v : Tenant) : (s.setTenant t v).outcomes = s.outcomes := rfl
@[simp] theorem State.setTenant_wbmax (s : State) (t : Nat) (v : Tenant) : (s.setTenant t v).wbmax = s.wbmax := rfl
@[simp] theorem State.setTenant_holdupNs (s : State) (t : Nat) (v : Tenant) : (s.setTenant t v).holdupNs = s.holdupNs := rfl
@[simp] theorem State.setTenant_pages (s : State) (t : Nat) (v : Tenant) : (s.setTenant t v).pages = s.pages := rfl
@[simp] theorem State.setTenant_lines (s : State) (t : Nat) (v : Tenant) : (s.setTenant t v).lines = s.lines := rfl
@[simp] theorem State.setTenant_deferred (s : State) (t : Nat) (v : Tenant) : (s.setTenant t v).deferred = s.deferred := rfl
@[simp] theorem State.setTenant_framesUsed (s : State) (t : Nat) (v : Tenant) : (s.setTenant t v).framesUsed = s.framesUsed := rfl
@[simp] theorem State.setTenant_retiredFrames (s : State) (t : Nat) (v : Tenant) : (s.setTenant t v).retiredFrames = s.retiredFrames := rfl
@[simp] theorem State.setTenant_poolQueue (s : State) (t : Nat) (v : Tenant) : (s.setTenant t v).poolQueue = s.poolQueue := rfl
@[simp] theorem State.setTenant_fencedGranules (s : State) (t : Nat) (v : Tenant) : (s.setTenant t v).fencedGranules = s.fencedGranules := rfl
@[simp] theorem State.setTenant_copies (s : State) (t : Nat) (v : Tenant) : (s.setTenant t v).copies = s.copies := rfl
@[simp] theorem State.setTenant_watchRegs (s : State) (t : Nat) (v : Tenant) : (s.setTenant t v).watchRegs = s.watchRegs := rfl
@[simp] theorem State.setTenant_preempts (s : State) (t : Nat) (v : Tenant) : (s.setTenant t v).preempts = s.preempts := rfl
@[simp] theorem State.setTenant_heldWakes (s : State) (t : Nat) (v : Tenant) : (s.setTenant t v).heldWakes = s.heldWakes := rfl
@[simp] theorem State.setTenant_mailboxes (s : State) (t : Nat) (v : Tenant) : (s.setTenant t v).mailboxes = s.mailboxes := rfl
@[simp] theorem State.setTenant_episodes (s : State) (t : Nat) (v : Tenant) : (s.setTenant t v).episodes = s.episodes := rfl
@[simp] theorem State.setTenant_runQueues (s : State) (t : Nat) (v : Tenant) : (s.setTenant t v).runQueues = s.runQueues := rfl
@[simp] theorem State.setTenant_groups (s : State) (t : Nat) (v : Tenant) : (s.setTenant t v).groups = s.groups := rfl
@[simp] theorem State.setTenant_windows (s : State) (t : Nat) (v : Tenant) : (s.setTenant t v).windows = s.windows := rfl
@[simp] theorem State.setTenant_collectives (s : State) (t : Nat) (v : Tenant) : (s.setTenant t v).collectives = s.collectives := rfl
@[simp] theorem State.setTenant_injections (s : State) (t : Nat) (v : Tenant) : (s.setTenant t v).injections = s.injections := rfl
@[simp] theorem State.setTenant_raspol (s : State) (t : Nat) (v : Tenant) : (s.setTenant t v).raspol = s.raspol := rfl
@[simp] theorem State.setTenant_fenced (s : State) (t : Nat) (v : Tenant) : (s.setTenant t v).fenced = s.fenced := rfl
@[simp] theorem State.setTenant_marked (s : State) (t : Nat) (v : Tenant) : (s.setTenant t v).marked = s.marked := rfl
@[simp] theorem State.setTenant_journal (s : State) (t : Nat) (v : Tenant) : (s.setTenant t v).journal = s.journal := rfl
@[simp] theorem State.setTenant_seqJournal (s : State) (t : Nat) (v : Tenant) : (s.setTenant t v).seqJournal = s.seqJournal := rfl
@[simp] theorem State.setTenant_landed (s : State) (t : Nat) (v : Tenant) : (s.setTenant t v).landed = s.landed := rfl
@[simp] theorem State.setTenant_taken (s : State) (t : Nat) (v : Tenant) : (s.setTenant t v).taken = s.taken := rfl
@[simp] theorem State.setTenant_recovery (s : State) (t : Nat) (v : Tenant) : (s.setTenant t v).recovery = s.recovery := rfl
@[simp] theorem State.setTenant_epoch (s : State) (t : Nat) (v : Tenant) : (s.setTenant t v).epoch = s.epoch := rfl
@[simp] theorem State.setTenant_pfcyc (s : State) (t : Nat) (v : Tenant) : (s.setTenant t v).pfcyc = s.pfcyc := rfl
@[simp] theorem State.setTenant_clean (s : State) (t : Nat) (v : Tenant) : (s.setTenant t v).clean = s.clean := rfl
@[simp] theorem State.setTenant_incomplete (s : State) (t : Nat) (v : Tenant) : (s.setTenant t v).incomplete = s.incomplete := rfl
@[simp] theorem State.setTenant_power (s : State) (t : Nat) (v : Tenant) : (s.setTenant t v).power = s.power := rfl
@[simp] theorem State.setTenant_powerCap (s : State) (t : Nat) (v : Tenant) : (s.setTenant t v).powerCap = s.powerCap := rfl
@[simp] theorem State.setTenant_thermal (s : State) (t : Nat) (v : Tenant) : (s.setTenant t v).thermal = s.thermal := rfl
@[simp] theorem State.setTenant_chartLog (s : State) (t : Nat) (v : Tenant) : (s.setTenant t v).chartLog = s.chartLog := rfl
@[simp] theorem State.setTenant_answers (s : State) (t : Nat) (v : Tenant) : (s.setTenant t v).answers = s.answers := rfl
@[simp] theorem State.setTenant_hostData (s : State) (t : Nat) (v : Tenant) : (s.setTenant t v).hostData = s.hostData := rfl
@[simp] theorem State.setTenant_gazetteer (s : State) (t : Nat) (v : Tenant) : (s.setTenant t v).gazetteer = s.gazetteer := rfl
@[simp] theorem State.setTenant_gazetteerSeq (s : State) (t : Nat) (v : Tenant) : (s.setTenant t v).gazetteerSeq = s.gazetteerSeq := rfl
@[simp] theorem State.setTenant_cur (s : State) (t : Nat) (v : Tenant) : (s.setTenant t v).cur = s.cur := rfl
@[simp] theorem State.setTenant_curLanes (s : State) (t : Nat) (v : Tenant) : (s.setTenant t v).curLanes = s.curLanes := rfl
@[simp] theorem State.setTenant_curBlock (s : State) (t : Nat) (v : Tenant) : (s.setTenant t v).curBlock = s.curBlock := rfl
@[simp] theorem State.setTenant_inputs (s : State) (t : Nat) (v : Tenant) : (s.setTenant t v).inputs = s.inputs := rfl
@[simp] theorem State.setTenant_fresh (s : State) (t : Nat) (v : Tenant) : (s.setTenant t v).fresh = s.fresh := rfl
@[simp] theorem State.setTenant_issuedQ (s : State) (t : Nat) (v : Tenant) : (s.setTenant t v).issuedQ = s.issuedQ := rfl

/-! ### focus -/

@[simp] theorem State.focus_cyc (s : State) (i : Nat) (m : LaneMask) : (s.focus i m).cyc = s.cyc := rfl
@[simp] theorem State.focus_waves (s : State) (i : Nat) (m : LaneMask) : (s.focus i m).waves = s.waves := rfl
@[simp] theorem State.focus_blocks (s : State) (i : Nat) (m : LaneMask) : (s.focus i m).blocks = s.blocks := rfl
@[simp] theorem State.focus_launches (s : State) (i : Nat) (m : LaneMask) : (s.focus i m).launches = s.launches := rfl
@[simp] theorem State.focus_carts (s : State) (i : Nat) (m : LaneMask) : (s.focus i m).carts = s.carts := rfl
@[simp] theorem State.focus_tenants (s : State) (i : Nat) (m : LaneMask) : (s.focus i m).tenants = s.tenants := rfl
@[simp] theorem State.focus_pipes (s : State) (i : Nat) (m : LaneMask) : (s.focus i m).pipes = s.pipes := rfl
@[simp] theorem State.focus_groupStates (s : State) (i : Nat) (m : LaneMask) : (s.focus i m).groupStates = s.groupStates := rfl
@[simp] theorem State.focus_headSince (s : State) (i : Nat) (m : LaneMask) : (s.focus i m).headSince = s.headSince := rfl
@[simp] theorem State.focus_tasks (s : State) (i : Nat) (m : LaneMask) : (s.focus i m).tasks = s.tasks := rfl
@[simp] theorem State.focus_view0 (s : State) (i : Nat) (m : LaneMask) : (s.focus i m).view0 = s.view0 := rfl
@[simp] theorem State.focus_view1 (s : State) (i : Nat) (m : LaneMask) : (s.focus i m).view1 = s.view1 := rfl
@[simp] theorem State.focus_own0 (s : State) (i : Nat) (m : LaneMask) : (s.focus i m).own0 = s.own0 := rfl
@[simp] theorem State.focus_own1 (s : State) (i : Nat) (m : LaneMask) : (s.focus i m).own1 = s.own1 := rfl
@[simp] theorem State.focus_clock00 (s : State) (i : Nat) (m : LaneMask) : (s.focus i m).clock00 = s.clock00 := rfl
@[simp] theorem State.focus_clock01 (s : State) (i : Nat) (m : LaneMask) : (s.focus i m).clock01 = s.clock01 := rfl
@[simp] theorem State.focus_clock10 (s : State) (i : Nat) (m : LaneMask) : (s.focus i m).clock10 = s.clock10 := rfl
@[simp] theorem State.focus_clock11 (s : State) (i : Nat) (m : LaneMask) : (s.focus i m).clock11 = s.clock11 := rfl
@[simp] theorem State.focus_reqs (s : State) (i : Nat) (m : LaneMask) : (s.focus i m).reqs = s.reqs := rfl
@[simp] theorem State.focus_coreWrites (s : State) (i : Nat) (m : LaneMask) : (s.focus i m).coreWrites = s.coreWrites := rfl
@[simp] theorem State.focus_linkWrites (s : State) (i : Nat) (m : LaneMask) : (s.focus i m).linkWrites = s.linkWrites := rfl
@[simp] theorem State.focus_atomics (s : State) (i : Nat) (m : LaneMask) : (s.focus i m).atomics = s.atomics := rfl
@[simp] theorem State.focus_durQueue (s : State) (i : Nat) (m : LaneMask) : (s.focus i m).durQueue = s.durQueue := rfl
@[simp] theorem State.focus_media (s : State) (i : Nat) (m : LaneMask) : (s.focus i m).media = s.media := rfl
@[simp] theorem State.focus_mediaOld (s : State) (i : Nat) (m : LaneMask) : (s.focus i m).mediaOld = s.mediaOld := rfl
@[simp] theorem State.focus_accepted (s : State) (i : Nat) (m : LaneMask) : (s.focus i m).accepted = s.accepted := rfl
@[simp] theorem State.focus_hostQueue (s : State) (i : Nat) (m : LaneMask) : (s.focus i m).hostQueue = s.hostQueue := rfl
@[simp] theorem State.focus_shown (s : State) (i : Nat) (m : LaneMask) : (s.focus i m).shown = s.shown := rfl
@[simp] theorem State.focus_engineUsed (s : State) (i : Nat) (m : LaneMask) : (s.focus i m).engineUsed = s.engineUsed := rfl
@[simp] theorem State.focus_headersUsed (s : State) (i : Nat) (m : LaneMask) : (s.focus i m).headersUsed = s.headersUsed := rfl
@[simp] theorem State.focus_evictFree (s : State) (i : Nat) (m : LaneMask) : (s.focus i m).evictFree = s.evictFree := rfl
@[simp] theorem State.focus_absent (s : State) (i : Nat) (m : LaneMask) : (s.focus i m).absent = s.absent := rfl
@[simp] theorem State.focus_checking (s : State) (i : Nat) (m : LaneMask) : (s.focus i m).checking = s.checking := rfl
@[simp] theorem State.focus_l2Off (s : State) (i : Nat) (m : LaneMask) : (s.focus i m).l2Off = s.l2Off := rfl
@[simp] theorem State.focus_outcomes (s : State) (i : Nat) (m : LaneMask) : (s.focus i m).outcomes = s.outcomes := rfl
@[simp] theorem State.focus_wbmax (s : State) (i : Nat) (m : LaneMask) : (s.focus i m).wbmax = s.wbmax := rfl
@[simp] theorem State.focus_holdupNs (s : State) (i : Nat) (m : LaneMask) : (s.focus i m).holdupNs = s.holdupNs := rfl
@[simp] theorem State.focus_pages (s : State) (i : Nat) (m : LaneMask) : (s.focus i m).pages = s.pages := rfl
@[simp] theorem State.focus_lines (s : State) (i : Nat) (m : LaneMask) : (s.focus i m).lines = s.lines := rfl
@[simp] theorem State.focus_deferred (s : State) (i : Nat) (m : LaneMask) : (s.focus i m).deferred = s.deferred := rfl
@[simp] theorem State.focus_framesUsed (s : State) (i : Nat) (m : LaneMask) : (s.focus i m).framesUsed = s.framesUsed := rfl
@[simp] theorem State.focus_retiredFrames (s : State) (i : Nat) (m : LaneMask) : (s.focus i m).retiredFrames = s.retiredFrames := rfl
@[simp] theorem State.focus_poolQueue (s : State) (i : Nat) (m : LaneMask) : (s.focus i m).poolQueue = s.poolQueue := rfl
@[simp] theorem State.focus_fencedGranules (s : State) (i : Nat) (m : LaneMask) : (s.focus i m).fencedGranules = s.fencedGranules := rfl
@[simp] theorem State.focus_copies (s : State) (i : Nat) (m : LaneMask) : (s.focus i m).copies = s.copies := rfl
@[simp] theorem State.focus_watchRegs (s : State) (i : Nat) (m : LaneMask) : (s.focus i m).watchRegs = s.watchRegs := rfl
@[simp] theorem State.focus_preempts (s : State) (i : Nat) (m : LaneMask) : (s.focus i m).preempts = s.preempts := rfl
@[simp] theorem State.focus_heldWakes (s : State) (i : Nat) (m : LaneMask) : (s.focus i m).heldWakes = s.heldWakes := rfl
@[simp] theorem State.focus_mailboxes (s : State) (i : Nat) (m : LaneMask) : (s.focus i m).mailboxes = s.mailboxes := rfl
@[simp] theorem State.focus_episodes (s : State) (i : Nat) (m : LaneMask) : (s.focus i m).episodes = s.episodes := rfl
@[simp] theorem State.focus_runQueues (s : State) (i : Nat) (m : LaneMask) : (s.focus i m).runQueues = s.runQueues := rfl
@[simp] theorem State.focus_groups (s : State) (i : Nat) (m : LaneMask) : (s.focus i m).groups = s.groups := rfl
@[simp] theorem State.focus_windows (s : State) (i : Nat) (m : LaneMask) : (s.focus i m).windows = s.windows := rfl
@[simp] theorem State.focus_collectives (s : State) (i : Nat) (m : LaneMask) : (s.focus i m).collectives = s.collectives := rfl
@[simp] theorem State.focus_injections (s : State) (i : Nat) (m : LaneMask) : (s.focus i m).injections = s.injections := rfl
@[simp] theorem State.focus_raspol (s : State) (i : Nat) (m : LaneMask) : (s.focus i m).raspol = s.raspol := rfl
@[simp] theorem State.focus_fenced (s : State) (i : Nat) (m : LaneMask) : (s.focus i m).fenced = s.fenced := rfl
@[simp] theorem State.focus_marked (s : State) (i : Nat) (m : LaneMask) : (s.focus i m).marked = s.marked := rfl
@[simp] theorem State.focus_journal (s : State) (i : Nat) (m : LaneMask) : (s.focus i m).journal = s.journal := rfl
@[simp] theorem State.focus_seqJournal (s : State) (i : Nat) (m : LaneMask) : (s.focus i m).seqJournal = s.seqJournal := rfl
@[simp] theorem State.focus_landed (s : State) (i : Nat) (m : LaneMask) : (s.focus i m).landed = s.landed := rfl
@[simp] theorem State.focus_taken (s : State) (i : Nat) (m : LaneMask) : (s.focus i m).taken = s.taken := rfl
@[simp] theorem State.focus_recovery (s : State) (i : Nat) (m : LaneMask) : (s.focus i m).recovery = s.recovery := rfl
@[simp] theorem State.focus_epoch (s : State) (i : Nat) (m : LaneMask) : (s.focus i m).epoch = s.epoch := rfl
@[simp] theorem State.focus_pfcyc (s : State) (i : Nat) (m : LaneMask) : (s.focus i m).pfcyc = s.pfcyc := rfl
@[simp] theorem State.focus_clean (s : State) (i : Nat) (m : LaneMask) : (s.focus i m).clean = s.clean := rfl
@[simp] theorem State.focus_incomplete (s : State) (i : Nat) (m : LaneMask) : (s.focus i m).incomplete = s.incomplete := rfl
@[simp] theorem State.focus_power (s : State) (i : Nat) (m : LaneMask) : (s.focus i m).power = s.power := rfl
@[simp] theorem State.focus_powerCap (s : State) (i : Nat) (m : LaneMask) : (s.focus i m).powerCap = s.powerCap := rfl
@[simp] theorem State.focus_thermal (s : State) (i : Nat) (m : LaneMask) : (s.focus i m).thermal = s.thermal := rfl
@[simp] theorem State.focus_chartLog (s : State) (i : Nat) (m : LaneMask) : (s.focus i m).chartLog = s.chartLog := rfl
@[simp] theorem State.focus_answers (s : State) (i : Nat) (m : LaneMask) : (s.focus i m).answers = s.answers := rfl
@[simp] theorem State.focus_hostData (s : State) (i : Nat) (m : LaneMask) : (s.focus i m).hostData = s.hostData := rfl
@[simp] theorem State.focus_gazetteer (s : State) (i : Nat) (m : LaneMask) : (s.focus i m).gazetteer = s.gazetteer := rfl
@[simp] theorem State.focus_gazetteerSeq (s : State) (i : Nat) (m : LaneMask) : (s.focus i m).gazetteerSeq = s.gazetteerSeq := rfl
@[simp] theorem State.focus_cur (s : State) (i : Nat) (m : LaneMask) : (s.focus i m).cur = i := rfl
@[simp] theorem State.focus_curLanes (s : State) (i : Nat) (m : LaneMask) : (s.focus i m).curLanes = m := rfl
@[simp] theorem State.focus_curBlock (s : State) (i : Nat) (m : LaneMask) : (s.focus i m).curBlock = s.curBlock := rfl
@[simp] theorem State.focus_inputs (s : State) (i : Nat) (m : LaneMask) : (s.focus i m).inputs = s.inputs := rfl
@[simp] theorem State.focus_fresh (s : State) (i : Nat) (m : LaneMask) : (s.focus i m).fresh = s.fresh := rfl
@[simp] theorem State.focus_issuedQ (s : State) (i : Nat) (m : LaneMask) : (s.focus i m).issuedQ = s.issuedQ := rfl

/-! ### Waves after an update -/

@[simp] theorem State.wave?_setWave_self (s : State) (i : Nat) (w : Wave) (h : i < s.waves.length) :
    (s.setWave i w).wave? i = some w := by simp [State.wave?, State.setWave, h]
@[simp] theorem State.wave?_setWave_ne (s : State) {i k : Nat} (w : Wave) (h : k ≠ i) :
    (s.setWave i w).wave? k = s.wave? k := by simp [State.wave?, State.setWave, Ne.symm h]
@[simp] theorem State.wave?_modWave_self (s : State) (i : Nat) (f : Wave → Wave) :
    (s.modWave i f).wave? i = (s.wave? i).map f := by simp [State.wave?, State.modWave]
@[simp] theorem State.wave?_modWave_ne (s : State) {i k : Nat} (f : Wave → Wave) (h : k ≠ i) :
    (s.modWave i f).wave? k = s.wave? k := by
  simp [State.wave?, State.modWave, Ne.symm h]
@[simp] theorem State.wave?_modBlock (s : State) (i k : Nat) (f : Block → Block) : (s.modBlock i f).wave? k = s.wave? k := rfl
@[simp] theorem State.wave?_bump (s : State) (k : Nat) : s.bump.wave? k = s.wave? k := rfl
@[simp] theorem State.waves_length_modWave (s : State) (i : Nat) (f : Wave → Wave) :
    (s.modWave i f).waves.length = s.waves.length := by simp [State.modWave]
@[simp] theorem State.waves_length_setWave (s : State) (i : Nat) (w : Wave) :
    (s.setWave i w).waves.length = s.waves.length := by simp [State.setWave]

/-! ### Lanes of a wave after an update -/

@[simp] theorem Wave.length_mapLanes (w : Wave) (f : Nat → Lane → Lane) : (w.mapLanes f).lanes.length = w.lanes.length := by
  simp [Wave.mapLanes]
@[simp] theorem Wave.length_modLanes (w : Wave) (m : LaneMask) (f : Lane → Lane) : (w.modLanes m f).lanes.length = w.lanes.length := by
  simp [Wave.modLanes]
theorem Wave.lane_mapLanes (w : Wave) (f : Nat → Lane → Lane) {l : Nat} (h : l < w.lanes.length) :
    (w.mapLanes f).lane l = f l (w.lane l) := by
  simp [Wave.mapLanes, Wave.lane, List.getD, h]
theorem Wave.lane_modLanes (w : Wave) (m : LaneMask) (f : Lane → Lane) {l : Nat} (h : l < w.lanes.length) :
    (w.modLanes m f).lane l = if m.getLsbD l then f (w.lane l) else w.lane l := by
  simp [Wave.modLanes, Wave.lane, List.getD, h]

end Sys2Proof.Machine
end

