-- ==== Sys2Proof/Laws/Ops.lean ====
section
/-! SUPPORT. What the shared operations of an issue do: the context, the releases, the issue, results and the advance
of the cohort. -/

namespace Sys2Proof.Machine

/-! ### The context -/

theorem Cx.of_some {s : State} {i : Instr} {cx : Cx} (h : Cx.of s i = some cx) :
    s.waves[s.cur]? = some cx.w ∧ cx.wi = s.cur ∧ i.view = some cx.v ∧ cx.all = s.curLanes ∧ cx.i = i ∧
      cx.ex = cx.w.executing s.curLanes cx.v.hdr ∧ cx.pc = cx.w.pcOf s.curLanes := by
  unfold Cx.of State.wave? at h
  split at h
  · cases h; simp_all
  · cases h

theorem Cx.of_lt {s : State} {i : Instr} {cx : Cx} (h : Cx.of s i = some cx) : cx.wi < s.waves.length := by
  obtain ⟨hw, hwi, -⟩ := Cx.of_some h
  by_contra hc
  rw [hwi] at hc
  simp [List.getElem?_eq_none (Nat.le_of_not_lt hc)] at hw

/-! ### Masks -/

theorem sumBits (f : Nat → Bool) (n : Nat) :
    (∀ k, ((List.range n).foldl (fun r i => r + (if f i then 2 ^ i else 0)) 0).testBit k = (decide (k < n) && f k)) ∧
      (List.range n).foldl (fun r i => r + (if f i then 2 ^ i else 0)) 0 < 2 ^ n := by
  induction n with
  | zero => simp
  | succ n ih =>
    obtain ⟨hb, hlt⟩ := ih
    simp only [List.range_succ, List.foldl_append, List.foldl_cons, List.foldl_nil]
    generalize (List.range n).foldl (fun r i => r + (if f i then 2 ^ i else 0)) 0 = S at hb hlt
    have hS : S + (if f n then 2 ^ n else 0) = 2 ^ n * (f n).toNat + S := by
      cases f n <;> simp [Nat.add_comm]
    rw [hS]
    refine ⟨fun k => ?_, ?_⟩
    · rw [Nat.testBit_two_pow_mul_add _ hlt]
      split
      · rename_i hk
        rw [hb k]; simp [hk, Nat.lt_succ_of_lt hk]
      · rename_i hk
        rcases Nat.lt_or_eq_of_le (Nat.le_of_not_lt hk) with hk' | hk'
        · have : (f n).toNat.testBit (k - n) = false := by
            apply Nat.testBit_lt_two_pow
            have h1 : 2 ^ 1 ≤ 2 ^ (k - n) := Nat.pow_le_pow_right (by decide) (by omega)
            cases f n <;> (simp at *; try omega)
          rw [this]; simp; intro; omega
        · subst hk'; cases f n <;> simp
    · cases f n
      · simp [Nat.pow_succ]; omega
      · simp [Nat.pow_succ]; omega

theorem getLsbD_maskOf (f : Nat → Bool) (l : Nat) : (maskOf f).getLsbD l = (decide (l < 32) && f l) := by
  rw [maskOf, BitVec.getLsbD_ofNat, (sumBits f 32).1 l]
  cases decide (l < 32) <;> simp

theorem mem_lanesOf (m : LaneMask) (l : Nat) : l ∈ lanesOf m ↔ l < 32 ∧ m.getLsbD l = true := by simp [lanesOf]

/-! ### Releases -/

/-- A wave whose registers alone, with their cache entries, differ. -/
def Wave.sameButRegs (w w' : Wave) : Prop := ∃ f r c, w' = { w with frame := f, wregs := r, ocache := c }

theorem Wave.sameButRegs.refl (w : Wave) : w.sameButRegs w := ⟨_, _, _, rfl⟩
theorem Wave.sameButRegs.trans {a b c : Wave} (h : a.sameButRegs b) (h' : b.sameButRegs c) : a.sameButRegs c := by
  obtain ⟨_, _, _, rfl⟩ := h
  obtain ⟨_, _, _, rfl⟩ := h'
  exact ⟨_, _, _, rfl⟩
theorem Wave.sameButRegs.foldl {α : Type} (f : Wave → α → Wave) (hf : ∀ (w : Wave) x, w.sameButRegs (f w x)) (l : List α) (w : Wave) :
    w.sameButRegs (l.foldl f w) := by
  induction l generalizing w with
  | nil => exact .refl w
  | cons x rest ih => exact (hf w x).trans (ih _)

theorem Wave.sameButRegs_setV (w : Wave) (n l : Nat) (c : RegCell) : w.sameButRegs (w.setV n l c) := ⟨_, _, _, rfl⟩
theorem Wave.sameButRegs_setW (w : Wave) (n : Nat) (c : RegCell) : w.sameButRegs (w.setW n c) := ⟨_, _, _, rfl⟩
theorem Wave.sameButRegs_clearPairV (w : Wave) (n l : Nat) : w.sameButRegs (w.clearPairV n l) := by
  unfold Wave.clearPairV; split
  · exact Wave.sameButRegs_setV ..
  · exact .refl w
theorem Wave.sameButRegs_clearPairW (w : Wave) (n : Nat) : w.sameButRegs (w.clearPairW n) := by
  unfold Wave.clearPairW; split
  · exact Wave.sameButRegs_setW ..
  · exact .refl w
theorem Wave.sameButRegs_releaseV (w : Wave) (n l : Nat) : w.sameButRegs (w.releaseV n l) := by
  unfold Wave.releaseV; split
  · exact (Wave.sameButRegs_setV ..).trans (Wave.sameButRegs_clearPairV ..)
  · exact .refl w
theorem Wave.sameButRegs_releaseW (w : Wave) (n : Nat) : w.sameButRegs (w.releaseW n) :=
  (Wave.sameButRegs_setW ..).trans (Wave.sameButRegs_clearPairW ..)
theorem Wave.sameButRegs_releaseOp (w : Wave) (ex : LaneMask) (o : Operand) (k : Nat) : w.sameButRegs (w.releaseOp ex o k) := by
  unfold Wave.releaseOp
  split
  · exact .foldl _ (fun w j => (Wave.sameButRegs.foldl _ (fun w l => Wave.sameButRegs_releaseV w _ l) _ w).trans ⟨_, _, _, rfl⟩) _ w
  · split
    · exact .refl w
    · exact .foldl _ (fun w j => Wave.sameButRegs_releaseW ..) _ w
  · exact .refl w
theorem Wave.sameButRegs_releases (w : Wave) (ex : LaneMask) (v : View) : w.sameButRegs (w.releases ex v) := by
  unfold Wave.releases
  have step : ∀ (b : Bool) (w : Wave) (o : Operand) (k : Nat), w.sameButRegs (if b then w.releaseOp ex o k else w) := by
    intro b w o k; cases b
    · exact .refl w
    · exact Wave.sameButRegs_releaseOp ..
  exact ((step _ _ _ _).trans (step _ _ _ _)).trans (step _ _ _ _)

/-! ### The issue -/

theorem issue_completes {s : State} {i : Instr} {cx : Cx} (h : Cx.of s i = some cx) (ev : Nat → Events) :
    cx.Completes s (cx.issue s ev) [] (cx.laneIssued s ev false) := by
  have hlt := Cx.of_lt h
  obtain ⟨f, r, c, hr⟩ := Wave.sameButRegs_releases cx.w cx.ex cx.v
  refine ⟨?_, rfl, rfl, cx.issuedWave s.cyc ev, ?_, ?_, ?_, ?_, ?_, ?_, ?_⟩
  · intro k hk
    simp [Cx.issue, State.journalise, State.setWave, State.bump, Ne.symm hk]
  · simp [Cx.issue, State.journalise, State.setWave, State.bump, hlt]
  · simp [Cx.issuedWave, Wave.account, Wave.mapLanes, Wave.touch, hr]
  · simp [Cx.issuedWave, Wave.account, Wave.mapLanes, Wave.touch]
  · simp [Cx.issuedWave, Wave.account, Wave.mapLanes, Wave.touch]
  · simp [Cx.issuedWave, Wave.account, Wave.mapLanes, Wave.touch, hr]
  · intro l hl
    simp [Cx.issuedWave, Wave.account, Wave.mapLanes, Wave.touch, hr, Wave.lane, hl, Cx.laneIssued, List.getD]
  · simp only [Cx.issuedWave, Wave.account, Wave.mapLanes, Wave.touch, Wave.rest, hr]

/-- A change of the lanes of the wave alone keeps what an issue left. -/
theorem Cx.CompletesIn.mapLanes {cx : Cx} {s t o : State} {news : List WriteBack} {lane : Nat → Lane}
    (h : cx.CompletesIn s t o news lane) (f : Nat → Lane → Lane) :
    cx.CompletesIn s (t.modWave cx.wi fun w => w.mapLanes f) o news fun l => f l (lane l) := by
  obtain ⟨ho, hr, hs, w, hw, hwb, hf, hg, hl, hx, he⟩ := h
  refine ⟨?_, ?_, hs, w.mapLanes f, ?_, hwb, hf, hg, ?_, ?_, he⟩
  · intro k hk; rw [← ho k hk]; simp [State.modWave, Ne.symm hk]
  · exact hr
  · simp [State.modWave, hw]
  · simp [Wave.mapLanes, hl]
  · intro l hlt
    rw [Wave.lane_mapLanes _ _ (by rw [hl]; exact hlt), hx l hlt]

theorem Wave.mapLanes_of_modLanes (w : Wave) (m : LaneMask) (f : Lane → Lane) :
    w.modLanes m f = w.mapLanes fun l x => if m.getLsbD l then f x else x := rfl

/-- The cohort goes on. -/
theorem Cx.CompletesIn.advance {cx : Cx} {s t o : State} {news : List WriteBack} {lane : Nat → Lane}
    (h : cx.CompletesIn s t o news lane) : cx.CompletesIn s (cx.advance t) o news fun l => cx.goOn l (lane l) :=
  h.mapLanes fun l x => if cx.all.getLsbD l then x.next else x

/-- A result comes under way, and its flag's counts rise. -/
theorem Cx.CompletesIn.pend {cx : Cx} {s t o : State} {ev : Nat → Events} (h : cx.CompletesIn s t o [] (cx.laneIssued s ev false))
    (hf : t.fresh = s.fresh + 1) (hc : t.cyc = s.cyc)
    (due : Nat) (cls : Bool) (writes : List RegWrite) :
    cx.CompletesIn s (t.pend cx.wi cx.ex cx.v.hdr.setFlag (some due) cls writes) o (cx.result1 s due cls writes)
      (cx.laneIssued s ev true) := by
  unfold State.pend Cx.result1
  by_cases h0 : cx.ex = 0
  · simp only [h0, if_true]
    have : cx.laneIssued s ev true = cx.laneIssued s ev false := by
      funext l; simp [Cx.laneIssued, h0]
    rw [this]; exact h
  · simp only [h0, if_false]
    obtain ⟨ho, hr, hs, w, hw, hwb, hf', hg, hl, hx, he⟩ := h
    refine ⟨?_, hr, hs, { (w.modLanes cx.ex fun l => l.bumpCount cx.v.hdr.setFlag) with
      wbs := w.wbs ++ [⟨s.fresh + 1, s.cyc, some due, cx.ex, cx.v.hdr.setFlag, cls, writes⟩] }, ?_, ?_, hf', hg, ?_, ?_, he⟩
    · intro k hk; rw [← ho k hk]; simp [State.modWave, State.bump, Ne.symm hk]
    · simp [State.modWave, State.bump, hw, hf, hc]
    · simp [hwb]
    · simp [Wave.modLanes, hl]
    · intro l hlt
      show (w.modLanes cx.ex _).lane l = _
      rw [Wave.lane_modLanes _ _ _ (by rw [hl]; exact hlt), hx l hlt]
      simp [Cx.laneIssued]

/-- The lanes that execute belong to the cohort. -/
theorem Cx.ex_all {s : State} {i : Instr} {cx : Cx} (h : Cx.of s i = some cx) (l : Nat) (he : cx.ex.getLsbD l = true) :
    cx.all.getLsbD l = true := by
  obtain ⟨-, -, -, ha, -, hx, -⟩ := Cx.of_some h
  rw [hx, Wave.executing, getLsbD_maskOf] at he
  rw [ha]
  simp at he
  exact he.2.1

theorem Cx.Results_result {s : State} {i : Instr} {cx : Cx} (h : Cx.of s i = some cx) (lat : Nat) (f : Nat → Word × Tag × Events) :
    cx.Results s (cx.result s lat f) (s.cyc + lat) false (fun l => (f l).2.2) (cx.writes cx.v.d 0 (fun l => ((f l).1, (f l).2.1)) false) :=
  ((issue_completes h _).pend rfl rfl _ _ _).advance

theorem Cx.Results_pred {s : State} {i : Instr} {cx : Cx} (h : Cx.of s i = some cx) (lat : Nat) (f : Nat → Bool) :
    cx.Results s (cx.predResult s lat f) (s.cyc + lat) false noEvents (cx.predWrites cx.v.d f) :=
  ((issue_completes h _).pend rfl rfl _ _ _).advance

theorem Cx.Results_flag {s : State} {i : Instr} {cx : Cx} (h : Cx.of s i = some cx) (least : Nat) (f : Nat → Word × Tag × Events) :
    ∃ due, s.cyc + least ≤ due ∧ cx.Results s (cx.flagResult s least f) due true (fun l => (f l).2.2)
      (cx.writes cx.v.d 0 (fun l => ((f l).1, (f l).2.1)) false) :=
  ⟨_, Nat.add_le_add_left (Nat.le_add_right _ _) _, ((issue_completes h _).pend rfl rfl _ _ _).advance⟩

/-! ### The frame of the checks -/

/-- An instruction whose checks pass has its effect. -/
theorem startWith_passes {s : State} {i : Instr} {cx : Cx} {lens : Cx → Nat → List Nat} {priv : Cx → Option (List Word)}
    {own : Cx → List (Option Trap)} {k : Cx → State} (h : Cx.of s i = some cx) (hp : cx.commonTrap s (lens cx) (priv cx) = none)
    (ho : firstTrap (own cx) = none) : startWith s i lens priv own k = .next (k cx) := by
  simp [startWith, h, hp, ho]
/-- An instruction one of whose common checks fails traps. -/
theorem startWith_traps {s : State} {i : Instr} {cx : Cx} {lens : Cx → Nat → List Nat} {priv : Cx → Option (List Word)}
    {own : Cx → List (Option Trap)} {k : Cx → State} {t : Trap} (h : Cx.of s i = some cx)
    (hp : cx.commonTrap s (lens cx) (priv cx) = some t) : startWith s i lens priv own k = .next (s.raise cx.wi t) := by
  simp [startWith, h, hp]

/-- A computed instruction completes with its result. -/
theorem compute_completes {s : State} {i : Instr} {cx : Cx} (h : Cx.of s i = some cx) (hp : cx.passes s) (lat : Nat)
    (f : Cx → Nat → Word × Tag × Events) :
    ∃ t, compute s i lat f = .next t ∧ cx.Results s t (s.cyc + lat) false (fun l => (f cx l).2.2)
      (cx.writes cx.v.d 0 (fun l => ((f cx l).1, (f cx l).2.1)) false) := by
  refine ⟨cx.result s lat (f cx), ?_, Cx.Results_result h lat (f cx)⟩
  unfold compute start
  exact startWith_passes (own := fun _ => []) (priv := fun _ => none) h hp rfl

/-! ### Taking a trap (17: R283, R285) -/

/-- A trap of a wave that is in no handler, of a tenant with a handler address, enters the handler. -/
theorem takeTrapAt_enters {s : State} {wi : Nat} {w : Wave} (t : Trap) (pc : Nat) (hw : w.inHandler = false)
    (ht : (s.tenant w.tenant).tvec ≠ 0) :
    s.takeTrapAt wi w t pc = s.setWave wi
      (w.enterHandler t pc (s.tenant w.tenant).tvec (s.record w t.cause false pc t.lanes t.details []) s.cyc) := by
  unfold State.takeTrapAt
  have h0 : (w.inHandler || decide ((s.tenant w.tenant).tvec = 0)) = false := by simp only [hw, decide_eq_false ht, Bool.or_self]
  exact if_neg (by rw [h0]; exact Bool.false_ne_true)

theorem takeTrap_enters {s : State} {wi : Nat} {w : Wave} (t : Trap) (h : s.wave? wi = some w) (hw : w.inHandler = false)
    (ht : (s.tenant w.tenant).tvec ≠ 0) :
    s.takeTrap wi t = s.setWave wi
      (w.enterHandler t (w.pcOf t.lanes) (s.tenant w.tenant).tvec
        (s.record w t.cause false (w.pcOf t.lanes) t.lanes t.details []) s.cyc) := by
  simp only [State.takeTrap, h, takeTrapAt_enters t _ hw ht]

/-- Entering a handler changes neither memory nor any other wave. -/
theorem takeTrap_enters_frame {s : State} {wi : Nat} {w : Wave} (t : Trap) (h : s.wave? wi = some w) (hw : w.inHandler = false)
    (ht : (s.tenant w.tenant).tvec ≠ 0) :
    (s.takeTrap wi t).view0 = s.view0 ∧ (s.takeTrap wi t).view1 = s.view1 ∧ (s.takeTrap wi t).blocks = s.blocks ∧
      ∀ k, k ≠ wi → (s.takeTrap wi t).wave? k = s.wave? k := by
  rw [takeTrap_enters t h hw ht]
  refine ⟨rfl, rfl, rfl, fun k hk => ?_⟩
  simp [State.setWave, State.wave?, Ne.symm hk]

end Sys2Proof.Machine
end

