-- ==== Sys2Proof/Laws/PerInstr.lean ====
section
/-! SUPPORT. Facts made once for each instruction: every field of an instruction's word fits the bits the word
gives it (01: R16, R24). -/

namespace Sys2Proof.Laws

/-! ### The modifier codes -/

theorem IntMod.code_lt (m : IntMod) : m.code < 64 := by obtain ⟨t, s⟩ := m; cases t <;> cases s <;> decide
theorem FCondMod.code_lt (m : FCondMod) : m.code < 64 := by obtain ⟨c, t⟩ := m; cases c <;> cases t <;> decide
theorem FpMod.code5_lt (m : FpMod) : m.code5 < 64 := by obtain ⟨t, r⟩ := m; cases t <;> cases r <;> decide
theorem FpMod.code6_lt (m : FpMod) : m.code6 < 64 := by obtain ⟨t, r⟩ := m; cases t <;> cases r <;> decide
theorem CvtMod.code_lt (m : CvtMod) : m.code < 64 := by obtain ⟨r, s, a, b⟩ := m; cases r <;> cases s <;> simp [CvtMod.code, Rnd.code]
theorem PackMod.code_lt (m : PackMod) : m.code < 64 := by obtain ⟨f, d⟩ := m; have := d.isLt; cases f <;> simp [PackMod.code, KFmt.code] <;> omega
theorem UnpackMod.code_lt (m : UnpackMod) : m.code < 64 := by obtain ⟨f, t⟩ := m; cases f <;> cases t <;> decide
theorem ShMod.code_lt (m : ShMod) : m.code < 64 := by obtain ⟨a, b⟩ := m; cases a <;> cases b <;> decide
theorem VoteMod.code_lt (m : VoteMod) : m.code < 64 := by cases m <;> decide
theorem RedMod.code_lt (m : RedMod) : m.code < 64 := by obtain ⟨a, b⟩ := m; cases a <;> cases b <;> decide
theorem LoadMod.code_lt (m : LoadMod) : m.code < 64 := by obtain ⟨r, s, z⟩ := m; have := r.isLt; cases s <;> cases z <;> simp [LoadMod.code, MemSize.code] <;> omega
theorem StoreMod.code_lt (m : StoreMod) : m.code < 64 := by obtain ⟨r, z⟩ := m; have := r.isLt; cases z <;> simp [StoreMod.code, MemSize.code] <;> omega
theorem AtomMod.code_lt (m : AtomMod) : m.code < 64 := by obtain ⟨a, b, c⟩ := m; cases a <;> cases b <;> cases c <;> decide
theorem FenceMod.code_lt (m : FenceMod) : m.code < 64 := by obtain ⟨a, b⟩ := m; cases a <;> cases b <;> decide
theorem TileFmt.code_lt (m : TileFmt) : m.code < 64 := by cases m <;> decide
theorem GrowMod.code_lt (m : GrowMod) : m.code < 64 := by cases m <;> decide
theorem MovlMod.code_lt (m : MovlMod) : m.code < 64 := by cases m <;> decide
theorem TretMod.code_lt (m : TretMod) : m.code < 64 := by cases m <;> decide
theorem JoinMod.code_lt (m : JoinMod) : m.code < 64 := by cases m <;> decide
theorem Tag.code_lt (t : Tag) : t.code < 16 := by cases t <;> decide
theorem CvtMod.immBits_lt (m : CvtMod) : m.immBits < 2 ^ 8 := by
  have h1 := Tag.code_lt m.dst
  have h2 := Tag.code_lt m.src
  simp only [CvtMod.immBits]; omega
theorem ICondMod.code_lt (m : ICondMod) (h : m.ok = true) : m.code < 64 := by
  obtain ⟨c, t⟩ := m; cases t <;> first | (cases c <;> decide) | (cases c <;> exact absurd h (by decide))

/-! ### The family -/

/-- The op, mod and immediate of an instruction's word fit their fields; a step of the device has no word. -/
def Fields.Statement (i : Instr) : Prop :=
  ∀ v, i.view = some v → v.modOk = true → v.op < 1024 ∧ v.mod < 64 ∧ v.imm < 2 ^ v.immBits

theorem Fields.iadd (h : Hdr) (m : IntMod) (d : Operand) (a : Operand) (b : Operand) : Fields.Statement (.iadd h m d a b) := by
  intro v hv; cases hv
  exact fun _ => ⟨of_decide_eq_true rfl, IntMod.code_lt m, of_decide_eq_true rfl⟩
theorem Fields.isub (h : Hdr) (m : IntMod) (d : Operand) (a : Operand) (b : Operand) : Fields.Statement (.isub h m d a b) := by
  intro v hv; cases hv
  exact fun _ => ⟨of_decide_eq_true rfl, IntMod.code_lt m, of_decide_eq_true rfl⟩
theorem Fields.imul (h : Hdr) (m : IntMod) (d : Operand) (a : Operand) (b : Operand) : Fields.Statement (.imul h m d a b) := by
  intro v hv; cases hv
  exact fun _ => ⟨of_decide_eq_true rfl, IntMod.code_lt m, of_decide_eq_true rfl⟩
theorem Fields.imulh (h : Hdr) (m : IntMod) (d : Operand) (a : Operand) (b : Operand) : Fields.Statement (.imulh h m d a b) := by
  intro v hv; cases hv
  exact fun _ => ⟨of_decide_eq_true rfl, IntMod.code_lt m, of_decide_eq_true rfl⟩
theorem Fields.imad (h : Hdr) (m : IntMod) (d : Operand) (a : Operand) (b : Operand) (x : Operand) : Fields.Statement (.imad h m d a b x) := by
  intro v hv; cases hv
  exact fun _ => ⟨of_decide_eq_true rfl, IntMod.code_lt m, of_decide_eq_true rfl⟩
theorem Fields.imin (h : Hdr) (m : IntMod) (d : Operand) (a : Operand) (b : Operand) : Fields.Statement (.imin h m d a b) := by
  intro v hv; cases hv
  exact fun _ => ⟨of_decide_eq_true rfl, IntMod.code_lt m, of_decide_eq_true rfl⟩
theorem Fields.imax (h : Hdr) (m : IntMod) (d : Operand) (a : Operand) (b : Operand) : Fields.Statement (.imax h m d a b) := by
  intro v hv; cases hv
  exact fun _ => ⟨of_decide_eq_true rfl, IntMod.code_lt m, of_decide_eq_true rfl⟩
theorem Fields.iabs (h : Hdr) (m : IntMod) (d : Operand) (a : Operand) : Fields.Statement (.iabs h m d a) := by
  intro v hv; cases hv
  exact fun _ => ⟨of_decide_eq_true rfl, IntMod.code_lt m, of_decide_eq_true rfl⟩
theorem Fields.ineg (h : Hdr) (m : IntMod) (d : Operand) (a : Operand) : Fields.Statement (.ineg h m d a) := by
  intro v hv; cases hv
  exact fun _ => ⟨of_decide_eq_true rfl, IntMod.code_lt m, of_decide_eq_true rfl⟩
theorem Fields.idiv (h : Hdr) (m : IntMod) (d : Operand) (a : Operand) (b : Operand) : Fields.Statement (.idiv h m d a b) := by
  intro v hv; cases hv
  exact fun _ => ⟨of_decide_eq_true rfl, IntMod.code_lt m, of_decide_eq_true rfl⟩
theorem Fields.irem (h : Hdr) (m : IntMod) (d : Operand) (a : Operand) (b : Operand) : Fields.Statement (.irem h m d a b) := by
  intro v hv; cases hv
  exact fun _ => ⟨of_decide_eq_true rfl, IntMod.code_lt m, of_decide_eq_true rfl⟩
theorem Fields.isad (h : Hdr) (m : IntMod) (d : Operand) (a : Operand) (b : Operand) (x : Operand) : Fields.Statement (.isad h m d a b x) := by
  intro v hv; cases hv
  exact fun _ => ⟨of_decide_eq_true rfl, IntMod.code_lt m, of_decide_eq_true rfl⟩
theorem Fields.iaddi (h : Hdr) (m : IntMod) (d : Operand) (a : Operand) (imm : BitVec 27) : Fields.Statement (.iaddi h m d a imm) := by
  intro v hv; cases hv
  exact fun _ => ⟨of_decide_eq_true rfl, IntMod.code_lt m, imm.isLt⟩
theorem Fields.imuli (h : Hdr) (m : IntMod) (d : Operand) (a : Operand) (imm : BitVec 27) : Fields.Statement (.imuli h m d a imm) := by
  intro v hv; cases hv
  exact fun _ => ⟨of_decide_eq_true rfl, IntMod.code_lt m, imm.isLt⟩
theorem Fields.lea (h : Hdr) (m : IntMod) (d : Operand) (a : Operand) (b : Operand) (imm : BitVec 15) : Fields.Statement (.lea h m d a b imm) := by
  intro v hv; cases hv
  exact fun _ => ⟨of_decide_eq_true rfl, IntMod.code_lt m, imm.isLt⟩
theorem Fields.idot4 (h : Hdr) (m : IntMod) (d : Operand) (a : Operand) (b : Operand) (x : Operand) : Fields.Statement (.idot4 h m d a b x) := by
  intro v hv; cases hv
  exact fun _ => ⟨of_decide_eq_true rfl, IntMod.code_lt m, of_decide_eq_true rfl⟩
theorem Fields.and (h : Hdr) (d : Operand) (a : Operand) (b : Operand) : Fields.Statement (.and h d a b) := by
  intro v hv; cases hv
  exact fun _ => ⟨of_decide_eq_true rfl, of_decide_eq_true rfl, of_decide_eq_true rfl⟩
theorem Fields.or (h : Hdr) (d : Operand) (a : Operand) (b : Operand) : Fields.Statement (.or h d a b) := by
  intro v hv; cases hv
  exact fun _ => ⟨of_decide_eq_true rfl, of_decide_eq_true rfl, of_decide_eq_true rfl⟩
theorem Fields.xor (h : Hdr) (d : Operand) (a : Operand) (b : Operand) : Fields.Statement (.xor h d a b) := by
  intro v hv; cases hv
  exact fun _ => ⟨of_decide_eq_true rfl, of_decide_eq_true rfl, of_decide_eq_true rfl⟩
theorem Fields.not (h : Hdr) (d : Operand) (a : Operand) : Fields.Statement (.not h d a) := by
  intro v hv; cases hv
  exact fun _ => ⟨of_decide_eq_true rfl, of_decide_eq_true rfl, of_decide_eq_true rfl⟩
theorem Fields.andn (h : Hdr) (d : Operand) (a : Operand) (b : Operand) : Fields.Statement (.andn h d a b) := by
  intro v hv; cases hv
  exact fun _ => ⟨of_decide_eq_true rfl, of_decide_eq_true rfl, of_decide_eq_true rfl⟩
theorem Fields.shl (h : Hdr) (m : IntMod) (d : Operand) (a : Operand) (b : Operand) : Fields.Statement (.shl h m d a b) := by
  intro v hv; cases hv
  exact fun _ => ⟨of_decide_eq_true rfl, IntMod.code_lt m, of_decide_eq_true rfl⟩
theorem Fields.shr (h : Hdr) (m : IntMod) (d : Operand) (a : Operand) (b : Operand) : Fields.Statement (.shr h m d a b) := by
  intro v hv; cases hv
  exact fun _ => ⟨of_decide_eq_true rfl, IntMod.code_lt m, of_decide_eq_true rfl⟩
theorem Fields.sar (h : Hdr) (m : IntMod) (d : Operand) (a : Operand) (b : Operand) : Fields.Statement (.sar h m d a b) := by
  intro v hv; cases hv
  exact fun _ => ⟨of_decide_eq_true rfl, IntMod.code_lt m, of_decide_eq_true rfl⟩
theorem Fields.rol (h : Hdr) (m : IntMod) (d : Operand) (a : Operand) (b : Operand) : Fields.Statement (.rol h m d a b) := by
  intro v hv; cases hv
  exact fun _ => ⟨of_decide_eq_true rfl, IntMod.code_lt m, of_decide_eq_true rfl⟩
theorem Fields.shli (h : Hdr) (m : IntMod) (d : Operand) (a : Operand) (imm : BitVec 27) : Fields.Statement (.shli h m d a imm) := by
  intro v hv; cases hv
  exact fun _ => ⟨of_decide_eq_true rfl, IntMod.code_lt m, imm.isLt⟩
theorem Fields.shri (h : Hdr) (m : IntMod) (d : Operand) (a : Operand) (imm : BitVec 27) : Fields.Statement (.shri h m d a imm) := by
  intro v hv; cases hv
  exact fun _ => ⟨of_decide_eq_true rfl, IntMod.code_lt m, imm.isLt⟩
theorem Fields.sari (h : Hdr) (m : IntMod) (d : Operand) (a : Operand) (imm : BitVec 27) : Fields.Statement (.sari h m d a imm) := by
  intro v hv; cases hv
  exact fun _ => ⟨of_decide_eq_true rfl, IntMod.code_lt m, imm.isLt⟩
theorem Fields.popc (h : Hdr) (m : IntMod) (d : Operand) (a : Operand) : Fields.Statement (.popc h m d a) := by
  intro v hv; cases hv
  exact fun _ => ⟨of_decide_eq_true rfl, IntMod.code_lt m, of_decide_eq_true rfl⟩
theorem Fields.clz (h : Hdr) (m : IntMod) (d : Operand) (a : Operand) : Fields.Statement (.clz h m d a) := by
  intro v hv; cases hv
  exact fun _ => ⟨of_decide_eq_true rfl, IntMod.code_lt m, of_decide_eq_true rfl⟩
theorem Fields.ctz (h : Hdr) (m : IntMod) (d : Operand) (a : Operand) : Fields.Statement (.ctz h m d a) := by
  intro v hv; cases hv
  exact fun _ => ⟨of_decide_eq_true rfl, IntMod.code_lt m, of_decide_eq_true rfl⟩
theorem Fields.brev (h : Hdr) (m : IntMod) (d : Operand) (a : Operand) : Fields.Statement (.brev h m d a) := by
  intro v hv; cases hv
  exact fun _ => ⟨of_decide_eq_true rfl, IntMod.code_lt m, of_decide_eq_true rfl⟩
theorem Fields.bfx (h : Hdr) (m : IntMod) (d : Operand) (a : Operand) (b : Operand) : Fields.Statement (.bfx h m d a b) := by
  intro v hv; cases hv
  exact fun _ => ⟨of_decide_eq_true rfl, IntMod.code_lt m, of_decide_eq_true rfl⟩
theorem Fields.bfi (h : Hdr) (m : IntMod) (d : Operand) (a : Operand) (b : Operand) (x : Operand) : Fields.Statement (.bfi h m d a b x) := by
  intro v hv; cases hv
  exact fun _ => ⟨of_decide_eq_true rfl, IntMod.code_lt m, of_decide_eq_true rfl⟩
theorem Fields.andi (h : Hdr) (d : Operand) (a : Operand) (imm : BitVec 27) : Fields.Statement (.andi h d a imm) := by
  intro v hv; cases hv
  exact fun _ => ⟨of_decide_eq_true rfl, of_decide_eq_true rfl, imm.isLt⟩
theorem Fields.ori (h : Hdr) (d : Operand) (a : Operand) (imm : BitVec 27) : Fields.Statement (.ori h d a imm) := by
  intro v hv; cases hv
  exact fun _ => ⟨of_decide_eq_true rfl, of_decide_eq_true rfl, imm.isLt⟩
theorem Fields.xori (h : Hdr) (d : Operand) (a : Operand) (imm : BitVec 27) : Fields.Statement (.xori h d a imm) := by
  intro v hv; cases hv
  exact fun _ => ⟨of_decide_eq_true rfl, of_decide_eq_true rfl, imm.isLt⟩
theorem Fields.isetp (h : Hdr) (m : ICondMod) (d : Operand) (a : Operand) (b : Operand) (x : Operand) : Fields.Statement (.isetp h m d a b x) := by
  intro v hv; cases hv
  exact fun hm => ⟨of_decide_eq_true rfl, ICondMod.code_lt m hm, of_decide_eq_true rfl⟩
theorem Fields.fsetp (h : Hdr) (m : FCondMod) (d : Operand) (a : Operand) (b : Operand) (x : Operand) : Fields.Statement (.fsetp h m d a b x) := by
  intro v hv; cases hv
  exact fun _ => ⟨of_decide_eq_true rfl, FCondMod.code_lt m, of_decide_eq_true rfl⟩
theorem Fields.isetpi (h : Hdr) (m : ICondMod) (d : Operand) (a : Operand) (imm : BitVec 27) : Fields.Statement (.isetpi h m d a imm) := by
  intro v hv; cases hv
  exact fun hm => ⟨of_decide_eq_true rfl, ICondMod.code_lt m hm, imm.isLt⟩
theorem Fields.pand (h : Hdr) (d : Operand) (a : Operand) (b : Operand) : Fields.Statement (.pand h d a b) := by
  intro v hv; cases hv
  exact fun _ => ⟨of_decide_eq_true rfl, of_decide_eq_true rfl, of_decide_eq_true rfl⟩
theorem Fields.por (h : Hdr) (d : Operand) (a : Operand) (b : Operand) : Fields.Statement (.por h d a b) := by
  intro v hv; cases hv
  exact fun _ => ⟨of_decide_eq_true rfl, of_decide_eq_true rfl, of_decide_eq_true rfl⟩
theorem Fields.pxor (h : Hdr) (d : Operand) (a : Operand) (b : Operand) : Fields.Statement (.pxor h d a b) := by
  intro v hv; cases hv
  exact fun _ => ⟨of_decide_eq_true rfl, of_decide_eq_true rfl, of_decide_eq_true rfl⟩
theorem Fields.pnot (h : Hdr) (d : Operand) (a : Operand) : Fields.Statement (.pnot h d a) := by
  intro v hv; cases hv
  exact fun _ => ⟨of_decide_eq_true rfl, of_decide_eq_true rfl, of_decide_eq_true rfl⟩
theorem Fields.sel (h : Hdr) (d : Operand) (a : Operand) (b : Operand) (x : Operand) : Fields.Statement (.sel h d a b x) := by
  intro v hv; cases hv
  exact fun _ => ⟨of_decide_eq_true rfl, of_decide_eq_true rfl, of_decide_eq_true rfl⟩
theorem Fields.pmask (h : Hdr) (d : Operand) (a : Operand) : Fields.Statement (.pmask h d a) := by
  intro v hv; cases hv
  exact fun _ => ⟨of_decide_eq_true rfl, of_decide_eq_true rfl, of_decide_eq_true rfl⟩
theorem Fields.psetm (h : Hdr) (d : Operand) (a : Operand) : Fields.Statement (.psetm h d a) := by
  intro v hv; cases hv
  exact fun _ => ⟨of_decide_eq_true rfl, of_decide_eq_true rfl, of_decide_eq_true rfl⟩
theorem Fields.bra (h : Hdr) (imm : BitVec 32) : Fields.Statement (.bra h imm) := by
  intro v hv; cases hv
  exact fun _ => ⟨of_decide_eq_true rfl, of_decide_eq_true rfl, imm.isLt⟩
theorem Fields.brx (h : Hdr) (a : Operand) : Fields.Statement (.brx h a) := by
  intro v hv; cases hv
  exact fun _ => ⟨of_decide_eq_true rfl, of_decide_eq_true rfl, of_decide_eq_true rfl⟩
theorem Fields.call (h : Hdr) (d : Operand) (imm : BitVec 32) : Fields.Statement (.call h d imm) := by
  intro v hv; cases hv
  exact fun _ => ⟨of_decide_eq_true rfl, of_decide_eq_true rfl, imm.isLt⟩
theorem Fields.callx (h : Hdr) (d : Operand) (a : Operand) : Fields.Statement (.callx h d a) := by
  intro v hv; cases hv
  exact fun _ => ⟨of_decide_eq_true rfl, of_decide_eq_true rfl, of_decide_eq_true rfl⟩
theorem Fields.callb (h : Hdr) (d : Operand) (a : Operand) (b : Operand) (imm : BitVec 15) : Fields.Statement (.callb h d a b imm) := by
  intro v hv; cases hv
  exact fun _ => ⟨of_decide_eq_true rfl, of_decide_eq_true rfl, imm.isLt⟩
theorem Fields.ret (h : Hdr) (a : Operand) : Fields.Statement (.ret h a) := by
  intro v hv; cases hv
  exact fun _ => ⟨of_decide_eq_true rfl, of_decide_eq_true rfl, of_decide_eq_true rfl⟩
theorem Fields.exit (h : Hdr) : Fields.Statement (.exit h) := by
  intro v hv; cases hv
  exact fun _ => ⟨of_decide_eq_true rfl, of_decide_eq_true rfl, of_decide_eq_true rfl⟩
theorem Fields.wsync (h : Hdr) (a : Operand) : Fields.Statement (.wsync h a) := by
  intro v hv; cases hv
  exact fun _ => ⟨of_decide_eq_true rfl, of_decide_eq_true rfl, of_decide_eq_true rfl⟩
theorem Fields.nop (h : Hdr) : Fields.Statement (.nop h) := by
  intro v hv; cases hv
  exact fun _ => ⟨of_decide_eq_true rfl, of_decide_eq_true rfl, of_decide_eq_true rfl⟩
theorem Fields.mov (h : Hdr) (d : Operand) (a : Operand) : Fields.Statement (.mov h d a) := by
  intro v hv; cases hv
  exact fun _ => ⟨of_decide_eq_true rfl, of_decide_eq_true rfl, of_decide_eq_true rfl⟩
theorem Fields.movw (h : Hdr) (d : Operand) (a : Operand) (b : Operand) : Fields.Statement (.movw h d a b) := by
  intro v hv; cases hv
  exact fun _ => ⟨of_decide_eq_true rfl, of_decide_eq_true rfl, of_decide_eq_true rfl⟩
theorem Fields.movi (h : Hdr) (d : Operand) (imm : BitVec 27) : Fields.Statement (.movi h d imm) := by
  intro v hv; cases hv
  exact fun _ => ⟨of_decide_eq_true rfl, of_decide_eq_true rfl, imm.isLt⟩
theorem Fields.movl (h : Hdr) (m : MovlMod) (d : Operand) (imm : BitVec 32) : Fields.Statement (.movl h m d imm) := by
  intro v hv; cases hv
  exact fun _ => ⟨of_decide_eq_true rfl, MovlMod.code_lt m, imm.isLt⟩
theorem Fields.grow (h : Hdr) (m : GrowMod) (d : Operand) (a : Operand) : Fields.Statement (.grow h m d a) := by
  intro v hv; cases hv
  exact fun _ => ⟨of_decide_eq_true rfl, GrowMod.code_lt m, of_decide_eq_true rfl⟩
theorem Fields.shrink (h : Hdr) (d : Operand) (a : Operand) : Fields.Statement (.shrink h d a) := by
  intro v hv; cases hv
  exact fun _ => ⟨of_decide_eq_true rfl, of_decide_eq_true rfl, of_decide_eq_true rfl⟩
theorem Fields.capmk (h : Hdr) (d : Operand) (a : Operand) (b : Operand) : Fields.Statement (.capmk h d a b) := by
  intro v hv; cases hv
  exact fun _ => ⟨of_decide_eq_true rfl, of_decide_eq_true rfl, of_decide_eq_true rfl⟩
theorem Fields.capnrw (h : Hdr) (d : Operand) (a : Operand) (b : Operand) (x : Operand) : Fields.Statement (.capnrw h d a b x) := by
  intro v hv; cases hv
  exact fun _ => ⟨of_decide_eq_true rfl, of_decide_eq_true rfl, of_decide_eq_true rfl⟩
theorem Fields.capchk (h : Hdr) (m : BitVec 3) (d : Operand) (a : Operand) (b : Operand) (x : Operand) : Fields.Statement (.capchk h m d a b x) := by
  intro v hv; cases hv
  exact fun _ => ⟨of_decide_eq_true rfl, lt_trans m.isLt (by decide), of_decide_eq_true rfl⟩
theorem Fields.caprd (h : Hdr) (d : Operand) (a : Operand) (b : Operand) : Fields.Statement (.caprd h d a b) := by
  intro v hv; cases hv
  exact fun _ => ⟨of_decide_eq_true rfl, of_decide_eq_true rfl, of_decide_eq_true rfl⟩
theorem Fields.fadd (h : Hdr) (m : FpMod) (d : Operand) (a : Operand) (b : Operand) : Fields.Statement (.fadd h m d a b) := by
  intro v hv; cases hv
  exact fun _ => ⟨of_decide_eq_true rfl, FpMod.code5_lt m, of_decide_eq_true rfl⟩
theorem Fields.fmul (h : Hdr) (m : FpMod) (d : Operand) (a : Operand) (b : Operand) : Fields.Statement (.fmul h m d a b) := by
  intro v hv; cases hv
  exact fun _ => ⟨of_decide_eq_true rfl, FpMod.code5_lt m, of_decide_eq_true rfl⟩
theorem Fields.ffma (h : Hdr) (m : FpMod) (d : Operand) (a : Operand) (b : Operand) (x : Operand) : Fields.Statement (.ffma h m d a b x) := by
  intro v hv; cases hv
  exact fun _ => ⟨of_decide_eq_true rfl, FpMod.code5_lt m, of_decide_eq_true rfl⟩
theorem Fields.fmin (h : Hdr) (m : FpMod) (d : Operand) (a : Operand) (b : Operand) : Fields.Statement (.fmin h m d a b) := by
  intro v hv; cases hv
  exact fun _ => ⟨of_decide_eq_true rfl, FpMod.code5_lt m, of_decide_eq_true rfl⟩
theorem Fields.fmax (h : Hdr) (m : FpMod) (d : Operand) (a : Operand) (b : Operand) : Fields.Statement (.fmax h m d a b) := by
  intro v hv; cases hv
  exact fun _ => ⟨of_decide_eq_true rfl, FpMod.code5_lt m, of_decide_eq_true rfl⟩
theorem Fields.fabs (h : Hdr) (m : FpMod) (d : Operand) (a : Operand) : Fields.Statement (.fabs h m d a) := by
  intro v hv; cases hv
  exact fun _ => ⟨of_decide_eq_true rfl, FpMod.code5_lt m, of_decide_eq_true rfl⟩
theorem Fields.fneg (h : Hdr) (m : FpMod) (d : Operand) (a : Operand) : Fields.Statement (.fneg h m d a) := by
  intro v hv; cases hv
  exact fun _ => ⟨of_decide_eq_true rfl, FpMod.code5_lt m, of_decide_eq_true rfl⟩
theorem Fields.frcp (h : Hdr) (m : FpMod) (d : Operand) (a : Operand) : Fields.Statement (.frcp h m d a) := by
  intro v hv; cases hv
  exact fun _ => ⟨of_decide_eq_true rfl, FpMod.code5_lt m, of_decide_eq_true rfl⟩
theorem Fields.fsqrt (h : Hdr) (m : FpMod) (d : Operand) (a : Operand) : Fields.Statement (.fsqrt h m d a) := by
  intro v hv; cases hv
  exact fun _ => ⟨of_decide_eq_true rfl, FpMod.code5_lt m, of_decide_eq_true rfl⟩
theorem Fields.frsq (h : Hdr) (m : FpMod) (d : Operand) (a : Operand) : Fields.Statement (.frsq h m d a) := by
  intro v hv; cases hv
  exact fun _ => ⟨of_decide_eq_true rfl, FpMod.code5_lt m, of_decide_eq_true rfl⟩
theorem Fields.fexp2 (h : Hdr) (m : FpMod) (d : Operand) (a : Operand) : Fields.Statement (.fexp2 h m d a) := by
  intro v hv; cases hv
  exact fun _ => ⟨of_decide_eq_true rfl, FpMod.code5_lt m, of_decide_eq_true rfl⟩
theorem Fields.flog2 (h : Hdr) (m : FpMod) (d : Operand) (a : Operand) : Fields.Statement (.flog2 h m d a) := by
  intro v hv; cases hv
  exact fun _ => ⟨of_decide_eq_true rfl, FpMod.code5_lt m, of_decide_eq_true rfl⟩
theorem Fields.fsin (h : Hdr) (m : FpMod) (d : Operand) (a : Operand) : Fields.Statement (.fsin h m d a) := by
  intro v hv; cases hv
  exact fun _ => ⟨of_decide_eq_true rfl, FpMod.code5_lt m, of_decide_eq_true rfl⟩
theorem Fields.fcos (h : Hdr) (m : FpMod) (d : Operand) (a : Operand) : Fields.Statement (.fcos h m d a) := by
  intro v hv; cases hv
  exact fun _ => ⟨of_decide_eq_true rfl, FpMod.code5_lt m, of_decide_eq_true rfl⟩
theorem Fields.fdiv (h : Hdr) (m : FpMod) (d : Operand) (a : Operand) (b : Operand) : Fields.Statement (.fdiv h m d a b) := by
  intro v hv; cases hv
  exact fun _ => ⟨of_decide_eq_true rfl, FpMod.code5_lt m, of_decide_eq_true rfl⟩
theorem Fields.fclass (h : Hdr) (m : FpMod) (d : Operand) (a : Operand) : Fields.Statement (.fclass h m d a) := by
  intro v hv; cases hv
  exact fun _ => ⟨of_decide_eq_true rfl, FpMod.code5_lt m, of_decide_eq_true rfl⟩
theorem Fields.ckcmp (h : Hdr) (d : Operand) (a : Operand) (b : Operand) : Fields.Statement (.ckcmp h d a b) := by
  intro v hv; cases hv
  exact fun _ => ⟨of_decide_eq_true rfl, of_decide_eq_true rfl, of_decide_eq_true rfl⟩
theorem Fields.ckfix (h : Hdr) (d : Operand) (a : Operand) (b : Operand) (x : Operand) : Fields.Statement (.ckfix h d a b x) := by
  intro v hv; cases hv
  exact fun _ => ⟨of_decide_eq_true rfl, of_decide_eq_true rfl, of_decide_eq_true rfl⟩
theorem Fields.faddH (h : Hdr) (m : FpMod) (d : Operand) (a : Operand) (b : Operand) : Fields.Statement (.faddH h m d a b) := by
  intro v hv; cases hv
  exact fun _ => ⟨of_decide_eq_true rfl, FpMod.code6_lt m, of_decide_eq_true rfl⟩
theorem Fields.fmulH (h : Hdr) (m : FpMod) (d : Operand) (a : Operand) (b : Operand) : Fields.Statement (.fmulH h m d a b) := by
  intro v hv; cases hv
  exact fun _ => ⟨of_decide_eq_true rfl, FpMod.code6_lt m, of_decide_eq_true rfl⟩
theorem Fields.ffmaH (h : Hdr) (m : FpMod) (d : Operand) (a : Operand) (b : Operand) (x : Operand) : Fields.Statement (.ffmaH h m d a b x) := by
  intro v hv; cases hv
  exact fun _ => ⟨of_decide_eq_true rfl, FpMod.code6_lt m, of_decide_eq_true rfl⟩
theorem Fields.fminH (h : Hdr) (m : FpMod) (d : Operand) (a : Operand) (b : Operand) : Fields.Statement (.fminH h m d a b) := by
  intro v hv; cases hv
  exact fun _ => ⟨of_decide_eq_true rfl, FpMod.code6_lt m, of_decide_eq_true rfl⟩
theorem Fields.fmaxH (h : Hdr) (m : FpMod) (d : Operand) (a : Operand) (b : Operand) : Fields.Statement (.fmaxH h m d a b) := by
  intro v hv; cases hv
  exact fun _ => ⟨of_decide_eq_true rfl, FpMod.code6_lt m, of_decide_eq_true rfl⟩
theorem Fields.fabsH (h : Hdr) (m : FpMod) (d : Operand) (a : Operand) : Fields.Statement (.fabsH h m d a) := by
  intro v hv; cases hv
  exact fun _ => ⟨of_decide_eq_true rfl, FpMod.code6_lt m, of_decide_eq_true rfl⟩
theorem Fields.fnegH (h : Hdr) (m : FpMod) (d : Operand) (a : Operand) : Fields.Statement (.fnegH h m d a) := by
  intro v hv; cases hv
  exact fun _ => ⟨of_decide_eq_true rfl, FpMod.code6_lt m, of_decide_eq_true rfl⟩
theorem Fields.frcpH (h : Hdr) (m : FpMod) (d : Operand) (a : Operand) : Fields.Statement (.frcpH h m d a) := by
  intro v hv; cases hv
  exact fun _ => ⟨of_decide_eq_true rfl, FpMod.code6_lt m, of_decide_eq_true rfl⟩
theorem Fields.fexp2H (h : Hdr) (m : FpMod) (d : Operand) (a : Operand) : Fields.Statement (.fexp2H h m d a) := by
  intro v hv; cases hv
  exact fun _ => ⟨of_decide_eq_true rfl, FpMod.code6_lt m, of_decide_eq_true rfl⟩
theorem Fields.fdot2 (h : Hdr) (m : FpMod) (d : Operand) (a : Operand) (b : Operand) (x : Operand) : Fields.Statement (.fdot2 h m d a b x) := by
  intro v hv; cases hv
  exact fun _ => ⟨of_decide_eq_true rfl, FpMod.code6_lt m, of_decide_eq_true rfl⟩
theorem Fields.cvt (h : Hdr) (m : CvtMod) (d : Operand) (a : Operand) : Fields.Statement (.cvt h m d a) := by
  intro v hv; cases hv
  exact fun _ => ⟨of_decide_eq_true rfl, CvtMod.code_lt m, CvtMod.immBits_lt m⟩
theorem Fields.packk (h : Hdr) (m : PackMod) (d : Operand) (a : Operand) : Fields.Statement (.packk h m d a) := by
  intro v hv; cases hv
  exact fun _ => ⟨of_decide_eq_true rfl, PackMod.code_lt m, of_decide_eq_true rfl⟩
theorem Fields.unpkk (h : Hdr) (m : UnpackMod) (d : Operand) (a : Operand) (b : Operand) : Fields.Statement (.unpkk h m d a b) := by
  intro v hv; cases hv
  exact fun _ => ⟨of_decide_eq_true rfl, UnpackMod.code_lt m, of_decide_eq_true rfl⟩
theorem Fields.ftag (h : Hdr) (d : Operand) (a : Operand) (imm : Tag) : Fields.Statement (.ftag h d a imm) := by
  intro v hv; cases hv
  exact fun _ => ⟨of_decide_eq_true rfl, of_decide_eq_true rfl, Tag.code_lt imm⟩
theorem Fields.ftagrd (h : Hdr) (d : Operand) (a : Operand) : Fields.Statement (.ftagrd h d a) := by
  intro v hv; cases hv
  exact fun _ => ⟨of_decide_eq_true rfl, of_decide_eq_true rfl, of_decide_eq_true rfl⟩
theorem Fields.shfl (h : Hdr) (m : ShMod) (d : Operand) (a : Operand) (b : Operand) : Fields.Statement (.shfl h m d a b) := by
  intro v hv; cases hv
  exact fun _ => ⟨of_decide_eq_true rfl, ShMod.code_lt m, of_decide_eq_true rfl⟩
theorem Fields.shfli (h : Hdr) (m : ShMod) (d : Operand) (a : Operand) (imm : BitVec 10) : Fields.Statement (.shfli h m d a imm) := by
  intro v hv; cases hv
  exact fun _ => ⟨of_decide_eq_true rfl, ShMod.code_lt m, imm.isLt⟩
theorem Fields.vote (h : Hdr) (m : VoteMod) (d : Operand) (a : Operand) : Fields.Statement (.vote h m d a) := by
  intro v hv; cases hv
  exact fun _ => ⟨of_decide_eq_true rfl, VoteMod.code_lt m, of_decide_eq_true rfl⟩
theorem Fields.red (h : Hdr) (m : RedMod) (d : Operand) (a : Operand) : Fields.Statement (.red h m d a) := by
  intro v hv; cases hv
  exact fun _ => ⟨of_decide_eq_true rfl, RedMod.code_lt m, of_decide_eq_true rfl⟩
theorem Fields.scan (h : Hdr) (m : RedMod) (d : Operand) (a : Operand) : Fields.Statement (.scan h m d a) := by
  intro v hv; cases hv
  exact fun _ => ⟨of_decide_eq_true rfl, RedMod.code_lt m, of_decide_eq_true rfl⟩
theorem Fields.scanx (h : Hdr) (m : RedMod) (d : Operand) (a : Operand) : Fields.Statement (.scanx h m d a) := by
  intro v hv; cases hv
  exact fun _ => ⟨of_decide_eq_true rfl, RedMod.code_lt m, of_decide_eq_true rfl⟩
theorem Fields.ld (h : Hdr) (m : LoadMod) (d : Operand) (a : Operand) (b : Operand) (imm : BitVec 15) : Fields.Statement (.ld h m d a b imm) := by
  intro v hv; cases hv
  exact fun _ => ⟨of_decide_eq_true rfl, LoadMod.code_lt m, imm.isLt⟩
theorem Fields.st (h : Hdr) (m : StoreMod) (d : Operand) (a : Operand) (b : Operand) (imm : BitVec 15) : Fields.Statement (.st h m d a b imm) := by
  intro v hv; cases hv
  exact fun _ => ⟨of_decide_eq_true rfl, StoreMod.code_lt m, imm.isLt⟩
theorem Fields.ldl (h : Hdr) (m : LoadMod) (d : Operand) (a : Operand) (b : Operand) (imm : BitVec 15) : Fields.Statement (.ldl h m d a b imm) := by
  intro v hv; cases hv
  exact fun _ => ⟨of_decide_eq_true rfl, LoadMod.code_lt m, imm.isLt⟩
theorem Fields.stl (h : Hdr) (m : StoreMod) (d : Operand) (a : Operand) (b : Operand) (imm : BitVec 15) : Fields.Statement (.stl h m d a b imm) := by
  intro v hv; cases hv
  exact fun _ => ⟨of_decide_eq_true rfl, StoreMod.code_lt m, imm.isLt⟩
theorem Fields.ldt (h : Hdr) (m : LoadMod) (d : Operand) (a : Operand) (b : Operand) (imm : BitVec 15) : Fields.Statement (.ldt h m d a b imm) := by
  intro v hv; cases hv
  exact fun _ => ⟨of_decide_eq_true rfl, LoadMod.code_lt m, imm.isLt⟩
theorem Fields.stt (h : Hdr) (m : StoreMod) (d : Operand) (a : Operand) (b : Operand) (imm : BitVec 15) : Fields.Statement (.stt h m d a b imm) := by
  intro v hv; cases hv
  exact fun _ => ⟨of_decide_eq_true rfl, StoreMod.code_lt m, imm.isLt⟩
theorem Fields.pref (h : Hdr) (m : BitVec 3) (a : Operand) (b : Operand) (imm : BitVec 15) : Fields.Statement (.pref h m a b imm) := by
  intro v hv; cases hv
  exact fun _ => ⟨of_decide_eq_true rfl, by have := m.isLt; show m.toNat * 8 < 64; omega, imm.isLt⟩
theorem Fields.atomAdd (h : Hdr) (m : AtomMod) (d : Operand) (a : Operand) (b : Operand) : Fields.Statement (.atomAdd h m d a b) := by
  intro v hv; cases hv
  exact fun _ => ⟨of_decide_eq_true rfl, AtomMod.code_lt m, of_decide_eq_true rfl⟩
theorem Fields.atomSmin (h : Hdr) (m : AtomMod) (d : Operand) (a : Operand) (b : Operand) : Fields.Statement (.atomSmin h m d a b) := by
  intro v hv; cases hv
  exact fun _ => ⟨of_decide_eq_true rfl, AtomMod.code_lt m, of_decide_eq_true rfl⟩
theorem Fields.atomSmax (h : Hdr) (m : AtomMod) (d : Operand) (a : Operand) (b : Operand) : Fields.Statement (.atomSmax h m d a b) := by
  intro v hv; cases hv
  exact fun _ => ⟨of_decide_eq_true rfl, AtomMod.code_lt m, of_decide_eq_true rfl⟩
theorem Fields.atomUmin (h : Hdr) (m : AtomMod) (d : Operand) (a : Operand) (b : Operand) : Fields.Statement (.atomUmin h m d a b) := by
  intro v hv; cases hv
  exact fun _ => ⟨of_decide_eq_true rfl, AtomMod.code_lt m, of_decide_eq_true rfl⟩
theorem Fields.atomUmax (h : Hdr) (m : AtomMod) (d : Operand) (a : Operand) (b : Operand) : Fields.Statement (.atomUmax h m d a b) := by
  intro v hv; cases hv
  exact fun _ => ⟨of_decide_eq_true rfl, AtomMod.code_lt m, of_decide_eq_true rfl⟩
theorem Fields.atomAnd (h : Hdr) (m : AtomMod) (d : Operand) (a : Operand) (b : Operand) : Fields.Statement (.atomAnd h m d a b) := by
  intro v hv; cases hv
  exact fun _ => ⟨of_decide_eq_true rfl, AtomMod.code_lt m, of_decide_eq_true rfl⟩
theorem Fields.atomOr (h : Hdr) (m : AtomMod) (d : Operand) (a : Operand) (b : Operand) : Fields.Statement (.atomOr h m d a b) := by
  intro v hv; cases hv
  exact fun _ => ⟨of_decide_eq_true rfl, AtomMod.code_lt m, of_decide_eq_true rfl⟩
theorem Fields.atomXor (h : Hdr) (m : AtomMod) (d : Operand) (a : Operand) (b : Operand) : Fields.Statement (.atomXor h m d a b) := by
  intro v hv; cases hv
  exact fun _ => ⟨of_decide_eq_true rfl, AtomMod.code_lt m, of_decide_eq_true rfl⟩
theorem Fields.atomExch (h : Hdr) (m : AtomMod) (d : Operand) (a : Operand) (b : Operand) : Fields.Statement (.atomExch h m d a b) := by
  intro v hv; cases hv
  exact fun _ => ⟨of_decide_eq_true rfl, AtomMod.code_lt m, of_decide_eq_true rfl⟩
theorem Fields.atomFadd (h : Hdr) (m : AtomMod) (d : Operand) (a : Operand) (b : Operand) : Fields.Statement (.atomFadd h m d a b) := by
  intro v hv; cases hv
  exact fun _ => ⟨of_decide_eq_true rfl, AtomMod.code_lt m, of_decide_eq_true rfl⟩
theorem Fields.atomcas (h : Hdr) (m : AtomMod) (d : Operand) (a : Operand) (b : Operand) (x : Operand) : Fields.Statement (.atomcas h m d a b x) := by
  intro v hv; cases hv
  exact fun _ => ⟨of_decide_eq_true rfl, AtomMod.code_lt m, of_decide_eq_true rfl⟩
theorem Fields.fence (h : Hdr) (m : FenceMod) : Fields.Statement (.fence h m) := by
  intro v hv; cases hv
  exact fun _ => ⟨of_decide_eq_true rfl, FenceMod.code_lt m, of_decide_eq_true rfl⟩
theorem Fields.pbar (h : Hdr) : Fields.Statement (.pbar h) := by
  intro v hv; cases hv
  exact fun _ => ⟨of_decide_eq_true rfl, of_decide_eq_true rfl, of_decide_eq_true rfl⟩
theorem Fields.psync (h : Hdr) (a : Operand) : Fields.Statement (.psync h a) := by
  intro v hv; cases hv
  exact fun _ => ⟨of_decide_eq_true rfl, of_decide_eq_true rfl, of_decide_eq_true rfl⟩
theorem Fields.cpy (h : Hdr) (d : Operand) (a : Operand) (b : Operand) : Fields.Statement (.cpy h d a b) := by
  intro v hv; cases hv
  exact fun _ => ⟨of_decide_eq_true rfl, of_decide_eq_true rfl, of_decide_eq_true rfl⟩
theorem Fields.sleep (h : Hdr) (a : Operand) (b : Operand) : Fields.Statement (.sleep h a b) := by
  intro v hv; cases hv
  exact fun _ => ⟨of_decide_eq_true rfl, of_decide_eq_true rfl, of_decide_eq_true rfl⟩
theorem Fields.monitor (h : Hdr) (d : Operand) (a : Operand) (b : Operand) (imm : BitVec 15) : Fields.Statement (.monitor h d a b imm) := by
  intro v hv; cases hv
  exact fun _ => ⟨of_decide_eq_true rfl, of_decide_eq_true rfl, imm.isLt⟩
theorem Fields.mwait (h : Hdr) (d : Operand) (a : Operand) : Fields.Statement (.mwait h d a) := by
  intro v hv; cases hv
  exact fun _ => ⟨of_decide_eq_true rfl, of_decide_eq_true rfl, of_decide_eq_true rfl⟩
theorem Fields.bar (h : Hdr) (imm : BitVec 3) : Fields.Statement (.bar h imm) := by
  intro v hv; cases hv
  exact fun _ => ⟨of_decide_eq_true rfl, of_decide_eq_true rfl, imm.isLt⟩
theorem Fields.bardrop (h : Hdr) (imm : BitVec 3) : Fields.Statement (.bardrop h imm) := by
  intro v hv; cases hv
  exact fun _ => ⟨of_decide_eq_true rfl, of_decide_eq_true rfl, imm.isLt⟩
theorem Fields.gbar (h : Hdr) (imm : BitVec 8) : Fields.Statement (.gbar h imm) := by
  intro v hv; cases hv
  exact fun _ => ⟨of_decide_eq_true rfl, of_decide_eq_true rfl, imm.isLt⟩
theorem Fields.gred (h : Hdr) (m : RedMod) (d : Operand) (a : Operand) (b : Operand) : Fields.Statement (.gred h m d a b) := by
  intro v hv; cases hv
  exact fun _ => ⟨of_decide_eq_true rfl, RedMod.code_lt m, of_decide_eq_true rfl⟩
theorem Fields.nbarrive (h : Hdr) (imm : BitVec 4) : Fields.Statement (.nbarrive h imm) := by
  intro v hv; cases hv
  exact fun _ => ⟨of_decide_eq_true rfl, of_decide_eq_true rfl, imm.isLt⟩
theorem Fields.nbwait (h : Hdr) (imm : BitVec 4) : Fields.Statement (.nbwait h imm) := by
  intro v hv; cases hv
  exact fun _ => ⟨of_decide_eq_true rfl, of_decide_eq_true rfl, imm.isLt⟩
theorem Fields.psend (h : Hdr) (d : Operand) (a : Operand) (b : Operand) : Fields.Statement (.psend h d a b) := by
  intro v hv; cases hv
  exact fun _ => ⟨of_decide_eq_true rfl, of_decide_eq_true rfl, of_decide_eq_true rfl⟩
theorem Fields.precv (h : Hdr) (d : Operand) (b : Operand) (x : Operand) : Fields.Statement (.precv h d b x) := by
  intro v hv; cases hv
  exact fun _ => ⟨of_decide_eq_true rfl, of_decide_eq_true rfl, of_decide_eq_true rfl⟩
theorem Fields.commit (h : Hdr) : Fields.Statement (.commit h) := by
  intro v hv; cases hv
  exact fun _ => ⟨of_decide_eq_true rfl, of_decide_eq_true rfl, of_decide_eq_true rfl⟩
theorem Fields.mclaim (d : Operand) (imm : BitVec 9) : Fields.Statement (.mclaim d imm) := by
  intro v hv; cases hv
  exact fun _ => ⟨of_decide_eq_true rfl, of_decide_eq_true rfl, imm.isLt⟩
theorem Fields.mrelease (d : Operand) (imm : BitVec 9) : Fields.Statement (.mrelease d imm) := by
  intro v hv; cases hv
  exact fun _ => ⟨of_decide_eq_true rfl, of_decide_eq_true rfl, imm.isLt⟩
theorem Fields.mfill (m : TileFmt) (d : Operand) (a : Operand) (b : Operand) (imm : BitVec 15) : Fields.Statement (.mfill m d a b imm) := by
  intro v hv; cases hv
  exact fun _ => ⟨of_decide_eq_true rfl, TileFmt.code_lt m, imm.isLt⟩
theorem Fields.mma (m : TileFmt) (d : Operand) (a : Operand) (b : Operand) (x : Operand) : Fields.Statement (.mma m d a b x) := by
  intro v hv; cases hv
  exact fun _ => ⟨of_decide_eq_true rfl, TileFmt.code_lt m, of_decide_eq_true rfl⟩
theorem Fields.mmack (m : TileFmt) (d : Operand) (a : Operand) (b : Operand) (x : Operand) : Fields.Statement (.mmack m d a b x) := by
  intro v hv; cases hv
  exact fun _ => ⟨of_decide_eq_true rfl, TileFmt.code_lt m, of_decide_eq_true rfl⟩
theorem Fields.marrive (imm : BitVec 4) : Fields.Statement (.marrive imm) := by
  intro v hv; cases hv
  exact fun _ => ⟨of_decide_eq_true rfl, of_decide_eq_true rfl, imm.isLt⟩
theorem Fields.mwaitnb (imm : BitVec 10) : Fields.Statement (.mwaitnb imm) := by
  intro v hv; cases hv
  exact fun _ => ⟨of_decide_eq_true rfl, of_decide_eq_true rfl, imm.isLt⟩
theorem Fields.mend : Fields.Statement (.mend) := by
  intro v hv; cases hv
  exact fun _ => ⟨of_decide_eq_true rfl, of_decide_eq_true rfl, of_decide_eq_true rfl⟩
theorem Fields.trap (h : Hdr) (a : Operand) (imm : BitVec 16) : Fields.Statement (.trap h a imm) := by
  intro v hv; cases hv
  exact fun _ => ⟨of_decide_eq_true rfl, of_decide_eq_true rfl, imm.isLt⟩
theorem Fields.tret (h : Hdr) (m : TretMod) (a : Operand) : Fields.Statement (.tret h m a) := by
  intro v hv; cases hv
  exact fun _ => ⟨of_decide_eq_true rfl, TretMod.code_lt m, of_decide_eq_true rfl⟩
theorem Fields.srd (h : Hdr) (d : Operand) (imm : BitVec 12) : Fields.Statement (.srd h d imm) := by
  intro v hv; cases hv
  exact fun _ => ⟨of_decide_eq_true rfl, of_decide_eq_true rfl, imm.isLt⟩
theorem Fields.swr (h : Hdr) (a : Operand) (imm : BitVec 12) : Fields.Statement (.swr h a imm) := by
  intro v hv; cases hv
  exact fun _ => ⟨of_decide_eq_true rfl, of_decide_eq_true rfl, imm.isLt⟩
theorem Fields.launch (h : Hdr) (d : Operand) (a : Operand) : Fields.Statement (.launch h d a) := by
  intro v hv; cases hv
  exact fun _ => ⟨of_decide_eq_true rfl, of_decide_eq_true rfl, of_decide_eq_true rfl⟩
theorem Fields.launchg (h : Hdr) (d : Operand) (a : Operand) (b : Operand) : Fields.Statement (.launchg h d a b) := by
  intro v hv; cases hv
  exact fun _ => ⟨of_decide_eq_true rfl, of_decide_eq_true rfl, of_decide_eq_true rfl⟩
theorem Fields.ljoin (h : Hdr) (m : JoinMod) (d : Operand) (a : Operand) (x : Operand) : Fields.Statement (.ljoin h m d a x) := by
  intro v hv; cases hv
  exact fun _ => ⟨of_decide_eq_true rfl, JoinMod.code_lt m, of_decide_eq_true rfl⟩
theorem Fields.task (h : Hdr) (d : Operand) (a : Operand) (b : Operand) (x : Operand) : Fields.Statement (.task h d a b x) := by
  intro v hv; cases hv
  exact fun _ => ⟨of_decide_eq_true rfl, of_decide_eq_true rfl, of_decide_eq_true rfl⟩
theorem Fields.brk (h : Hdr) (imm : BitVec 16) : Fields.Statement (.brk h imm) := by
  intro v hv; cases hv
  exact fun _ => ⟨of_decide_eq_true rfl, of_decide_eq_true rfl, imm.isLt⟩
theorem Fields.mdrainSave (h : Hdr) (a : Operand) (b : Operand) : Fields.Statement (.mdrainSave h a b) := by
  intro v hv; cases hv
  exact fun _ => ⟨of_decide_eq_true rfl, of_decide_eq_true rfl, of_decide_eq_true rfl⟩
theorem Fields.mdrainLoad (h : Hdr) (a : Operand) (b : Operand) : Fields.Statement (.mdrainLoad h a b) := by
  intro v hv; cases hv
  exact fun _ => ⟨of_decide_eq_true rfl, of_decide_eq_true rfl, of_decide_eq_true rfl⟩
theorem Fields.sweep (h : Hdr) (d : Operand) (a : Operand) (b : Operand) (x : Operand) : Fields.Statement (.sweep h d a b x) := by
  intro v hv; cases hv
  exact fun _ => ⟨of_decide_eq_true rfl, of_decide_eq_true rfl, of_decide_eq_true rfl⟩
theorem Fields.ewait (h : Hdr) (a : Operand) (b : Operand) : Fields.Statement (.ewait h a b) := by
  intro v hv; cases hv
  exact fun _ => ⟨of_decide_eq_true rfl, of_decide_eq_true rfl, of_decide_eq_true rfl⟩
theorem Fields.edone (h : Hdr) (a : Operand) (b : Operand) : Fields.Statement (.edone h a b) := by
  intro v hv; cases hv
  exact fun _ => ⟨of_decide_eq_true rfl, of_decide_eq_true rfl, of_decide_eq_true rfl⟩
theorem Fields.ewake (h : Hdr) (d : Operand) (a : Operand) (b : Operand) : Fields.Statement (.ewake h d a b) := by
  intro v hv; cases hv
  exact fun _ => ⟨of_decide_eq_true rfl, of_decide_eq_true rfl, of_decide_eq_true rfl⟩
theorem Fields.mbbind (h : Hdr) (d : Operand) (a : Operand) (b : Operand) (x : Operand) : Fields.Statement (.mbbind h d a b x) := by
  intro v hv; cases hv
  exact fun _ => ⟨of_decide_eq_true rfl, of_decide_eq_true rfl, of_decide_eq_true rfl⟩
theorem Fields.mbpost (h : Hdr) (d : Operand) (a : Operand) (b : Operand) (x : Operand) : Fields.Statement (.mbpost h d a b x) := by
  intro v hv; cases hv
  exact fun _ => ⟨of_decide_eq_true rfl, of_decide_eq_true rfl, of_decide_eq_true rfl⟩
theorem Fields.mbtake (h : Hdr) (d : Operand) (a : Operand) (b : Operand) : Fields.Statement (.mbtake h d a b) := by
  intro v hv; cases hv
  exact fun _ => ⟨of_decide_eq_true rfl, of_decide_eq_true rfl, of_decide_eq_true rfl⟩
theorem Fields.mbstat (h : Hdr) (d : Operand) (a : Operand) : Fields.Statement (.mbstat h d a) := by
  intro v hv; cases hv
  exact fun _ => ⟨of_decide_eq_true rfl, of_decide_eq_true rfl, of_decide_eq_true rfl⟩
theorem Fields.mbfloor (h : Hdr) (d : Operand) (a : Operand) (b : Operand) : Fields.Statement (.mbfloor h d a b) := by
  intro v hv; cases hv
  exact fun _ => ⟨of_decide_eq_true rfl, of_decide_eq_true rfl, of_decide_eq_true rfl⟩
theorem Fields.mbfree (h : Hdr) (d : Operand) (a : Operand) : Fields.Statement (.mbfree h d a) := by
  intro v hv; cases hv
  exact fun _ => ⟨of_decide_eq_true rfl, of_decide_eq_true rfl, of_decide_eq_true rfl⟩
theorem Fields.fillLand (w : Nat) (reg : Nat) (ecc : FillEcc) : Fields.Statement (.fillLand w reg ecc) := by
  intro v hv; cases hv
theorem Fields.writeBack (w : Nat) (id : Nat) : Fields.Statement (.writeBack w id) := by
  intro v hv; cases hv
theorem Fields.requestLeavesCore (id : Nat) : Fields.Statement (.requestLeavesCore id) := by
  intro v hv; cases hv
theorem Fields.l2Accept (id : Nat) : Fields.Statement (.l2Accept id) := by
  intro v hv; cases hv
theorem Fields.dieLinkApply (id : Nat) : Fields.Statement (.dieLinkApply id) := by
  intro v hv; cases hv
theorem Fields.atomicExecute (id : Nat) : Fields.Statement (.atomicExecute id) := by
  intro v hv; cases hv
theorem Fields.durableAccept (id : Nat) : Fields.Statement (.durableAccept id) := by
  intro v hv; cases hv
theorem Fields.wbmaxRelease (stack : Nat) (bytes : Nat) : Fields.Statement (.wbmaxRelease stack bytes) := by
  intro v hv; cases hv
theorem Fields.translationWalk (w : Nat) (lane : Nat) : Fields.Statement (.translationWalk w lane) := by
  intro v hv; cases hv
theorem Fields.faultReport (w : Nat) (lane : Nat) : Fields.Statement (.faultReport w lane) := by
  intro v hv; cases hv
theorem Fields.lineWriteWake (w : Nat) (lane : Nat) : Fields.Statement (.lineWriteWake w lane) := by
  intro v hv; cases hv
theorem Fields.mwaitTimeout (w : Nat) (lane : Nat) : Fields.Statement (.mwaitTimeout w lane) := by
  intro v hv; cases hv
theorem Fields.sleepWake (w : Nat) (lane : Nat) : Fields.Statement (.sleepWake w lane) := by
  intro v hv; cases hv
theorem Fields.copyComplete (core : Nat) : Fields.Statement (.copyComplete core) := by
  intro v hv; cases hv
theorem Fields.copyFault (core : Nat) : Fields.Statement (.copyFault core) := by
  intro v hv; cases hv
theorem Fields.collectiveInstance (group : Nat) (k : Nat) : Fields.Statement (.collectiveInstance group k) := by
  intro v hv; cases hv
theorem Fields.memberAnnounceRemoval (group : Nat) (dev : Nat) : Fields.Statement (.memberAnnounceRemoval group dev) := by
  intro v hv; cases hv
theorem Fields.memberSilenceTimeout (group : Nat) (dev : Nat) : Fields.Statement (.memberSilenceTimeout group dev) := by
  intro v hv; cases hv
theorem Fields.flitCrcResend (kind : Nat) (loc : Nat) (ok : Bool) : Fields.Statement (.flitCrcResend kind loc ok) := by
  intro v hv; cases hv
theorem Fields.faultRetry (kind : Nat) (loc : Nat) (found : RetryFind) : Fields.Statement (.faultRetry kind loc found) := by
  intro v hv; cases hv
theorem Fields.strikeReplay (zone : Nat) : Fields.Statement (.strikeReplay zone) := by
  intro v hv; cases hv
theorem Fields.preemptRequestArrival (core : Nat) : Fields.Statement (.preemptRequestArrival core) := by
  intro v hv; cases hv
theorem Fields.switchOut (w : Nat) : Fields.Statement (.switchOut w) := by
  intro v hv; cases hv
theorem Fields.noSafePoint (w : Nat) : Fields.Statement (.noSafePoint w) := by
  intro v hv; cases hv
theorem Fields.matrixFreeze (b : Nat) : Fields.Statement (.matrixFreeze b) := by
  intro v hv; cases hv
theorem Fields.switchIn (b : Nat) : Fields.Statement (.switchIn b) := by
  intro v hv; cases hv
theorem Fields.poolGrant (core : Nat) : Fields.Statement (.poolGrant core) := by
  intro v hv; cases hv
theorem Fields.fairnessRun (w : Nat) : Fields.Statement (.fairnessRun w) := by
  intro v hv; cases hv
theorem Fields.ageingPromotion (w : Nat) : Fields.Statement (.ageingPromotion w) := by
  intro v hv; cases hv
theorem Fields.noProgress (w : Nat) (lane : Nat) : Fields.Statement (.noProgress w lane) := by
  intro v hv; cases hv
theorem Fields.stalledWaveReport (w : Nat) : Fields.Statement (.stalledWaveReport w) := by
  intro v hv; cases hv
theorem Fields.blockPlacement (cluster : Nat) : Fields.Statement (.blockPlacement cluster) := by
  intro v hv; cases hv
theorem Fields.priorityPreempt (cluster : Nat) : Fields.Statement (.priorityPreempt cluster) := by
  intro v hv; cases hv
theorem Fields.waveRetire (w : Nat) : Fields.Statement (.waveRetire w) := by
  intro v hv; cases hv
theorem Fields.matrixOpComplete (b : Nat) : Fields.Statement (.matrixOpComplete b) := by
  intro v hv; cases hv
theorem Fields.mfillComplete (b : Nat) : Fields.Statement (.mfillComplete b) := by
  intro v hv; cases hv
theorem Fields.sequencerIllegal (b : Nat) : Fields.Statement (.sequencerIllegal b) := by
  intro v hv; cases hv
theorem Fields.commitDrainDone (b : Nat) : Fields.Statement (.commitDrainDone b) := by
  intro v hv; cases hv
theorem Fields.bindService (tenant : Nat) : Fields.Statement (.bindService tenant) := by
  intro v hv; cases hv
theorem Fields.migrationPull (asid : Nat) (va : Nat) : Fields.Statement (.migrationPull asid va) := by
  intro v hv; cases hv
theorem Fields.gazetteerUpdate (entry : Nat) (body : List Word) : Fields.Statement (.gazetteerUpdate entry body) := by
  intro v hv; cases hv
theorem Fields.hostWrite (pa : Nat) (bytes : List Byte) : Fields.Statement (.hostWrite pa bytes) := by
  intro v hv; cases hv
theorem Fields.hostRead (pa : Nat) (n : Nat) : Fields.Statement (.hostRead pa n) := by
  intro v hv; cases hv
theorem Fields.powerFail : Fields.Statement (.powerFail) := by
  intro v hv; cases hv
theorem Fields.durableDrainDone (complete : Bool) : Fields.Statement (.durableDrainDone complete) := by
  intro v hv; cases hv
theorem Fields.powerUp : Fields.Statement (.powerUp) := by
  intro v hv; cases hv
theorem Fields.thermalTrip : Fields.Statement (.thermalTrip) := by
  intro v hv; cases hv
theorem Fields.registerInjection (idx : Nat) : Fields.Statement (.registerInjection idx) := by
  intro v hv; cases hv
theorem Fields.sweepLaneLoad (w : Nat) : Fields.Statement (.sweepLaneLoad w) := by
  intro v hv; cases hv
theorem Fields.sweepCountPass (w : Nat) : Fields.Statement (.sweepCountPass w) := by
  intro v hv; cases hv
theorem Fields.lineWatchWakeScan (core : Nat) (slot : Nat) : Fields.Statement (.lineWatchWakeScan core slot) := by
  intro v hv; cases hv
theorem Fields.take (mb : Nat) (v : Nat) : Fields.Statement (.take mb v) := by
  intro v hv; cases hv
theorem Fields.post (mb : Nat) (v : Nat) : Fields.Statement (.post mb v) := by
  intro v hv; cases hv
theorem Fields.episodeExit (e : Nat) (code : Word) : Fields.Statement (.episodeExit e code) := by
  intro v hv; cases hv
theorem Fields.episodeYield (e : Nat) : Fields.Statement (.episodeYield e) := by
  intro v hv; cases hv
theorem Fields.episodeWait (e : Nat) : Fields.Statement (.episodeWait e) := by
  intro v hv; cases hv
theorem Fields.episodeException (e : Nat) (cause : Word) (tval : Word) : Fields.Statement (.episodeException e cause tval) := by
  intro v hv; cases hv
theorem Fields.episodeEccError (core : Nat) : Fields.Statement (.episodeEccError core) := by
  intro v hv; cases hv
theorem Fields.quantumExpiry (core : Nat) : Fields.Statement (.quantumExpiry core) := by
  intro v hv; cases hv
theorem Fields.stepWatchdogExpiry (e : Nat) (k : Nat) : Fields.Statement (.stepWatchdogExpiry e k) := by
  intro v hv; cases hv
theorem Fields.deadlineExpiry (e : Nat) : Fields.Statement (.deadlineExpiry e) := by
  intro v hv; cases hv
theorem Fields.wctlPreempt (tenant : Nat) (launch : Word) : Fields.Statement (.wctlPreempt tenant launch) := by
  intro v hv; cases hv
theorem Fields.wctlCancel (tenant : Nat) (launch : Word) : Fields.Statement (.wctlCancel tenant launch) := by
  intro v hv; cases hv
theorem Fields.wctlResume (tenant : Nat) (launch : Word) : Fields.Statement (.wctlResume tenant launch) := by
  intro v hv; cases hv
theorem Fields.wctlKillLaunch (tenant : Nat) (launch : Word) : Fields.Statement (.wctlKillLaunch tenant launch) := by
  intro v hv; cases hv
theorem Fields.wctlKillBlock (tenant : Nat) (launch : Word) (block : Nat) : Fields.Statement (.wctlKillBlock tenant launch block) := by
  intro v hv; cases hv
theorem Fields.wctlKillWaveBlock (tenant : Nat) (launch : Word) (block : Nat) (wave : Nat) : Fields.Statement (.wctlKillWaveBlock tenant launch block wave) := by
  intro v hv; cases hv
theorem Fields.recbaseRelease (tenant : Nat) : Fields.Statement (.recbaseRelease tenant) := by
  intro v hv; cases hv
theorem Fields.loadObject (tenant : Nat) (req : SvcReq) : Fields.Statement (.loadObject tenant req) := by
  intro v hv; cases hv
theorem Fields.unloadObject (tenant : Nat) (req : SvcReq) : Fields.Statement (.unloadObject tenant req) := by
  intro v hv; cases hv
theorem Fields.collectiveWindow (tenant : Nat) (req : SvcReq) : Fields.Statement (.collectiveWindow tenant req) := by
  intro v hv; cases hv
theorem Fields.debuggerAttach (tenant : Nat) (req : SvcReq) : Fields.Statement (.debuggerAttach tenant req) := by
  intro v hv; cases hv
theorem Fields.armInjection (tenant : Nat) (req : SvcReq) : Fields.Statement (.armInjection tenant req) := by
  intro v hv; cases hv
theorem Fields.scoreboardSwitch (tenant : Nat) (req : SvcReq) : Fields.Statement (.scoreboardSwitch tenant req) := by
  intro v hv; cases hv
theorem Fields.attestationQuote (tenant : Nat) (req : SvcReq) : Fields.Statement (.attestationQuote tenant req) := by
  intro v hv; cases hv
theorem Fields.mapGranuleImage (tenant : Nat) (req : SvcReq) : Fields.Statement (.mapGranuleImage tenant req) := by
  intro v hv; cases hv
theorem Fields.map (tenant : Nat) (req : SvcReq) : Fields.Statement (.map tenant req) := by
  intro v hv; cases hv
theorem Fields.unmap (tenant : Nat) (req : SvcReq) : Fields.Statement (.unmap tenant req) := by
  intro v hv; cases hv
theorem Fields.protect (tenant : Nat) (req : SvcReq) : Fields.Statement (.protect tenant req) := by
  intro v hv; cases hv
theorem Fields.migrate (tenant : Nat) (req : SvcReq) : Fields.Statement (.migrate tenant req) := by
  intro v hv; cases hv
theorem Fields.discard (tenant : Nat) (req : SvcReq) : Fields.Statement (.discard tenant req) := by
  intro v hv; cases hv
theorem Fields.unshare (tenant : Nat) (req : SvcReq) : Fields.Statement (.unshare tenant req) := by
  intro v hv; cases hv
theorem Fields.share (tenant : Nat) (req : SvcReq) : Fields.Statement (.share tenant req) := by
  intro v hv; cases hv
theorem Fields.resume (tenant : Nat) (req : SvcReq) : Fields.Statement (.resume tenant req) := by
  intro v hv; cases hv
theorem Fields.inval (tenant : Nat) (req : SvcReq) : Fields.Statement (.inval tenant req) := by
  intro v hv; cases hv
theorem Fields.partition (tenant : Nat) (req : SvcReq) : Fields.Statement (.partition tenant req) := by
  intro v hv; cases hv
theorem Fields.create (tenant : Nat) (req : SvcReq) : Fields.Statement (.create tenant req) := by
  intro v hv; cases hv
theorem Fields.destroy (tenant : Nat) (req : SvcReq) : Fields.Statement (.destroy tenant req) := by
  intro v hv; cases hv
theorem Fields.query (tenant : Nat) (req : SvcReq) : Fields.Statement (.query tenant req) := by
  intro v hv; cases hv
theorem Fields.tenantCreate (tenant : Nat) (make : Option TenantReq) : Fields.Statement (.tenantCreate tenant make) := by
  intro v hv; cases hv
theorem Fields.setQmax (tenant : Nat) (core : Nat) (q : Nat) : Fields.Statement (.setQmax tenant core q) := by
  intro v hv; cases hv
theorem Fields.writeKeySlot (tenant : Nat) (slot : Nat) (key : Nat) : Fields.Statement (.writeKeySlot tenant slot key) := by
  intro v hv; cases hv
theorem Fields.writeRaspol (v : Nat) : Fields.Statement (.writeRaspol v) := by
  intro v hv; cases hv
theorem Fields.assignDurableFrames (tenant : Nat) (first : Nat) (count : Nat) : Fields.Statement (.assignDurableFrames tenant first count) := by
  intro v hv; cases hv
theorem Fields.moduleReset : Fields.Statement (.moduleReset) := by
  intro v hv; cases hv
theorem Fields.dieReset (die : Nat) : Fields.Statement (.dieReset die) := by
  intro v hv; cases hv
theorem Fields.tenantReset (tenant : Nat) : Fields.Statement (.tenantReset tenant) := by
  intro v hv; cases hv
theorem Fields.episodeReset (e : Nat) : Fields.Statement (.episodeReset e) := by
  intro v hv; cases hv
theorem Fields.readmitDevice (group : Nat) (dev : Nat) : Fields.Statement (.readmitDevice group dev) := by
  intro v hv; cases hv
theorem Fields.setPowerCap (watts : Nat) : Fields.Statement (.setPowerCap watts) := by
  intro v hv; cases hv
theorem Fields.readTelemetry : Fields.Statement (.readTelemetry) := by
  intro v hv; cases hv
theorem Fields.spuriousWake (w : Nat) (lane : Nat) : Fields.Statement (.spuriousWake w lane) := by
  intro v hv; cases hv
theorem Fields.journalAgeOut (id : Nat) : Fields.Statement (.journalAgeOut id) := by
  intro v hv; cases hv
theorem Fields.seqerrClear (mb : Nat) : Fields.Statement (.seqerrClear mb) := by
  intro v hv; cases hv

end Sys2Proof.Laws
end

