-- ==== Sys2Proof/Tests/Slice0.lean ====
section
/-! SUPPORT. Tests: words written out from the spec's encoding tables and what they decode to, words the decoder
refuses, ill-formed instructions, witnesses for the hypotheses of every statement (met_…), and single steps on
small states. Expected results come from the spec's examples and tables or from hand calculation with them. -/

open Sys2Proof Sys2Proof.Machine

namespace Sys2Proof.Tests
/-! ### Decoding: a word of every instruction of the two streams, written from the places of its fields (01: R16, R24 to
R30; 02: R43 to R53). Guard p7, set flag 15, every other common field zero. -/

/-- The header the words below say. -/
def hdr : Hdr := ⟨false, 7, 0, 0, none, false, false, false, false, false, 0⟩
/-- op, mod, guard 7 and set flag 15 in their places. -/
def wTop (op mod : Nat) : Nat := op * 2 ^ 86 + mod * 2 ^ 80 + 7 * 2 ^ 76 + 15 * 2 ^ 56
/-- The four forms (01: R24), their fields given as numbers. -/
def wR (op mod d a b x : Nat) : Nat := wTop op mod + d * 2 ^ 39 + a * 2 ^ 27 + b * 2 ^ 15 + x * 2 ^ 3
def wI (op mod d a imm : Nat) : Nat := wTop op mod + d * 2 ^ 39 + a * 2 ^ 27 + imm
def wL (op mod d imm : Nat) : Nat := wTop op mod + d * 2 ^ 39 + imm * 2 ^ 7
def wM (op mod d a b imm : Nat) : Nat := wTop op mod + d * 2 ^ 39 + a * 2 ^ 27 + b * 2 ^ 15 + imm
/-- The word `e.1` decodes to the instruction `e.2`. -/
def decodes (e : Nat × Instr) : Bool := decide (decodeTableWord 96 e.1 = some e.2)

def integerWords : List (Nat × Instr) := [
  (wR 0x000 0x0D 0x008 0x010 0x403 0xC00, .iadd hdr ⟨.u32, true⟩ (.v 8) (.v 16) (.w 3)),
  (wR 0x001 0x0D 0x008 0x010 0x403 0xC00, .isub hdr ⟨.u32, true⟩ (.v 8) (.v 16) (.w 3)),
  (wR 0x002 0x0C 0x008 0x010 0x403 0xC00, .imul hdr ⟨.u32, false⟩ (.v 8) (.v 16) (.w 3)),
  (wR 0x003 0x18 0x008 0x010 0x403 0xC00, .imulh hdr ⟨.s8, false⟩ (.v 8) (.v 16) (.w 3)),
  (wR 0x004 0x0D 0x008 0x010 0x403 0xA05, .imad hdr ⟨.u32, true⟩ (.v 8) (.v 16) (.w 3) (.small 5)),
  (wR 0x005 0x0C 0x008 0x010 0x403 0xC00, .imin hdr ⟨.u32, false⟩ (.v 8) (.v 16) (.w 3)),
  (wR 0x006 0x0C 0x008 0x010 0x403 0xC00, .imax hdr ⟨.u32, false⟩ (.v 8) (.v 16) (.w 3)),
  (wR 0x007 0x10 0x008 0x010 0xC00 0xC00, .iabs hdr ⟨.s16, false⟩ (.v 8) (.v 16)),
  (wR 0x008 0x0D 0x008 0x010 0xC00 0xC00, .ineg hdr ⟨.u32, true⟩ (.v 8) (.v 16)),
  (wR 0x009 0x18 0x008 0x010 0x403 0xC00, .idiv hdr ⟨.s8, false⟩ (.v 8) (.v 16) (.w 3)),
  (wR 0x00A 0x18 0x008 0x010 0x403 0xC00, .irem hdr ⟨.s8, false⟩ (.v 8) (.v 16) (.w 3)),
  (wR 0x00B 0x0C 0x008 0x010 0x403 0xA05, .isad hdr ⟨.u32, false⟩ (.v 8) (.v 16) (.w 3) (.small 5)),
  (wI 0x00C 0x0D 0x008 0x010 0x7FFFFFD, .iaddi hdr ⟨.u32, true⟩ (.v 8) (.v 16) 0x7FFFFFD),
  (wI 0x00D 0x0C 0x008 0x010 0x7FFFFFD, .imuli hdr ⟨.u32, false⟩ (.v 8) (.v 16) 0x7FFFFFD),
  (wM 0x00E 0x08 0x008 0x010 0x403 0x7FF8, .lea hdr ⟨.s32, false⟩ (.v 8) (.v 16) (.w 3) 0x7FF8),
  (wR 0x00F 0x08 0x008 0x010 0x403 0xA05, .idot4 hdr ⟨.s32, false⟩ (.v 8) (.v 16) (.w 3) (.small 5))]
theorem test_decode_integer : integerWords.all decodes = true := by decide

def logicWords : List (Nat × Instr) := [
  (wR 0x040 0x00 0x008 0x010 0x403 0xC00, .and hdr (.v 8) (.v 16) (.w 3)),
  (wR 0x041 0x00 0x008 0x010 0x403 0xC00, .or hdr (.v 8) (.v 16) (.w 3)),
  (wR 0x042 0x00 0x008 0x010 0x403 0xC00, .xor hdr (.v 8) (.v 16) (.w 3)),
  (wR 0x043 0x00 0x008 0x010 0xC00 0xC00, .not hdr (.v 8) (.v 16)),
  (wR 0x044 0x00 0x008 0x010 0x403 0xC00, .andn hdr (.v 8) (.v 16) (.w 3)),
  (wR 0x045 0x14 0x008 0x010 0x403 0xC00, .shl hdr ⟨.u16, false⟩ (.v 8) (.v 16) (.w 3)),
  (wR 0x046 0x14 0x008 0x010 0x403 0xC00, .shr hdr ⟨.u16, false⟩ (.v 8) (.v 16) (.w 3)),
  (wR 0x047 0x10 0x008 0x010 0x403 0xC00, .sar hdr ⟨.s16, false⟩ (.v 8) (.v 16) (.w 3)),
  (wR 0x048 0x14 0x008 0x010 0x403 0xC00, .rol hdr ⟨.u16, false⟩ (.v 8) (.v 16) (.w 3)),
  (wI 0x049 0x14 0x008 0x010 0x7FFFFFD, .shli hdr ⟨.u16, false⟩ (.v 8) (.v 16) 0x7FFFFFD),
  (wI 0x04A 0x14 0x008 0x010 0x7FFFFFD, .shri hdr ⟨.u16, false⟩ (.v 8) (.v 16) 0x7FFFFFD),
  (wI 0x04B 0x10 0x008 0x010 0x7FFFFFD, .sari hdr ⟨.s16, false⟩ (.v 8) (.v 16) 0x7FFFFFD),
  (wR 0x04C 0x14 0x008 0x010 0xC00 0xC00, .popc hdr ⟨.u16, false⟩ (.v 8) (.v 16)),
  (wR 0x04D 0x14 0x008 0x010 0xC00 0xC00, .clz hdr ⟨.u16, false⟩ (.v 8) (.v 16)),
  (wR 0x04E 0x14 0x008 0x010 0xC00 0xC00, .ctz hdr ⟨.u16, false⟩ (.v 8) (.v 16)),
  (wR 0x04F 0x14 0x008 0x010 0xC00 0xC00, .brev hdr ⟨.u16, false⟩ (.v 8) (.v 16)),
  (wR 0x050 0x00 0x008 0x010 0x403 0xC00, .bfx hdr ⟨.s64, false⟩ (.v 8) (.v 16) (.w 3)),
  (wR 0x051 0x0C 0x008 0x010 0x403 0xA05, .bfi hdr ⟨.u32, false⟩ (.v 8) (.v 16) (.w 3) (.small 5)),
  (wI 0x052 0x00 0x008 0x010 0x7FFFFFD, .andi hdr (.v 8) (.v 16) 0x7FFFFFD),
  (wI 0x053 0x00 0x008 0x010 0x7FFFFFD, .ori hdr (.v 8) (.v 16) 0x7FFFFFD),
  (wI 0x054 0x00 0x008 0x010 0x7FFFFFD, .xori hdr (.v 8) (.v 16) 0x7FFFFFD)]
theorem test_decode_logic : logicWords.all decodes = true := by decide

def predicateWords : List (Nat × Instr) := [
  (wR 0x080 0x13 0x801 0x010 0x403 0x804, .isetp hdr ⟨.lt, .u32⟩ (.p 1) (.v 16) (.w 3) (.p 4)),
  (wR 0x081 0x31 0x801 0x010 0xB02 0x804, .fsetp hdr ⟨.num, .f32⟩ (.p 1) (.v 16) (.fpc 2) (.p 4)),
  (wI 0x082 0x13 0x801 0x010 0x7FFFFFD, .isetpi hdr ⟨.lt, .u32⟩ (.p 1) (.v 16) 0x7FFFFFD),
  (wR 0x083 0x00 0x801 0x802 0x803 0xC00, .pand hdr (.p 1) (.p 2) (.p 3)),
  (wR 0x084 0x00 0x801 0x802 0x803 0xC00, .por hdr (.p 1) (.p 2) (.p 3)),
  (wR 0x085 0x00 0x801 0x802 0x803 0xC00, .pxor hdr (.p 1) (.p 2) (.p 3)),
  (wR 0x086 0x00 0x801 0x802 0xC00 0xC00, .pnot hdr (.p 1) (.p 2)),
  (wR 0x087 0x00 0x008 0x010 0x403 0x804, .sel hdr (.v 8) (.v 16) (.w 3) (.p 4)),
  (wR 0x088 0x00 0x008 0x802 0xC00 0xC00, .pmask hdr (.v 8) (.p 2)),
  (wR 0x089 0x00 0x801 0x010 0xC00 0xC00, .psetm hdr (.p 1) (.v 16))]
theorem test_decode_predicate : predicateWords.all decodes = true := by decide

def controlWords : List (Nat × Instr) := [
  (wL 0x0C0 0x00 0xC00 0xFFFFFFFA, .bra hdr 0xFFFFFFFA),
  (wR 0x0C1 0x00 0xC00 0x010 0xC00 0xC00, .brx hdr (.v 16)),
  (wL 0x0C2 0x00 0x008 0xFFFFFFFA, .call hdr (.v 8) 0xFFFFFFFA),
  (wR 0x0C3 0x00 0x008 0x010 0xC00 0xC00, .callx hdr (.v 8) (.v 16)),
  (wM 0x0C4 0x00 0x008 0x010 0x403 0x7FF8, .callb hdr (.v 8) (.v 16) (.w 3) 0x7FF8),
  (wR 0x0C5 0x00 0xC00 0x010 0xC00 0xC00, .ret hdr (.v 16)),
  (wR 0x0C6 0x00 0xC00 0xC00 0xC00 0xC00, .exit hdr),
  (wR 0x0C7 0x00 0xC00 0x010 0xC00 0xC00, .wsync hdr (.v 16)),
  (wR 0x0C8 0x00 0xC00 0xC00 0xC00 0xC00, .nop hdr)]
theorem test_decode_control : controlWords.all decodes = true := by decide

def moveWords : List (Nat × Instr) := [
  (wR 0x100 0x00 0x008 0x010 0xC00 0xC00, .mov hdr (.v 8) (.v 16)),
  (wR 0x101 0x00 0x405 0x010 0x403 0xC00, .movw hdr (.w 5) (.v 16) (.w 3)),
  (wI 0x102 0x00 0x008 0xC00 0x7FFFFFD, .movi hdr (.v 8) 0x7FFFFFD),
  (wL 0x103 0x01 0x008 0xFFFFFFFA, .movl hdr .zext (.v 8) 0xFFFFFFFA),
  (wR 0x104 0x01 0x008 0x010 0xC00 0xC00, .grow hdr .trap (.v 8) (.v 16)),
  (wR 0x105 0x00 0x008 0x010 0xC00 0xC00, .shrink hdr (.v 8) (.v 16)),
  (wR 0x106 0x00 0x006 0x010 0x403 0xC00, .capmk hdr (.v 6) (.v 16) (.w 3)),
  (wR 0x107 0x00 0x006 0x404 0x403 0xA05, .capnrw hdr (.v 6) (.w 4) (.w 3) (.small 5)),
  (wR 0x108 0x05 0x801 0x404 0x403 0xA05, .capchk hdr 5 (.p 1) (.w 4) (.w 3) (.small 5)),
  (wR 0x109 0x00 0x008 0x404 0x403 0xC00, .caprd hdr (.v 8) (.w 4) (.w 3))]
theorem test_decode_move : moveWords.all decodes = true := by decide

def floatWords : List (Nat × Instr) := [
  (wR 0x140 0x09 0x008 0x010 0xB02 0xC00, .fadd hdr ⟨.rtz, .f32⟩ (.v 8) (.v 16) (.fpc 2)),
  (wR 0x141 0x09 0x008 0x010 0xB02 0xC00, .fmul hdr ⟨.rtz, .f32⟩ (.v 8) (.v 16) (.fpc 2)),
  (wR 0x142 0x09 0x008 0x010 0xB02 0xA05, .ffma hdr ⟨.rtz, .f32⟩ (.v 8) (.v 16) (.fpc 2) (.small 5)),
  (wR 0x143 0x00 0x008 0x010 0xB02 0xC00, .fmin hdr ⟨.rne, .f64⟩ (.v 8) (.v 16) (.fpc 2)),
  (wR 0x144 0x00 0x008 0x010 0xB02 0xC00, .fmax hdr ⟨.rne, .f64⟩ (.v 8) (.v 16) (.fpc 2)),
  (wR 0x145 0x00 0x008 0x010 0xC00 0xC00, .fabs hdr ⟨.rne, .f64⟩ (.v 8) (.v 16)),
  (wR 0x146 0x00 0x008 0x010 0xC00 0xC00, .fneg hdr ⟨.rne, .f64⟩ (.v 8) (.v 16)),
  (wR 0x147 0x00 0x008 0x010 0xC00 0xC00, .frcp hdr ⟨.rne, .f64⟩ (.v 8) (.v 16)),
  (wR 0x148 0x09 0x008 0x010 0xC00 0xC00, .fsqrt hdr ⟨.rtz, .f32⟩ (.v 8) (.v 16)),
  (wR 0x149 0x00 0x008 0x010 0xC00 0xC00, .frsq hdr ⟨.rne, .f64⟩ (.v 8) (.v 16)),
  (wR 0x14A 0x00 0x008 0x010 0xC00 0xC00, .fexp2 hdr ⟨.rne, .f64⟩ (.v 8) (.v 16)),
  (wR 0x14B 0x00 0x008 0x010 0xC00 0xC00, .flog2 hdr ⟨.rne, .f64⟩ (.v 8) (.v 16)),
  (wR 0x14C 0x00 0x008 0x010 0xC00 0xC00, .fsin hdr ⟨.rne, .f64⟩ (.v 8) (.v 16)),
  (wR 0x14D 0x00 0x008 0x010 0xC00 0xC00, .fcos hdr ⟨.rne, .f64⟩ (.v 8) (.v 16)),
  (wR 0x14E 0x09 0x008 0x010 0xB02 0xC00, .fdiv hdr ⟨.rtz, .f32⟩ (.v 8) (.v 16) (.fpc 2)),
  (wR 0x14F 0x00 0x008 0x010 0xC00 0xC00, .fclass hdr ⟨.rne, .f64⟩ (.v 8) (.v 16)),
  (wR 0x150 0x01 0x008 0x010 0x018 0xC00, .ckcmp hdr (.v 8) (.v 16) (.v 24)),
  (wR 0x151 0x01 0x008 0x010 0x018 0xA05, .ckfix hdr (.v 8) (.v 16) (.v 24) (.small 5))]
theorem test_decode_float : floatWords.all decodes = true := by decide

def halfWords : List (Nat × Instr) := [
  (wR 0x180 0x11 0x008 0x010 0xB02 0xC00, .faddH hdr ⟨.rup, .f16⟩ (.v 8) (.v 16) (.fpc 2)),
  (wR 0x181 0x11 0x008 0x010 0xB02 0xC00, .fmulH hdr ⟨.rup, .f16⟩ (.v 8) (.v 16) (.fpc 2)),
  (wR 0x182 0x11 0x008 0x010 0xB02 0xA05, .ffmaH hdr ⟨.rup, .f16⟩ (.v 8) (.v 16) (.fpc 2) (.small 5)),
  (wR 0x183 0x00 0x008 0x010 0xB02 0xC00, .fminH hdr ⟨.rne, .bf16⟩ (.v 8) (.v 16) (.fpc 2)),
  (wR 0x184 0x00 0x008 0x010 0xB02 0xC00, .fmaxH hdr ⟨.rne, .bf16⟩ (.v 8) (.v 16) (.fpc 2)),
  (wR 0x185 0x00 0x008 0x010 0xC00 0xC00, .fabsH hdr ⟨.rne, .bf16⟩ (.v 8) (.v 16)),
  (wR 0x186 0x00 0x008 0x010 0xC00 0xC00, .fnegH hdr ⟨.rne, .bf16⟩ (.v 8) (.v 16)),
  (wR 0x187 0x00 0x008 0x010 0xC00 0xC00, .frcpH hdr ⟨.rne, .bf16⟩ (.v 8) (.v 16)),
  (wR 0x188 0x00 0x008 0x010 0xC00 0xC00, .fexp2H hdr ⟨.rne, .bf16⟩ (.v 8) (.v 16)),
  (wR 0x189 0x11 0x008 0x010 0xB02 0xA05, .fdot2 hdr ⟨.rup, .f16⟩ (.v 8) (.v 16) (.fpc 2) (.small 5))]
theorem test_decode_half : halfWords.all decodes = true := by decide

def convertWords : List (Nat × Instr) := [
  (wI 0x1C0 0x08 0x008 0x010 0x3B, .cvt hdr ⟨.rtz, false, .f32, .s32⟩ (.v 8) (.v 16)),
  (wR 0x1C1 0x07 0x008 0x010 0xC00 0xC00, .packk hdr ⟨.k4, 3⟩ (.v 8) (.v 16)),
  (wR 0x1C2 0x02 0x008 0x010 0x018 0xC00, .unpkk hdr ⟨.k8, .bf16⟩ (.v 8) (.v 16) (.v 24)),
  (wI 0x1C3 0x00 0x008 0x010 0xC, .ftag hdr (.v 8) (.v 16) .f16),
  (wR 0x1C4 0x00 0x008 0x010 0xC00 0xC00, .ftagrd hdr (.v 8) (.v 16))]
theorem test_decode_convert : convertWords.all decodes = true := by decide

def vectorWords : List (Nat × Instr) := [
  (wR 0x200 0x11 0x008 0x010 0x403 0xC00, .shfl hdr ⟨.down, .b32⟩ (.v 8) (.v 16) (.w 3)),
  (wI 0x201 0x11 0x008 0x010 0x2A5, .shfli hdr ⟨.down, .b32⟩ (.v 8) (.v 16) 0x2A5),
  (wR 0x202 0x03 0x008 0x802 0xC00 0xC00, .vote hdr .ballot (.v 8) (.p 2)),
  (wR 0x203 0x0D 0x008 0x010 0xC00 0xC00, .red hdr ⟨.min, .f32⟩ (.v 8) (.v 16)),
  (wR 0x204 0x0D 0x008 0x010 0xC00 0xC00, .scan hdr ⟨.min, .f32⟩ (.v 8) (.v 16)),
  (wR 0x205 0x0D 0x008 0x010 0xC00 0xC00, .scanx hdr ⟨.min, .f32⟩ (.v 8) (.v 16))]
theorem test_decode_vector : vectorWords.all decodes = true := by decide

def memoryWords : List (Nat × Instr) := [
  (wM 0x240 0x1D 0x008 0x010 0x403 0x7FF8, .ld hdr ⟨3, true, .b16⟩ (.v 8) (.v 16) (.w 3) 0x7FF8),
  (wM 0x241 0x1A 0x008 0x010 0x403 0x7FF8, .st hdr ⟨3, .b32⟩ (.v 8) (.v 16) (.w 3) 0x7FF8),
  (wM 0x242 0x05 0x008 0x010 0x403 0x7FF8, .ldl hdr ⟨0, true, .b16⟩ (.v 8) (.v 16) (.w 3) 0x7FF8),
  (wM 0x243 0x02 0x008 0x010 0x403 0x7FF8, .stl hdr ⟨0, .b32⟩ (.v 8) (.v 16) (.w 3) 0x7FF8),
  (wM 0x244 0x1D 0x008 0x404 0x403 0x7FF8, .ldt hdr ⟨3, true, .b16⟩ (.v 8) (.w 4) (.w 3) 0x7FF8),
  (wM 0x245 0x1A 0x008 0x404 0x403 0x7FF8, .stt hdr ⟨3, .b32⟩ (.v 8) (.w 4) (.w 3) 0x7FF8),
  (wM 0x246 0x20 0xC00 0x010 0x403 0x7FF8, .pref hdr 4 (.v 16) (.w 3) 0x7FF8)]
theorem test_decode_memory : memoryWords.all decodes = true := by decide

def atomicWords : List (Nat × Instr) := [
  (wR 0x280 0x2B 0x008 0x010 0x403 0xC00, .atomAdd hdr ⟨.dev, .acq, true⟩ (.v 8) (.v 16) (.w 3)),
  (wR 0x281 0x2B 0x008 0x010 0x403 0xC00, .atomSmin hdr ⟨.dev, .acq, true⟩ (.v 8) (.v 16) (.w 3)),
  (wR 0x282 0x2B 0x008 0x010 0x403 0xC00, .atomSmax hdr ⟨.dev, .acq, true⟩ (.v 8) (.v 16) (.w 3)),
  (wR 0x283 0x2B 0x008 0x010 0x403 0xC00, .atomUmin hdr ⟨.dev, .acq, true⟩ (.v 8) (.v 16) (.w 3)),
  (wR 0x284 0x2B 0x008 0x010 0x403 0xC00, .atomUmax hdr ⟨.dev, .acq, true⟩ (.v 8) (.v 16) (.w 3)),
  (wR 0x285 0x2B 0x008 0x010 0x403 0xC00, .atomAnd hdr ⟨.dev, .acq, true⟩ (.v 8) (.v 16) (.w 3)),
  (wR 0x286 0x2B 0x008 0x010 0x403 0xC00, .atomOr hdr ⟨.dev, .acq, true⟩ (.v 8) (.v 16) (.w 3)),
  (wR 0x287 0x2B 0x008 0x010 0x403 0xC00, .atomXor hdr ⟨.dev, .acq, true⟩ (.v 8) (.v 16) (.w 3)),
  (wR 0x288 0x2B 0x008 0x010 0x403 0xC00, .atomExch hdr ⟨.dev, .acq, true⟩ (.v 8) (.v 16) (.w 3)),
  (wR 0x289 0x2B 0x008 0x010 0xB02 0xC00, .atomFadd hdr ⟨.dev, .acq, true⟩ (.v 8) (.v 16) (.fpc 2)),
  (wR 0x28A 0x2B 0x008 0x010 0x403 0xA05, .atomcas hdr ⟨.dev, .acq, true⟩ (.v 8) (.v 16) (.w 3) (.small 5)),
  (wR 0x28B 0x36 0xC00 0xC00 0xC00 0xC00, .fence hdr ⟨.sys, .acqrel⟩),
  (wR 0x28C 0x00 0xC00 0xC00 0xC00 0xC00, .pbar hdr),
  (wR 0x28D 0x00 0xC00 0x010 0xC00 0xC00, .psync hdr (.v 16))]
theorem test_decode_atomic : atomicWords.all decodes = true := by decide

def syncWords : List (Nat × Instr) := [
  (wR 0x2C0 0x00 0x008 0x010 0x403 0xC00, .cpy hdr (.v 8) (.v 16) (.w 3)),
  (wR 0x2C1 0x00 0xC00 0x010 0x403 0xC00, .sleep hdr (.v 16) (.w 3)),
  (wM 0x2C2 0x00 0x008 0x010 0x403 0x7FF8, .monitor hdr (.v 8) (.v 16) (.w 3) 0x7FF8),
  (wR 0x2C3 0x00 0x008 0x010 0xC00 0xC00, .mwait hdr (.v 8) (.v 16)),
  (wI 0x2C4 0x00 0xC00 0xC00 0x5, .bar hdr 5),
  (wI 0x2C5 0x00 0xC00 0xC00 0x5, .bardrop hdr 5),
  (wI 0x2C6 0x00 0xC00 0xC00 0xC8, .gbar hdr 200),
  (wR 0x2C7 0x0D 0x008 0x010 0x403 0xC00, .gred hdr ⟨.min, .f32⟩ (.v 8) (.v 16) (.w 3)),
  (wI 0x2C8 0x00 0xC00 0xC00 0x9, .nbarrive hdr 9),
  (wI 0x2C9 0x00 0xC00 0xC00 0x9, .nbwait hdr 9),
  (wR 0x2CA 0x00 0x008 0x010 0x403 0xC00, .psend hdr (.v 8) (.v 16) (.w 3)),
  (wR 0x2CB 0x00 0x008 0xC00 0x403 0x804, .precv hdr (.v 8) (.w 3) (.p 4)),
  (wR 0x2CC 0x00 0xC00 0xC00 0xC00 0xC00, .commit hdr)]
theorem test_decode_sync : syncWords.all decodes = true := by decide

def matrixWords : List (Nat × Instr) := [
  (wI 0x300 0x00 0x421 0xC00 0x100, .mclaim (.w 33) 256),
  (wI 0x301 0x00 0x421 0xC00 0x100, .mrelease (.w 33) 256),
  (wM 0x302 0x01 0x421 0x406 0xC00 0x7FF8, .mfill .k8 (.w 33) (.w 6) .none 0x7FF8),
  (wR 0x303 0x01 0x020 0x422 0x423 0xA02, .mma .k8 (.v 32) (.w 34) (.w 35) (.small 2)),
  (wR 0x304 0x01 0x020 0x422 0x423 0xA02, .mmack .k8 (.v 32) (.w 34) (.w 35) (.small 2)),
  (wI 0x305 0x00 0xC00 0xC00 0x9, .marrive 9),
  (wI 0x306 0x00 0xC00 0xC00 0x3E5, .mwaitnb 0x3E5),
  (wR 0x307 0x00 0xC00 0xC00 0xC00 0xC00, .mend )]
theorem test_decode_matrix : matrixWords.all decodes = true := by decide

def systemWords : List (Nat × Instr) := [
  (wI 0x340 0x00 0xC00 0x010 0xBEEF, .trap hdr (.v 16) 0xBEEF),
  (wR 0x341 0x01 0xC00 0x010 0xC00 0xC00, .tret hdr .exit (.v 16)),
  (wI 0x342 0x00 0x008 0xC00 0x105, .srd hdr (.v 8) 0x105),
  (wI 0x343 0x00 0xC00 0x010 0x105, .swr hdr (.v 16) 0x105),
  (wR 0x344 0x00 0x008 0x010 0xC00 0xC00, .launch hdr (.v 8) (.v 16)),
  (wR 0x345 0x00 0x008 0x010 0x403 0xC00, .launchg hdr (.v 8) (.v 16) (.w 3)),
  (wR 0x346 0x01 0x008 0x010 0xC00 0x804, .ljoin hdr .test (.v 8) (.v 16) (.p 4)),
  (wR 0x347 0x00 0x008 0x404 0x403 0xA05, .task hdr (.v 8) (.w 4) (.w 3) (.small 5)),
  (wI 0x348 0x00 0xC00 0xC00 0xBEEF, .brk hdr 0xBEEF),
  (wR 0x349 0x00 0xC00 0x010 0x403 0xC00, .mdrainSave hdr (.v 16) (.w 3)),
  (wR 0x349 0x01 0xC00 0x010 0x403 0xC00, .mdrainLoad hdr (.v 16) (.w 3))]
theorem test_decode_system : systemWords.all decodes = true := by decide

def sweepWords : List (Nat × Instr) := [
  (wR 0x380 0x00 0x008 0x404 0x403 0xA05, .sweep hdr (.v 8) (.w 4) (.w 3) (.small 5)),
  (wR 0x381 0x00 0xC00 0x010 0x403 0xC00, .ewait hdr (.v 16) (.w 3)),
  (wR 0x382 0x00 0xC00 0x010 0x403 0xC00, .edone hdr (.v 16) (.w 3)),
  (wR 0x383 0x00 0x008 0x404 0x403 0xC00, .ewake hdr (.v 8) (.w 4) (.w 3)),
  (wR 0x384 0x00 0x008 0x404 0x403 0xA05, .mbbind hdr (.v 8) (.w 4) (.w 3) (.small 5)),
  (wR 0x385 0x00 0x008 0x010 0x403 0xA05, .mbpost hdr (.v 8) (.v 16) (.w 3) (.small 5)),
  (wR 0x386 0x00 0x008 0x010 0x403 0xC00, .mbtake hdr (.v 8) (.v 16) (.w 3)),
  (wR 0x387 0x00 0x008 0x010 0xC00 0xC00, .mbstat hdr (.v 8) (.v 16)),
  (wR 0x388 0x00 0x008 0x010 0x403 0xC00, .mbfloor hdr (.v 8) (.v 16) (.w 3)),
  (wR 0x389 0x00 0x008 0x010 0xC00 0xC00, .mbfree hdr (.v 8) (.v 16))]
theorem test_decode_sweep : sweepWords.all decodes = true := by decide


/-! ### Small states -/

/-- One wave with one live lane, whose frame and page are those of `State.withFetchWord`, changed by `f`. -/
def small (f : Wave → Wave) : State :=
  { State.reset with
    cur := 0, curLanes := 1, pages := [loadPage], tenants := SMap.set Tenant.absent [] 1 { Tenant.absent with live := true, asids := [1], qmax := [(0, 256)] }
    launches := [loadLaunch], blocks := [loadBlock 0 0 none], waves := [f (loadWave 0 0 none false)] }
/-- A condition on the context of `i` in `s`. -/
def ctx (s : State) (i : Instr) (p : Cx → Bool) : Bool := (Cx.of s i).any p
/-- The common checks of `i` pass in `s`. -/
def ready (s : State) (i : Instr) : Bool := ctx s i fun cx => decide (cx.passes s)
/-- A wave-uniform register holds a value. -/
def uni (n : Nat) (v : Word) (w : Wave) : Wave := { w with wregs := SMap.set RegCell.zero w.wregs n ⟨v, .raw, true, false, false⟩ }
/-- A wave-uniform pair holds a capability. -/
def uniCap (n : Nat) (v0 v1 : Word) (w : Wave) : Wave :=
  { w with wregs := SMap.set RegCell.zero (SMap.set RegCell.zero w.wregs n ⟨v0, .raw, true, true, false⟩) (n + 1) ⟨v1, .raw, true, true, false⟩ }
/-- Lane 0 changed. -/
def lane0 (f : Lane → Lane) (w : Wave) : Wave := { w with lanes := w.lanes.modify 0 f }
/-- The line at 0x10040 is in the L1 of core 0. -/
def cached (s : State) : State :=
  { s with lines := [⟨true, 0, 0x401, 1, 1, 1, true, true, true, true, false, 0, 0, 0, 0, false, 0, []⟩] }
/-- A condition on every lane of a mask of lane 0 is one on lane 0. -/
theorem only0 {P : Nat → Prop} {m : LaneMask} (h : m = 1) (p : P 0) : ∀ l, m.getLsbD l = true → P l := by
  intro l hl
  subst h
  have : l = 0 := by
    by_contra hn
    simp [BitVec.getLsbD_one, hn] at hl
  exact this ▸ p
theorem below {P : Nat → Prop} [DecidablePred P] {n : Nat} (h : (List.range n).all (fun l => decide (P l)) = true) : ∀ l, l < n → P l := by
  intro l hl
  simpa using List.all_eq_true.mp h l (List.mem_range.mpr hl)

/-! ### The common checks pass: what the statements on completion ask of an instruction with no other condition -/

theorem met_passes_integer : integerWords.all (fun e => ready (small id) e.2) = true := by decide
theorem met_passes_logic : logicWords.all (fun e => ready (small id) e.2) = true := by decide
theorem met_passes_predicate : predicateWords.all (fun e => ready (small id) e.2) = true := by decide
theorem met_passes_control : controlWords.all (fun e => ready (small id) e.2) = true := by decide
theorem met_passes_move : moveWords.all (fun e => ready (small id) e.2) = true := by decide
theorem met_passes_float : floatWords.all (fun e => ready (small id) e.2) = true := by decide +kernel
theorem met_passes_half : halfWords.all (fun e => ready (small id) e.2) = true := by decide
theorem met_passes_convert : convertWords.all (fun e => ready (small id) e.2) = true := by decide
theorem met_passes_vector : vectorWords.all (fun e => ready (small id) e.2) = true := by decide
theorem met_passes_memory : memoryWords.all (fun e => ready (small id) e.2) = true := by decide
theorem met_passes_atomic : atomicWords.all (fun e => ready (small id) e.2) = true := by decide
theorem met_passes_sync : syncWords.all (fun e => ready (small id) e.2) = true := by decide
theorem met_passes_system : systemWords.all (fun e => ready (small id) e.2) = true := by decide
theorem met_passes_sweep : sweepWords.all (fun e => ready (small id) e.2) = true := by decide

/-! ### Hypotheses that are met, statement by statement -/

theorem met_ExitAndWsync : ∃ cx, Cx.of (small id) (.exit hdr) = some cx ∧ cx.passes (small id) ∧
    ∀ l, cx.ex.getLsbD l = true → cx.w.isSweepLane l = false := ⟨_, rfl, by decide, only0 (by decide) (by decide)⟩
theorem met_GrowAndShrinkResizeFrames :
    (let s := small (uni 4 300 ∘ fun w => { w with maxframe := 320 })
     (ctx s (.grow hdr .wait (.v 8) (.w 4)) fun cx => decide (cx.passes s ∧ cx.ex ≠ 0 ∧ (cx.a s cx.low).toNat ≤ cx.w.maxframe ∧
       s.growFits cx.w ((304 - cx.w.frameSize) / 16 - cx.w.granted) = true ∧ (304 - cx.w.frameSize) / 16 - cx.w.granted ≠ 0 ∧
       s.growNever cx.w ((304 - cx.w.frameSize) / 16) = false))) = true ∧
    (let s := small (uni 4 300 ∘ fun w => { w with maxframe := 320, granted := 16, grantDue := 64 })
     (ctx s (.grow hdr .trap (.v 8) (.w 4)) fun cx => decide (cx.passes s ∧ cx.ex ≠ 0 ∧ (cx.a s cx.low).toNat ≤ cx.w.maxframe ∧
       cx.growAsk s = 0 ∧ cx.w.frameSize < cx.growTarget s ∧ s.cyc < cx.w.grantDue))) = true ∧
    (let s := small (uni 4 256)
     (ctx s (.grow hdr .trap (.v 8) (.w 4)) fun cx => decide (cx.passes s ∧ cx.ex ≠ 0 ∧ (cx.a s cx.low).toNat ≤ cx.w.maxframe ∧
       cx.growAsk s = 0 ∧ cx.growTarget s ≤ cx.w.frameSize)) &&
     (ctx s (.shrink hdr (.v 8) (.small 0)) fun cx => decide (cx.passes s ∧ cx.ex ≠ 0))) = true := by decide
/-- A capability of tag U64 over 64 bytes at 0x10040 with every permission, no stride. -/
def someCap : Word × Word := (0x0400000000010040, 0x7000000000000040)
theorem met_Capmk : let s := small (uni 4 someCap.1 ∘ uni 5 someCap.2 ∘ fun w => { w with level := true })
    ∃ cx, Cx.of s (.capmk hdr (.v 8) (.w 4) (.w 5)) = some cx ∧ cx.passes s ∧ cx.w.level = true ∧ ∀ l, cx.ex.getLsbD l = true →
      (cx.a s l).toNat / 2 ^ 63 = 0 ∧ (cx.b s l).toNat / 2 ^ 63 = 0 ∧ (cx.a s l).toNat / 2 ^ 62 % 2 = 0 ∧
      (cx.a s l).toNat % 2 ^ 57 + (cx.b s l).toNat % 2 ^ 40 ≤ 2 ^ 57 := ⟨_, rfl, by decide, by decide, only0 (by decide) (by decide)⟩
theorem met_Capnrw : let s := small (uniCap 4 someCap.1 someCap.2 ∘ uni 6 8 ∘ uni 7 0x1000000000000010)
    ∃ cx, Cx.of s (.capnrw hdr (.v 8) (.w 4) (.w 6) (.w 7)) = some cx ∧ cx.passes s ∧ ∀ l, cx.ex.getLsbD l = true →
      cx.cap (.w 4) 0 l = true ∧ (cx.x s l).toNat / 2 ^ 63 = 0 ∧
      (cx.b s l).toNat + (cx.x s l).toNat % 2 ^ 40 ≤ (cx.cap1 s (.w 4) l).toNat % 2 ^ 40 := ⟨_, rfl, by decide, only0 (by decide) (by decide)⟩
/-- A state whose lane 0 addresses the cached line through w4, or through the capability in w4 and w5. -/
def aims (f : Wave → Wave) : State := cached (small (uni 4 0x10040 ∘ f))
def aimsCap : State := cached (small (uniCap 4 someCap.1 someCap.2))
theorem reaches {cx : Cx} {s : State} {op : LaneOp} {va pa : Nat → Nat} (h : cx.ex = 1)
    (p : s.confirmLine cx.w.core cx.w.asid cx.w.tenant (va 0) op.acc cx.w.level = some (pa 0))
    (q : s.walk1 cx.w.asid cx.w.level (va 0) op.acc = .ok (pa 0))
    (r : s.memMark (pa 0) op.bytes = none ∧ s.ownAtomic cx.wi 0 (pa 0) op.bytes = none ∧ s.flagOpen cx.wi 0 cx.v.hdr.wait = none) :
    cx.Reaches s op va pa :=
  only0 h ⟨p, fun _ e => by rw [q] at e; cases e; exact ⟨fun _ => r.1, fun _ => r.2⟩⟩
theorem met_LoadsComplete_ld : let s := aims id
    ∃ cx, Cx.of s (.ld hdr ⟨3, true, .b32⟩ (.v 8) (.w 4) (.small 4) 8) = some cx ∧ cx.passes s ∧
      cx.Reaches s (.load 4 true 3 false) (fun l => (cx.a s l + cx.b s l + (8 : BitVec 15).signExtend 64).toNat) fun _ => 0x4C :=
  ⟨_, rfl, by decide, reaches (by decide) (by decide) (by decide) (by decide)⟩
theorem met_LoadsComplete_ldt : ∃ cx, Cx.of aimsCap (.ldt hdr ⟨3, true, .b32⟩ (.v 8) (.w 4) (.small 0) 8) = some cx ∧ cx.passes aimsCap ∧
    (∀ l, cx.ex.getLsbD l = true → cx.cap (.w 4) 0 l = true ∧ (cx.cap1 aimsCap (.w 4) l).toNat / 2 ^ 40 % 2 ^ 20 = 0 ∧
      (cx.b aimsCap l).toNat + 12 ≤ (cx.cap1 aimsCap (.w 4) l).toNat % 2 ^ 40 ∧ (cx.cap1 aimsCap (.w 4) l).getLsbD 60 = true) ∧
    cx.Reaches aimsCap (.load 4 true 3 false)
      (fun l => ((((cx.cap0 aimsCap (.w 4) l).setWidth 57).signExtend 64 : Word) + BitVec.ofInt 64 ((cx.b aimsCap l).toNat + 8)).toNat)
      fun _ => 0x48 :=
  ⟨_, rfl, by decide, only0 (by decide) (by decide), reaches (by decide) (by decide) (by decide) (by decide)⟩
/-- The block has a scratchpad of one granule. -/
def withScratch (s : State) : State := { s with blocks := s.blocks.modify 0 fun b => { b with gScratch := 1 } }
theorem met_LoadsComplete_ldl : let s := withScratch (small id)
    ∃ cx, Cx.of s (.ldl hdr ⟨0, false, .b16⟩ (.v 8) (.v 9) (.small 4) 10) = some cx ∧ cx.passes s ∧
    ∀ l, cx.ex.getLsbD l = true → cx.place s l = some 0 ∧ ((cx.a s l).toNat % 2 ^ 24 : Nat) + (cx.b s l).toInt + 10 = 14 ∧
      16 ≤ s.scratchBytes 0 ∧ s.regionMark 0 2 0 = none ∧ s.flagOpen cx.wi l hdr.wait = none := ⟨_, rfl, by decide, only0 (by decide) (by decide)⟩
theorem met_LoadsComplete_monitor : let s := aims id
    ∃ cx, Cx.of s (.monitor hdr (.v 8) (.w 4) (.small 8) 8) = some cx ∧ cx.passes s ∧
      cx.Reaches s (.load 8 false 3 true) (fun l => (cx.a s l + cx.b s l + (8 : BitVec 15).signExtend 64).toNat) fun _ => 0x50 :=
  ⟨_, rfl, by decide, reaches (by decide) (by decide) (by decide) (by decide)⟩
/-- The kernel is contained, with a commit buffer. -/
def contained (s : State) : State :=
  { s with launches := s.launches.modify 0 fun L => { L with cart := { L.cart with contained := true, commitG := 1 } }
           blocks := s.blocks.modify 0 fun b => { b with gCommit := 1 } }
theorem met_StoresComplete_st : [(aims id, false), (contained (aims id), true)].all (fun (s, c) =>
      ctx s (.st hdr ⟨3, .b32⟩ (.v 8) (.w 4) (.small 4) 8) fun cx => decide (cx.passes s ∧ s.contained cx.w = c ∧
        cx.commitFull s (fun l => (cx.a s l + cx.b s l + 8).toNat) = none ∧ isHost 0x4C = false)) = true ∧
    ∀ s, s = aims id ∨ s = contained (aims id) → ∃ cx, Cx.of s (.st hdr ⟨3, .b32⟩ (.v 8) (.w 4) (.small 4) 8) = some cx ∧
      cx.Reaches s (.store 4 3) (fun l => (cx.a s l + cx.b s l + (8 : BitVec 15).signExtend 64).toNat) fun _ => 0x4C :=
  ⟨by decide, fun s h => by
    rcases h with rfl | rfl <;> exact ⟨_, rfl, reaches (by decide) (by decide) (by decide) (by decide)⟩⟩
theorem met_StoresComplete_stt : ∃ cx, Cx.of aimsCap (.stt hdr ⟨3, .b32⟩ (.v 8) (.w 4) (.small 0) 8) = some cx ∧ cx.passes aimsCap ∧
    (∀ l, cx.ex.getLsbD l = true → cx.cap (.w 4) 0 l = true ∧ (cx.b aimsCap l).toNat + 12 ≤ (cx.cap1 aimsCap (.w 4) l).toNat % 2 ^ 40 ∧
      (cx.cap1 aimsCap (.w 4) l).getLsbD 61 = true) ∧
    cx.Reaches aimsCap (.store 4 3)
      (fun l => ((((cx.cap0 aimsCap (.w 4) l).setWidth 57).signExtend 64 : Word) + BitVec.ofInt 64 ((cx.b aimsCap l).toNat + 8)).toNat)
      fun _ => 0x48 :=
  ⟨_, rfl, by decide, only0 (by decide) (by decide), reaches (by decide) (by decide) (by decide) (by decide)⟩
theorem met_StoresComplete_stl : let s := withScratch (small id)
    ∃ cx, Cx.of s (.stl hdr ⟨0, .b16⟩ (.v 8) (.v 9) (.small 4) 10) = some cx ∧ cx.passes s ∧
    ∀ l, cx.ex.getLsbD l = true → cx.place s l = some 0 ∧ ((cx.a s l).toNat % 2 ^ 24 : Nat) + (cx.b s l).toInt + 10 = 14 ∧
      16 ≤ s.scratchBytes 0 := ⟨_, rfl, by decide, only0 (by decide) (by decide)⟩
theorem met_AtomicsAndFencesAreRequested_atomics : let s := aims id
    ∃ cx, Cx.of s (.atomAdd hdr ⟨.dev, .acq, true⟩ (.v 8) (.w 4) (.small 1)) = some cx ∧ cx.passes s ∧ cx.commitConflict s = none ∧
      (∀ l, cx.ex.getLsbD l = true → (cx.a s l).toNat % 8 = 0) ∧
      cx.Reaches s (.atomic .add 8 .dev .acq .raw) (fun l => (cx.a s l).toNat) fun _ => 0x40 :=
  ⟨_, rfl, by decide, by decide, only0 (by decide) (by decide), reaches (by decide) (by decide) (by decide) (by decide)⟩
theorem met_AtomicsAndFencesAreRequested_fences : let s := small id
    (ctx s (.fence hdr ⟨.thr, .acq⟩) fun cx => decide (cx.passes s)) && (ctx s (.fence hdr ⟨.sys, .acqrel⟩) fun cx => decide (cx.passes s ∧ cx.ex ≠ 0)) &&
    (ctx s (.psync hdr (.v 8)) fun cx => decide (cx.passes s ∧ cx.ex ≠ 0)) = true := by decide
/-- A binding cell at 0x10040 with a value. -/
def cellOf (v : Nat) : State := let s := aims id; { s with view0 := Memory.write [] 0x40 (natLe 8 v), view1 := Memory.write [] 0x40 (natLe 8 v) }
theorem met_BranchesAndCalls_callb : [0x10020, 1].all (fun v => let s := cellOf v
      ctx s (.callb hdr (.v 8) (.w 4) (.small 0) 0) fun cx => decide (cx.passes s ∧ cx.ex = 1 ∧ s.flagOpen cx.wi 0 hdr.wait = none ∧
        (cx.a s 0 + cx.b s 0 + (0 : BitVec 15).signExtend 64).toNat = 0x10040 ∧
        leNat ((List.range 8).map fun k => s.loadByte cx.w cx.wi 0 (0x10040 + k) (0x40 + k) (s.cyc + 1)) = v) &&
      (match s.walk1 cx.w.asid cx.w.level 0x10040 .load, s.walk1 cx.w.asid cx.w.level 0x10040 .atomic with
        | .ok p, .ok q => decide (p = 0x40 ∧ q = 0x40) | _, _ => false)) = true := by decide
theorem met_CopiesAreRequestedAndEnd_request : let s := small (uni 4 0x10040 ∘ uni 5 0x10080)
    ctx s (.cpy hdr (.v 8) (.w 4) (.w 5)) (fun cx => decide (cx.passes s ∧ cx.ex ≠ 0 ∧ (cx.a s cx.low).toNat % 64 = 0 ∧
      (cx.b s cx.low).toNat % 16 = 0 ∧ s.copyLoad cx.w.core < 16)) = true := by decide
theorem met_SleepersAndWatchers_sleep :
    (let s := small (uni 4 100)
     ctx s (.sleep hdr (.w 4) .none) fun cx => decide (cx.passes s ∧ cx.ex ≠ 0 ∧ s.cyc < (cx.a s cx.low).toNat ∧ cx.ex = cx.all)) &&
    (let s := small id
     ctx s (.sleep hdr (.small 0) .none) fun cx => decide (cx.passes s ∧ (cx.a s cx.low).toNat ≤ s.cyc)) &&
    (let s := { cellOf 3 with cyc := 7 }
     ctx s (.sleep hdr (.small 0) (.w 4)) fun cx => decide (cx.passes s ∧ cx.ex ≠ 0 ∧ (cx.a s cx.low).toNat ≤ s.cyc) &&
       (match s.walk cx.w.asid cx.w.level (cx.b s cx.low).toNat 16 .load with
        | .ok pas => decide (leNat (s.loadBytes cx.w cx.wi cx.low (cx.b s cx.low).toNat (pas.headD 0) 8 (s.cyc + 1)) % 4 ≠ 0) | .error _ => false)) = true := by decide
/-- Lane 0 watches a line that has been written, one that has not, or none. -/
theorem met_SleepersAndWatchers_mwait : [none, some ⟨1, true⟩, some ⟨1, false⟩].all (fun x => let s := small (lane0 fun y => { y with watch := x })
      decide ((Instr.mwait hdr (.v 8) .none).wf = true) && ctx s (.mwait hdr (.v 8) .none) fun cx => decide (cx.passes s ∧ ∀ b ∈ cx.w.wbs, b.id < s.fresh)) = true := by decide
theorem met_BarriersAndGroups_blocks : let s := small (lane0 fun y => { y with credit := [(2, 1)] })
    (ctx s (.bar hdr 2) fun cx => decide (cx.passes s ∧ cx.ex = 1 ∧ (cx.w.lane 0).dropped.getLsbD 2 = false)) &&
    (ctx s (.bardrop hdr 2) fun cx => decide (cx.passes s ∧ cx.ex = 1 ∧ (cx.w.lane 0).dropped.getLsbD 2 = false)) &&
    (ctx s (.nbarrive hdr 2) fun cx => decide (cx.passes s ∧ cx.w.lanes.length = 32 ∧ cx.ex = 1 ∧ (cx.w.lane 0).aheadOf 2 < 3 ∧
      (cx.w.lane 0).status = .ready ∧ SMap.wf 0 (cx.w.lane 0).ahead = true) &&
      (List.range 16).all (fun i => !cx.w.nbArrived i) && (List.range 32).all fun l => (cx.w.lane l).isExited || cx.ex.getLsbD l) &&
    (ctx s (.nbwait hdr 2) fun cx => decide (cx.passes s ∧ cx.ex = 1 ∧ 0 < (cx.w.lane 0).creditOf 2)) &&
    (ctx s (.nbwait hdr 3) fun cx => decide (cx.passes s ∧ cx.ex = 1 ∧ (cx.w.lane 0).creditOf 3 = 0)) = true := by decide
/-- A wave of two live lanes, of which lane 0 is selected. -/
def two (f : Wave → Wave) : State := small fun w => f { w with lanes := w.lanes.modify 1 fun _ => Lane.start loadVa }
theorem met_BarriersAndGroups_partial : let s := two id
    ctx s (.nbarrive hdr 2) (fun cx => decide (cx.passes s ∧ (cx.w.lane 1).status ≠ .exited ∧ cx.ex.getLsbD 1 = false ∧ (cx.w.lane 1).aheadOf 2 = 0))
      = true := by decide
/-- The wave is a member of group 5 in its block. -/
def grouped (s : State) : State := { s with launches := s.launches.modify 0 fun L => { L with cart := { L.cart with groups := [⟨5, 0, 3, 0⟩] } } }
theorem met_BarriersAndGroups_groups : [grouped (small (uni 4 5)), grouped (two (uni 4 5))].all (fun s =>
      (ctx s (.gbar hdr 5) fun cx => decide (cx.passes s ∧ s.isMember cx.w 5 = true ∧ cx.w.lanes.length = 32 ∧ cx.ex ≠ 0 ∧
        s.hasArrived cx.wi cx.w.launch 5 = false) && (List.range 32).all (fun l => !(cx.w.lane l).atGroup 5) &&
        ((List.range 32).all (fun l => (cx.w.lane l).isExited || cx.ex.getLsbD l) || decide ((cx.w.lane 1).status ≠ .exited ∧ cx.ex.getLsbD 1 = false))) &&
      (ctx s (.gred hdr ⟨.add, .f32⟩ (.v 8) (.v 16) (.w 4)) fun cx => decide (cx.passes s ∧ (cx.b s cx.low).toNat = 5 ∧ s.isMember cx.w 5 = true)))
      = true := by decide
/-- A gang of one launch that sends on pipe 1 and receives on pipe 2; the pipes hold `p` and `q`. -/
def piped (s : State) (recv : Bool) (p q : Pipe) : State :=
  { s with launches := s.launches.modify 0 fun L => { L with gang := some 1, cart := { L.cart with pipes :=
             [⟨1, false, 0, 7⟩, ⟨2, true, 0, 8⟩] ++ if recv then [⟨3, true, 0, 7⟩, ⟨4, false, 0, 8⟩] else [] } }
           pipes := [p, q] }
theorem met_PipesAndCommit_psend : [(true, 1, true), (false, 1, false), (true, 0, true)].all (fun (recv, cap, live) =>
      let s := piped (small id) recv ⟨1, 1, 7, cap, [], none⟩ ⟨1, 1, 8, 4, [], none⟩
      ctx s (.psend hdr (.v 8) (.v 16) (.small 1)) fun cx => decide ((Instr.psend hdr (.v 8) (.v 16) (.small 1)).wf = true ∧ cx.passes s ∧ (∀ b ∈ cx.w.wbs, b.id < s.fresh) ∧ cx.ex = 1 ∧
        s.pipeOf cx.w false (cx.b s 0).toNat = some 0 ∧ s.roleLive (s.pipe 0) true = live ∧ s.pipeLoad 0 + cap ≤ (s.pipe 0).capacity)) = true := by
  decide
theorem met_PipesAndCommit_precv : [(true, [[1, 2]], true), (false, [], false), (true, [], true)].all (fun (send, msgs, live) =>
      let s := piped (small id) send ⟨1, 1, 7, 1, [], none⟩ ⟨1, 1, 8, 4, msgs, none⟩
      [(Operand.v 8, Operand.p 4), (.w 248, .none), (.none, .p 7)].all fun (d, x) =>
      ctx s (.precv hdr d (.small 2) x) fun cx => decide ((Instr.precv hdr d (.small 2) x).wf = true ∧ cx.passes s ∧ (∀ b ∈ cx.w.wbs, b.id < s.fresh) ∧ cx.ex = 1 ∧
        s.pipeOf cx.w true (cx.b s 0).toNat = some 1 ∧ s.roleLive (s.pipe 1) false = live ∧ (s.pipe 1).msgs = msgs)) = true := by decide
theorem met_PipesAndCommit_commit : [(small id, false), (contained (small id), true)].all (fun (s, c) =>
      ctx s (.commit hdr) fun cx => decide (cx.passes s ∧ s.contained cx.w = c)) = true := by decide
/-- A block whose sequencer runs at 0x10000, with two claimed slots and registers of wave 0. -/
def streamed (f : Block → Block) (g : Wave → Wave) : State :=
  let s := small g
  { s with curBlock := 0, blocks := s.blocks.modify 0 fun b => f { b with seq := .running, slots := [(1, ⟨true, .zero, []⟩), (2, ⟨true, .zero, []⟩)] } }
/-- A condition on the block of the stream. -/
def onBlock (s : State) (p : Block → Bool) : Bool := (s.blocks[s.curBlock]?).any p
theorem met_SlotsAndStreamControl_claims : (let s := streamed id id
    onBlock s fun b => decide (b.seq = .running ∧ SMap.wf Slot.free b.slots = true ∧ s.streamReady b (.mclaim (.w 8) 256) = true ∧
      s.streamReady b (.mclaim (.w 8) 4) = true ∧ s.streamReady b (.mrelease (.w 1) 2) = true ∧ 8 + 4 ≤ s.tilesOf b) &&
      ((List.range 4).all fun k => !(b.slot (8 + k)).claimed) && (List.range 2).all fun k => (b.slot (1 + k)).claimed) = true ∧
    (let s := streamed (fun b => { b with seqOps := [⟨0, .mclaim (.w 8) 4, 0, 4, none, [], []⟩] }) id
     onBlock s fun b => decide (s.streamReady b (.mrelease (.w 8) 4) = false)) = true := by decide
/-- The places where the clauses on a range meet: no slot, 256 slots, one past the tile store, and a slot in the other state. -/
theorem met_SlotsAndStreamControl_bounds : (let s := streamed (fun b => { b with slots := [(63, ⟨true, .zero, []⟩)] }) id
    onBlock s fun b => decide (s.tilesOf b = 64 ∧ (b.slot 63).claimed = true ∧ (b.slot 62).claimed = false)) = true := by decide
theorem met_SlotsAndStreamControl_arrivals : (let s := streamed (fun b => { b with arr := [(3, 2)] }) id
    onBlock s fun b => decide (b.waves.Nodup ∧ b.seqOps = [] ∧ (0x23 : BitVec 10).toNat / 16 ≤ SMap.get 0 b.arr ((0x23 : BitVec 10).toNat % 16) ∧
      SMap.get 0 b.arr ((0x33 : BitVec 10).toNat % 16) < (0x33 : BitVec 10).toNat / 16) &&
      b.waves.all fun wi => s.quiet wi (BitVec.allOnes 32) (SMap.get 0 b.arrIds 3)) = true ∧
    (let s := streamed (fun b => { b with arr := [(3, 2)], arrIds := [(3, 5)] }) id
     let s := { s with reqs := [⟨4, 0, 1, 0, 0, none, none, 3, [], .scratchStore 0 0 [], none, 0⟩] }
     onBlock s fun b => b.waves.any fun wi => !s.quiet wi (BitVec.allOnes 32) (SMap.get 0 b.arrIds 3)) = true ∧
    (let s := streamed (fun b => { b with seqOps := [⟨0, .mclaim (.w 8) 4, 0, 4, none, [], []⟩] }) id
     ∃ b o rest, s.blocks[s.curBlock]? = some b ∧ b.seqOps = o :: rest ∧ ∀ k, o.insn ≠ .marrive k) :=
  ⟨by decide, by decide, _, _, _, rfl, rfl, fun _ h => by cases h⟩
/-- A page that MDRAIN's image fits, and a legal image of a claimed slot. -/
def drains (busy : Bool) (f : Block → Block) : State :=
  let s := streamed (fun b => f { b with seqOps := if busy then [⟨0, .mfill .bf16 (.w 1) (.w 4) .none 0, 0, 40, none, [], []⟩] else [] })
    (uni 4 1 ∘ uni 5 0x10100 ∘ fun w => { w with level := true })
  { s with view0 := Memory.write [] (0x100 + 2304) [1], view1 := Memory.write [] (0x100 + 2304) [1] }
theorem met_SlotsAndStreamControl_drains : [(drains false id, false, false), (drains true id, true, false), (contained (drains false id), false, true)].all
      (fun (s, busy, c) =>
      [Instr.mdrainSave hdr (.w 4) (.w 5), .mdrainLoad hdr (.w 4) (.w 5)].all fun i => ctx s i fun cx =>
        decide (cx.passes s ∧ cx.w.level = true ∧ cx.ex ≠ 0 ∧ (cx.b s cx.low).toNat % 64 = 0 ∧ (∀ b ∈ cx.w.wbs, b.id < s.fresh) ∧
          cx.w.lanes.length = 32 ∧ s.contained cx.w = c) && (List.range 32).all (fun l => decide ((cx.w.lane l).status = .ready ∨ (cx.w.lane l).status = .exited)) &&
        (List.range 37).all (fun k => decide (isHost (0x100 + 64 * k) = false ∧ s.memMark (0x100 + 64 * k) 64 = none)) &&
        (match s.blocks[cx.w.block]? with
          | some b => decide ((cx.a s cx.low).toNat < s.tilesOf b) && (b.slotBusy (cx.a s cx.low).toNat == busy)
          | none => false) &&
        (match s.walk cx.w.asid true (cx.b s cx.low).toNat 2368 .store, s.walk cx.w.asid true (cx.b s cx.low).toNat 2368 .load with
          | .ok p, .ok q => decide (p = [0x100] ∧ q = [0x100]) | _, _ => false)) = true := by decide +kernel
/-- The image of MDRAIN.LOAD is that of a claimed slot, or where memory reads zero that of a FREE one. -/
theorem met_SlotsAndStreamControl_image : [(drains false id, true), ({ drains false id with view0 := [], view1 := [] }, false)].all (fun (s, claimed) =>
    ctx s (.mdrainLoad hdr (.w 4) (.w 5)) fun cx =>
      let bytes := (List.range 2368).map fun i => s.loadByte cx.w cx.wi cx.low (0x10100 + i) (0x100 + i) (cx.w.lane cx.low).acquired
      decide (leNat ((bytes.drop 2304).take 8) = if claimed then 1 else 0) && (bytes.drop 2312).all (fun x => decide (x = 0)) &&
        (bytes.take 2304).all fun x => decide (x = 0)) = true := by decide +kernel
theorem met_FillsAndMatrixOperations_fill : (let s := streamed id (uni 4 0x10400 ∘ uni 5 0x10F00)
    onBlock s fun b => decide (b.seq = .running ∧ s.streamReady b (.mfill .k8 (.w 1) (.w 4) .none 0) = true ∧ 1 < s.tilesOf b ∧ (b.slot 1).claimed = true ∧
        (s.wave0Reg b 4).toNat = 0x10400 ∧ (s.wave0Reg b 5).toNat = 0x10F00 ∧ (s.blockAsid b).1 = 1) &&
      (List.range 32).all fun r =>
        (match s.walk 1 false (0x10400 + 64 * r) 64 .load, s.walk 1 false (0x10F00 + 4 * r) 4 .load with
          | .ok p, .ok q => decide (p = [0x400 + 64 * r] ∧ q = [0xF00 + 4 * r]) | _, _ => false) &&
        decide (s.discarded 1 0x10000 = false ∧ pageStarts (0x10400 + 64 * r) 64 = [0x10400 + 64 * r]) &&
        (List.range 64).all (fun k => (s.memMark (0x400 + 64 * r + k) 1).isNone) && (List.range 4).all fun k => (s.memMark (0xF00 + 4 * r + k) 1).isNone) = true := by
  decide +kernel
theorem met_FillsAndMatrixOperations_mma : (let s := streamed id id
    onBlock s fun b => decide (b.seq = .running ∧ 2 < s.tilesOf b ∧ (b.slot 1).claimed = true ∧ (b.slot 1).fmt = .zero ∧ (b.slot 2).claimed = true ∧
        (b.slot 2).fmt = .zero ∧ s.streamReady b (.mma .k8 (.v 32) (.w 1) (.w 2) (.small 0)) = true ∧
        s.streamReady b (.mmack .k8 (.v 32) (.w 1) (.w 2) (.small 0)) = true ∧ s.regionMark s.curBlock 3 0 = none ∧ s.regionMark s.curBlock 3 1 = none) &&
      (match s.waveOf b 0 with
        | some (k, w) => decide (k = 0 ∧ 32 + 18 ≤ w.frameSize) && (List.range 18).all fun j => (List.range 32).all fun l =>
            decide ((w.vread (32 + j) l).2 = .raw ∧ w.lostV k (32 + j) l = none)
        | none => false)) = true := by decide +kernel
/-- The tenant has a trap handler. -/
def handled (s : State) : State := s.modTenant 1 fun t => { t with tvec := 0x20000 }
theorem met_Traps : (let s := handled (small (fun w => { w with wregs := [(3, ⟨0, .f32, true, false, false⟩)] }))
    let no := fun (cx : Cx) => decide (cx.ex ≠ 0 ∧ cx.w.inHandler = false ∧ (s.tenant cx.w.tenant).tvec ≠ 0 ∧ cx.wi < s.waves.length)
    (ctx s (.trap hdr (.v 16) 5) fun cx => no cx && decide (cx.passes s)) &&
    (ctx s (.brk hdr 5) fun cx => no cx && decide (cx.passes s ∧ s.debugged cx.w = false)) &&
    (ctx s (.iadd hdr ⟨.s64, false⟩ (.v 8) (.v 9) (.v 300)) fun cx => no cx && decide (cx.w.frameSize = 256)) &&
    (ctx s (.iadd hdr ⟨.s64, false⟩ (.v 8) (.v 9) (.w 3)) fun cx => no cx && (cx.formatDetail s 0 cx.v.positions).isSome) &&
    (ctx s (.mdrainSave hdr (.w 4) (.w 5)) fun cx => no cx && decide (cx.passes s ∧ cx.w.level = false)) &&
    (ctx s (.srd hdr (.v 8) 0x010) fun cx => no cx && decide (cx.passes s ∧ cx.w.level = false))) = true := by decide
/-- With the guard off, TRAP and BRK have no executing lane; with a debugger BRK stops the wave. -/
theorem met_Traps_other : (let s := small id
    (ctx s (.trap { hdr with guardNeg := true } (.v 16) 5) fun cx => decide (cx.passes s ∧ cx.ex = 0)) &&
    (ctx s (.brk { hdr with guardNeg := true } 5) fun cx => decide (cx.passes s ∧ cx.ex = 0)) &&
    (let s := { s with launches := s.launches.modify 0 fun L => { L with debugger := true } }
     ctx s (.brk hdr 5) fun cx => decide (cx.passes s ∧ cx.ex ≠ 0 ∧ s.debugged cx.w = true))) = true := by decide
theorem met_BreakpointsAndStops : [small id, small fun w => { w with inHandler := true, trec := List.replicate 16 0 }].all (fun s =>
    match s.waves[0]? with
    | some w => decide (w.control = false ∧ (w.inHandler = true ∨ (s.tenant w.tenant).tvec = 0) ∧ (w.inHandler = true → w.trec.length = 16))
    | none => false) = true := by decide
theorem met_TretResumes : [TretMod.plain, .exit, .kill].all (fun m =>
    let s := small fun w => { w with level := true, inHandler := true, tlanes := 1 }
    ctx s (.tret hdr m .none) fun cx => decide (cx.passes s ∧ cx.w.level = true ∧ cx.w.inHandler = true ∧ cx.ex ≠ 0 ∧ cx.w.freezing = false ∧
      cx.w.sweep = none ∧ cx.w.lanes.length = 32)) = true := by decide
theorem met_SpecialRegisters :
    (let s := small fun w => { w with level := true }
     let selects : List (BitVec 12) := [0, 1, 2, 3, 4, 5, 6, 7, 0x10, 0x11, 0x12, 0x18, 0x1F, 0x20, 0x2F, 0x30, 0x31, 0x32, 0x33, 0x34, 0x35, 0x36, 0x37,
       0x100, 0x13F, 0x140, 0x17F]
     selects.all fun n => (ctx s (.srd hdr (.v 8) n) fun cx => decide (cx.passes s ∧ cx.w.level = true ∧ cx.w.freezing = false ∧ cx.w.launch = 0)) &&
       ctx s (.swr hdr (.v 8) n) fun cx => decide (cx.passes s ∧ cx.ex ≠ 0 ∧ cx.w.level = true)) &&
    (let s := small (uni 4 1 ∘ fun w => { w with level := true, inHandler := true, trec := [0x43] })
     (ctx s (.srd hdr (.v 8) 0x140) fun cx => decide (cx.passes s ∧ cx.w.freezing = true ∧ cx.w.block = 0)) &&
     (ctx s (.swr hdr (.w 4) 0x140) fun cx => decide (cx.passes s ∧ cx.w.freezing = true)) &&
     (ctx s (.swr hdr (.w 4) 0x034) fun cx => decide (cx.passes s ∧ cx.a s cx.low ≠ 0)) &&
     (ctx s (.swr hdr (.w 4) 0x037) fun cx => decide (cx.passes s ∧ (cx.a s cx.low).toNat % 16 ≠ 0 ∧
       ∀ L ∈ s.launches, L.tenant = cx.w.tenant → L.id ≠ cx.w.wctlid.toNat))) = true := by decide
/-- The address is mapped for a load of `n` bytes. -/
def loads (s : State) (cx : Cx) (va n : Nat) : Bool := match s.walk cx.w.asid cx.w.level va n .load with | .ok _ => true | .error _ => false
theorem met_LaunchesAndJoins_launch : (let s := small (uni 4 0x10040 ∘ uni 5 2 ∘ uniCap 6 someCap.1 someCap.2)
    (ctx s (.launch hdr (.v 8) (.w 4)) fun cx => decide (cx.passes s ∧ cx.ex ≠ 0 ∧ (cx.a s cx.low).toNat % 64 = 0 ∧ cx.w.level = false ∧
        s.checkingTable cx.w.tenant = false) && loads s cx (cx.a s cx.low).toNat 64) &&
    (ctx s (.launchg hdr (.v 8) (.w 4) (.w 5)) fun cx => decide (cx.passes s ∧ cx.ex ≠ 0 ∧ (cx.a s cx.low).toNat % 64 = 0 ∧ (cx.b s cx.low).toNat = 2 ∧
        s.checkingTable cx.w.tenant = false) && loads s cx (cx.a s cx.low).toNat 128) &&
    (ctx s (.task hdr (.v 8) (.w 6) (.w 4) (.small 1)) fun cx =>
      decide (cx.commonTrap s (fun _ => [1, 2, 1, 1]) none = none ∧ (cx.x s cx.low).toNat = 1 ∧ cx.ex ≠ 0 ∧ cx.cap (.w 6) 0 cx.low = true ∧
        (cx.readAt s .untyped (.w 6) 1 cx.low).1.getLsbD 60 = true ∧ s.taskLoad (cx.w.core / 64) < 512) && loads s cx (cx.b s cx.low).toNat 64)) = true := by
  decide
theorem met_LaunchesAndJoins_join : [true, false].all (fun e => [JoinMod.wait, .test].all fun m =>
    let s := small (uni 4 2)
    let s := { s with launches := s.launches ++ [{ loadLaunch with id := 2, nojoin := false, ended := e }] }
    ctx s (.ljoin hdr m (.v 8) (.w 4) (.p 1)) fun cx => decide (cx.passes s ∧ cx.ex ≠ 0 ∧ cx.ex = cx.all ∧
      s.joinTarget cx.w.tenant cx.wi cx.ex (cx.a s cx.low) = some 1)) = true := by decide
/-- A tensor capability at 0x10000 of 512 bytes for contexts, which may be read and written. -/
def tensorCap : Word × Word := (0x2000000000010000, 0x3000000000000200)
theorem met_SweepsAndElements_sweep : (let s := small (uniCap 4 tensorCap.1 tensorCap.2 ∘ uni 6 0x10000)
    ctx s (.sweep hdr (.v 8) (.w 4) (.w 6) (.small 3)) fun cx =>
      let w0 := cx.cap0 s (.w 4) cx.low
      let w1 := cx.cap1 s (.w 4) cx.low
      decide (cx.passes s ∧ cx.ex ≠ 0 ∧ cx.w.sweep = none ∧ cx.cap (.w 4) 0 cx.low = true ∧ w0.getLsbD 61 = true ∧ w0.toNat % 64 = 0 ∧
        w1.getLsbD 60 = true ∧ w1.getLsbD 61 = true ∧ (cx.x s cx.low).toNat = 3 ∧ (cx.b s cx.low).toNat % 64 = 0 ∧
        64 * ((3 * 8 + 63) / 64) + 64 * ((3 + 511) / 512) + 128 ≤ w1.toNat % 2 ^ 40) && (s.registered cx.w.asid w0).isNone) = true := by decide
/-- Lane 0 holds element 1 of a running sweep, with or without an outstanding result on flag 2. -/
def sweeping (n : Nat) : State :=
  small (uniCap 4 tensorCap.1 tensorCap.2 ∘ (lane0 fun x => { x with elem := some 1, counts := if n = 0 then [] else [(2, n)] }) ∘ fun w =>
    { w with sweep := some ⟨2, 3, tensorCap.1, tensorCap.2, 0x10000, 1, 2, .sweep hdr (.v 8) (.w 4) (.w 6) (.small 3), none, 0, 0, 0, 0x10000, 0, false, false, [], 0⟩ })
theorem met_SweepsAndElements_ends : [0, 1].all (fun n => let s := sweeping n
    [Instr.ewait hdr (.small 0) (.small 0), .edone hdr (.small 0) (.small 0)].all fun i => ctx s i fun cx =>
      decide (cx.commonTrap s cx.endLens none = none ∧ cx.ex = 1 ∧ cx.w.isSweepLane 0 = true ∧ (cx.w.lane 0).elem = some 1 ∧
        (cx.laneIssued s noEvents true 0).count 2 = n) &&
      (match cx.w.sweep with
        | some k => (let t := cx.w.tensor k
          [(t.cellVa 1, cellSize k.word0), (t.skipVa 1, 1)].all fun q => match s.walk cx.w.asid k.slevel q.1 q.2 .store with | .ok _ => true | .error _ => false)
        | none => false)) = true := by decide
theorem met_SweepsAndElements_ewake : (let s := small (uniCap 4 tensorCap.1 tensorCap.2)
    ctx s (.ewake hdr (.v 8) (.w 4) (.small 1)) fun cx =>
      let w0 := cx.cap0 s (.w 4) 0
      let w1 := cx.cap1 s (.w 4) 0
      decide (cx.passes s ∧ cx.ex = 1 ∧ cx.cap (.w 4) 0 0 = true ∧ w0.getLsbD 61 = true ∧ w0.toNat % 64 = 0 ∧ w1.getLsbD 60 = true ∧ w1.getLsbD 61 = true ∧
        (cx.b s 0).toNat < (cx.wakeTensor s 0).n) &&
      [Acc.load, .store].all fun acc => (s.refuses cx.w ((cx.wakeTensor s 0).cellVa 1) (cellSize w0) acc).isNone &&
        (s.refuses cx.w ((cx.wakeTensor s 0).skipVa 1) 1 acc).isNone) = true := by decide +kernel
/-- The launch owns mailboxes 4 to 7, mailbox 4 in a phase. -/
def boxed (phase : Nat) (f : Wave → Wave) : State :=
  let s := small f
  { s with launches := s.launches.modify 0 fun L => { L with mbox := 4, cart := { L.cart with mboxn := 4 } }
           mailboxes := [(4, { Mailbox.unbound with phase := phase, owner := some (1, 1) })] }
theorem met_MailboxInstructions_requests : (let s := boxed 0 (uni 4 0x10000 ∘ uni 5 4)
    let mine := fun (cx : Cx) (mb : Word) => decide (cx.passes s ∧ cx.ex = 1) && (s.launches[cx.w.launch]?).any fun L =>
      decide (L.mbox ≤ mb.toNat ∧ mb.toNat < L.mbox + L.cart.mboxn)
    let can := fun (cx : Cx) (va n : Nat) (acc : Acc) => match s.walk cx.w.asid cx.w.level va n acc with | .ok _ => true | .error _ => false
    (ctx s (.mbbind hdr (.v 8) .none (.w 5) (.v 9)) fun cx => mine cx (cx.b s 0)) &&
    (ctx s (.mbpost hdr (.v 8) (.w 5) (.w 4) (.v 9)) fun cx => mine cx (cx.a s 0) && decide ((cx.b s 0).toNat % 64 = 0) && can cx (cx.b s 0).toNat 256 .load &&
      (List.range 4).all fun k => (s.memMark (64 * k) 64).isNone) &&
    (ctx s (.mbtake hdr (.v 8) (.w 5) (.w 4)) fun cx => mine cx (cx.a s 0) && can cx (cx.b s 0).toNat 4096 .store) &&
    (ctx s (.mbstat hdr (.v 8) (.w 5)) fun cx => mine cx (cx.a s 0) && decide ((s.mb (cx.a s 0).toNat).owner = some (cx.w.tenant, 1))) &&
    (ctx s (.mbfloor hdr (.v 8) (.w 5) (.w 4)) fun cx => decide (cx.passes s ∧ cx.ex ≠ 0 ∧ (cx.a s cx.low).toNat < 64)) &&
    (ctx s (.mbfree hdr (.v 8) (.w 5)) fun cx => mine cx (cx.a s 0))) = true := by decide
theorem met_MailboxInstructions_phases : [0, 3, 4, 5, 6].all (fun p => decide (((boxed p id).mb 4).phase = p) && ((boxed p id).attached 4).isNone) = true := by
  decide
/-- Wave 0 and a condition on it. -/
def onWave (s : State) (p : Wave → Bool) : Bool := (s.waves[0]?).any p
/-- The second result's v8 is held by the first, which is not due; its other registers are free. -/
theorem met_ResultsAndFillsLand_result : onWave (small fun w => { w with
      wbs := [⟨1, 0, some 9, 1, none, true, [⟨0, .v 8, 4, .u64, false⟩]⟩,
        ⟨2, 0, some 0, 1, some 2, true, [⟨0, .v 8, 5, .u64, false⟩, ⟨0, .w 4, 6, .u64, false⟩, ⟨0, .p 1, 1, .raw, false⟩]⟩,
        ⟨3, 0, some 0, 1, some 2, true, [⟨0, .v 9, 5, .u64, false⟩, ⟨0, .w 5, 6, .u64, false⟩, ⟨0, .p 2, 1, .raw, false⟩]⟩] }) (fun w =>
    [2, 3].all fun id => match w.wbs.find? (fun x => decide (x.id = id)) with
    | some b => w.canLand 0 b && decide (SMap.wf RegCell.zero w.frame = true ∧ SMap.wf RegCell.zero w.wregs = true ∧ ∀ r ∈ b.writes, r.lane < 32)
    | none => false) = true := by decide
theorem met_ResultsAndFillsLand_fill : [true, false].all (fun m => onWave (small fun w => { w with mirrored := m, ocache := [⟨3, 0, 0, some 0, 1, [], 0⟩] }) fun w =>
    decide (w.mirrored = m) && (w.ocache.find? (fun e => decide (e.reg = 3) && (match e.fill with | some t => decide (t ≤ 0) | none => false))).isSome) = true := by
  decide
/-- One request of a kind. -/
def asked (k : ReqKind) : State := { small id with cyc := 200, fresh := 9, reqs := [⟨1, 0, 1, 0, 0, none, none, 3, [], k, none, 0⟩] }
theorem met_RequestsLeaveTheirCore : [ReqKind.store 0x40 [1, 2] ⟨0, 0, 0⟩, .scratchStore 0 8 [1], .message 0 [] 1, .fence,
      .atomic .add 0x40 8 1 0 .dev 1 ⟨0, 0, 0⟩].all (fun k => let s := asked k
    match s.reqs.find? (fun q => decide (q.id = 1)) with | some r => s.mayLeave r && decide (r.kind = k) | none => false) = true := by decide
theorem met_RequestsLeaveTheirCore_scratch : onBlock (asked .fence) (fun b => SMap.wf (0 : Byte) b.scratch) = true := by decide
theorem met_RequestsLeaveTheirCore_fence : onWave { asked .fence with waves := (small (lane0 fun x => { x with status := .inside (.proceed 1) })).waves } (fun w =>
    decide ((w.lane 0).status = .inside (.proceed 1) ∧ w.lanes.length = 32)) = true := by decide
/-- Memories, pages and one unit of traffic of each kind. -/
def travelling : State :=
  { small id with
    fresh := 9, coreWrites := [⟨1, 0, 0x40, [1, 2], 0, none⟩], linkWrites := [⟨2, 1, 0x40, [3], 0, 0, 0, none, none⟩]
    durQueue := [⟨3, 12, 0, [4], 0, none, none⟩, ⟨5, 12, 0, [], 0, none, some (0, 9)⟩], accepted := [⟨12, 0x80, [5], 4⟩], wbmax := 64
    atomics := [⟨4, 0, 0, 0, .add, 0x48, 8, 1, 0, .dev, 1, 0, none, ⟨0, 0, 0⟩, none, none, 0⟩] }
theorem met_WritesTravelAndAtomicsExecute : (let s := travelling
    decide (s.memOk ∧ (∀ p ∈ s.pages, p.disc = none)) &&
    (s.coreWrites.find? (fun x => decide (x.id = 1))).any s.mayAccept &&
    (s.linkWrites.find? (fun x => decide (x.id = 2))).any (fun w => s.linkReady w && decide (w.toDie < 2)) &&
    (s.durQueue.find? (fun x => decide (x.id = 3))).any (fun w => s.mayPersist w && decide (w.psync = none)) &&
    (s.durQueue.find? (fun x => decide (x.id = 5))).any (fun w => s.mayPersist w && decide (w.psync = some (0, 9))) &&
    decide (0 < 4 ∧ 4 ≤ s.bufferedAt 12 ∧ s.accepted = [⟨12, 0x80, [5], 4⟩]) &&
    (s.atomics.find? (fun x => decide (x.id = 4))).any fun a => s.mayExecute a && a.scope.isClu && decide (a.die = dieOfCore a.core ∧ a.callb = none ∧ a.n = 8)) =
      true := by decide +kernel
/-- Lane 0 waits for the walk of a load of 8 bytes, at a mapped address and at one that is not. -/
def walking (va : Nat) : State :=
  small (lane0 fun x => { x with status := .inside (.walk va 8 .load []), insn := some (.ld hdr ⟨3, false, .b64⟩ (.v 8) (.w 4) .none 0), owed := some 1 })
theorem met_WalksAndFaultReports_walk : [0x10040, 0x90000].all (fun va => onWave (walking va) fun w =>
    decide ((w.walkGroup 0).getLsbD 0 = true ∧ w.lanes.length = 32) &&
    (match (w.lane 0).insn with | some i => i.view.isSome && (laneOp i).isSome | none => false) &&
    ((match (walking va).walk1 w.asid w.level (w.lane 0).walk.1 .load with | .ok _ => true | .error _ => false) == decide (va = 0x10040))) = true := by decide
theorem met_WalksAndFaultReports_report : onWave { small (lane0 fun x => { x with status := .parked ⟨0x11, 0x90000, 0x90000, 8, .load, 0, 1, 0, false, false⟩ }) with
      cyc := 128 } (fun w => decide (w.control = false) && match (w.lane 0).status with
    | .parked p => decide (p.reported = false ∧ p.issued + 128 ≤ 128) | _ => false) = true := by decide
theorem met_SleepersAndWatchers_wakes : [(Status.inside (.mwait none), some (⟨1, true⟩ : Watch)), (.inside (.mwait (some 0)), some ⟨1, false⟩),
      (.blocked (.callb 1), none), (.blocked (.sleep 0), none)].all (fun p => onWave (small (lane0 fun x => { x with status := p.1, watch := p.2 })) fun w =>
    decide (w.lanes.length = 32 ∧ w.resident = true ∧ (w.lane 0).status = p.1 ∧ (w.lane 0).watch = p.2)) = true ∧
    (let s := { small id with watchRegs := SMap.set [] [] 0 [⟨1, 1, 0, 0, 0, 5, 1, true, false, 1⟩] }
     (SMap.get [] s.watchRegs 0).find? (fun q => decide (q.slot = 1) && q.hit) = some ⟨1, 1, 0, 0, 0, 5, 1, true, false, 1⟩) := by decide
/-- A copy of 8 bytes from `src` to 0x10080, with a completion object that no page holds. -/
def copying (src : Word) : State :=
  { small id with cyc := 9, copies := [(0, [⟨0, 0, 1, false, [src, 0x10080, 8, 1, 0, 0, 0], 0x90000, 0, 0, none, none⟩])] }
theorem met_CopiesAreRequestedAndEnd_ends : (let s := copying 0x10040
    let c := (s.copiesOf 0).headD ⟨0, 0, 0, false, [], 0, 0, 0, none, none⟩
    decide (s.memOk ∧ SMap.wf [] s.copies = true ∧ c.rows = 1 ∧ c.rowBytes = 8 ∧ c.done = 0 ∧ c.fault = none ∧ c.ids = none ∧ c.core = 0 ∧ c.zero = false ∧ c.srcLocal = false ∧
        c.dstLocal = false ∧ c.start + (c.rowBytes + 255) / 256 ≤ s.cyc ∧ (∀ p ∈ s.pages, p.disc = none) ∧ loadPage.permits .load false = true ∧
        loadPage.permits .store false = true ∧ loadPage.kind ≠ 2) &&
      (List.range 8).all fun k => decide (s.page? 1 (0x10040 + k) = some loadPage ∧ s.page? 1 (0x10080 + k) = some loadPage) && (s.memMark (0x40 + k) 1).isNone) = true ∧
    decide ((copying 0x10040).cyc < 9 + (8 + 255) / 256) = true := by decide +kernel
/-- A copy whose rows are all written, or that an access has stopped, with nothing left on the link. -/
theorem met_CopiesAreRequestedAndEnd_objects : [none, some (0x10, 0x90000)].all (fun f =>
    let s : State := { small id with copies := [(0, [⟨0, 0, 1, false, [0x10040, 0x10080, 8, 1, 0, 0, 0], 0x90000, 0, 1, f, some [4]⟩])] }
    (s.copiesOf 0).head?.any fun c => decide (c.fault = f ∧ c.ids = some [4] ∧ (∀ w ∈ s.linkWrites, w.id ∉ [4]) ∧ SMap.wf [] s.copies = true)) = true := by decide
theorem met_GroupsOfDevices : (let c : Copy := ⟨0, 0, 1, false, [0, 0, 8, 1, 0, 0, 4], 0, 0, 0, none, none⟩
    let s : State := { small id with groups := [⟨2, [3, 5], 1⟩], windows := [⟨1, 1, 0, 64, 2, .add, false, false, 0, 1⟩], collectives := [⟨2, 0, 0, c, [3, 5], 1, false⟩] }
    decide (s.groups.find? (fun y => decide (y.g = 2)) = some ⟨2, [3, 5], 1⟩ ∧
      s.collectives.find? (fun y => decide (y.g = 2 ∧ y.k = 0)) = some ⟨2, 0, 0, c, [3, 5], 1, false⟩ ∧ c.start ≤ s.cyc) &&
      (s.windows[0]?).any (fun x => (x.bad c).isSome) && (s.windows[0]?).isSome) = true ∧
    (let c : Copy := ⟨0, 0, 1, false, [], 0, 0, 1, none, some []⟩
     let s : State := { small id with windows := [⟨1, 1, 0, 64, 2, .add, false, false, 0, 1⟩], collectives := [⟨2, 0, 0, c, [3, 5], 1, false⟩] }
     s.collectives.find? (fun y => decide (y.g = 2 ∧ y.k = 0)) = some ⟨2, 0, 0, c, [3, 5], 1, false⟩ ∧ c.ids = some [] ∧ s.linkWrites = []) := by decide
theorem first_of_range {n : Nat} {f : Nat → Bool} (h : f 0 = true) : (List.range (n + 1)).find? f = some 0 := by
  rw [List.range_succ_eq_map]; exact List.find?_cons_of_pos h
theorem granuleAt_first (s : State) (w : Wave) (loc : Nat) (hs : s.waves = [w]) (hr : w.retired = false) (hf : w.granuleLoc 0 0 = loc)
    (hz : 16 ≤ w.frameSize) : s.granuleAt loc = some (0, 0) := by
  obtain ⟨n, hn⟩ : ∃ n, w.frameSize / 16 = n + 1 := ⟨w.frameSize / 16 - 1, by omega⟩
  simp [State.granuleAt, hs, hr, hn, List.range_succ_eq_map, hf]
/-- The first granule of the block's scratchpad, and of the wave's frame, lie where the free layout puts them. -/
theorem met_FailuresAndPoolErrors : (let s : State := { small id with raspol := 1 }
    decide (s.power = .on ∧ s.raspol.getLsbD 0 = true ∧ s.raspol.getLsbD 2 = false ∧ s.marked = [] ∧ s.portOut 0 = false)) = true ∧
    (let s : State := { small id with absent := (List.range 18).map fun p => (6, p) }
     (List.range 18).all fun p => s.portOut p) = true ∧
    (withScratch (small id)).regionOwner 2 ((withScratch (small id)).regionLoc 0 2 0) = some (0, 0) ∧
    ∀ m, (small fun w => { w with mirrored := m }).granuleAt ((loadWave 0 0 none false).granuleLoc 0 0) = some (0, 0) := by
  refine ⟨by decide, by decide, ?_, fun m => ?_⟩
  · have h : (withScratch (small id)).regionAt 0 2 ((withScratch (small id)).regionLoc 0 2 0) = some 0 := first_of_range (n := 767) (by simp)
    have hb : (withScratch (small id)).blocks = [{ loadBlock 0 0 none with gScratch := 1 }] := rfl
    have hl : ((loadBlock 0 0 none).state) = .resident := rfl
    simp only [State.regionOwner, hb, List.length_singleton, List.range_one, List.findSome?_cons, List.getElem?_cons_zero, h]
    rfl
  · exact granuleAt_first _ { loadWave 0 0 none false with mirrored := m } _ rfl rfl rfl (show 16 ≤ 256 by decide)
/-- A wave with an entry of its journal in the window, and one out of it. -/
theorem met_StrikesRewindAndInjections_strike : (let w := loadWave 0 0 none false
    let e : JEntry := ⟨2, 190, 0, 1, w, none, 0⟩
    let s : State := { small id with cyc := 200, journal := [⟨1, 3, 0, 1, w, none, 1⟩, e] }
    decide (s.power = .on ∧ s.landed = [] ∧ s.outcomes = []) && (zoneCores 0).contains 0 && (s.journal.find? (fun e => decide (e.waveIx = 0 ∧ s.cyc - 128 ≤ e.cyc))).any (fun x =>
      decide (x.id = 2 ∧ x.wave.wbs = [] ∧ (x.wave.lane 0).status = .ready)) && (s.journal.find? fun x => decide (x.id = 1)).any (fun x => decide (x.cyc + 128 ≤ s.cyc)) && onWave s fun w => decide (w.core = 0 ∧ w.retired = false)) = true := by
  decide +kernel
theorem met_StrikesRewindAndInjections_injection : (let j : Injection := ⟨0, (1, 0, 0), some 0, 0, 8, 3, 0x10000, false, 1, 0, false, false⟩
    let s : State := { State.withFetchWord State.reset 96 (wR 0x000 0x01 0x008 0x010 0x011 0xC00) with injections := [j] }
    decide (s.injections[0]? = some j) && (s.nextOf 0).any (fun p => onWave s fun w => decide (w.retired = false ∧ (w.lane 0).status ≠ .exited ∧
      w.pcOf p.1 = j.pc ∧ w.executes p.1 p.2 0 = true ∧ SMap.wf RegCell.zero w.frame = true)) &&
    onWave { small (lane0 fun x => { x with status := .exited }) with injections := [j] } fun w => decide ((w.lane 0).status = .exited)) = true := by decide +kernel
/-- A pre-empted wave that is stopped. -/
def preempted (f : Wave → Wave) : State := small ((lane0 fun x => { x with stopped := true }) ∘ fun w => f { w with preempt := some 0 })
theorem met_WavesSwitchAndFreeze_out : (let s := { preempted id with preempts := [(0, 0, 0)] }
    (s.preempts.find? (fun p => decide (p.1 = 0 ∧ p.2.1 ≤ s.cyc))).isSome && onWave s fun w =>
      decide (w.resident = true ∧ w.preempt.isSome = true ∧ s.isStopped 0 w = true ∧ (∀ e ∈ w.ocache, e.dirty = 0) ∧ w.core ∉ s.headersUsed) &&
        (s.blocks[w.block]?).any fun b => State.streamSaved b w) = true := by
  decide +kernel
/-- A switched-out block, whose restore is asked for, or under way. -/
def outBlock (r : Option Restore) (stay : Bool) : State :=
  let s := small fun w => { w with resident := false, switchedOut := some 0 }
  { s with blocks := s.blocks.modify 0 (fun b => { b with state := .switchedOut, restore := r }), launches := s.launches.modify 0 fun L => { L with stayOut := stay }
           poolQueue := if r.isNone then [(0, [⟨1, 2, 1, 0, 0, 0⟩])] else [] }
theorem met_WavesSwitchAndFreeze_in : (let s := outBlock none false
    (s.blocks[0]?).any fun b => decide (b.restore = none ∧ s.nextServed b.core = some ⟨1, 2, 1, 0, 0, 0⟩ ∧ s.restoreNeed b ≤ s.comingFree b.core ∧ b.core = 0)) = true ∧
    [true, false].all (fun stay => let s := outBlock (some ⟨0, 0, 0, 0, 0, 0⟩) stay
      (s.blocks[0]?).any fun b => (s.launches[b.launch]?).any (fun L => L.stayOut == stay) && decide (b.restore = some ⟨0, 0, 0, 0, 0, 0⟩ ∧ s.outWaves b = [0] ∧ b.state ≠ .evicted) &&
        onWave s fun w => !w.control) = true ∧
    (let s : State := { small (lane0 fun x => { x with status := .blocked .grow }) with poolQueue := [(0, [⟨1, 1, 1, 2, 0, 0⟩])] }
     (s.nextServed 0).any fun r => decide (r.who = 0 ∧ r.rank = 1)) = true := by decide +kernel
theorem met_WavesSwitchAndFreeze_freeze : [SeqState.frozen, .ended].all (fun q => let s := handled (preempted id)
    let s := { s with blocks := s.blocks.modify 0 fun b => { b with seq := q } }
    (s.blocks[0]?).any fun b => decide (b.state = .resident ∧ b.seq = q ∧ b.seqOps = [] ∧ b.frozenTrapped = false ∧ b.waves.headD 0 = 0) && onWave s fun w =>
      decide (w.resident = true ∧ w.preempt.isSome = true ∧ s.isStopped 0 w = true ∧ w.lanes.length = 32 ∧ w.inHandler = false ∧
        (s.tenant w.tenant).tvec ≠ 0 ∧ (w.lane 0).status ≠ .exited)) = true := by decide +kernel
theorem met_SchedulerTimers :
    (let s := small (lane0 fun x => { x with starve := 64 }); onWave s fun w => decide (w.resident = true ∧ s.runDue w = true)) = true ∧
    onWave (small fun w => { w with age := 512 }) (fun w => decide (512 ≤ w.age)) = true ∧
    (let s := small (lane0 fun x => { x with passed := 65536 })
     let s := { s.modTenant 1 (fun t => { t with wdlog := 16 }) with launches := s.launches.modify 0 fun L => { L with cart := { L.cart with progOff := true } } }
     onWave s fun w => decide (s.promised w = false ∧ (w.lane 0).isReady = true ∧ 2 ^ (s.tenant w.tenant).wdlog ≤ w.passedOf (w.cohortAt (w.lane 0).pc) ∧ w.toldOf (w.cohortAt (w.lane 0).pc) = false)) = true ∧
    (let s := (small ((lane0 fun x => { x with status := .inside (.bar 0) }) ∘ fun w => { w with idle := 65536 })).modTenant 1 fun t => { t with waitrep := true, wdlog := 16 }
     onWave s fun w => decide (w.allWait = true ∧ (s.tenant w.tenant).waitrep = true ∧ 2 ^ (s.tenant w.tenant).wdlog ≤ w.idle)) = true ∧
    (let s : State := { small (fun w => { w with preempt := some 0 }) with cyc := 20000 }
     onWave s (fun w => decide (w.preempt = some 0 ∧ w.noSafeReported = false ∧ s.isStopped 0 w = false))) = true := by
  decide +kernel
/-- Launches that are offered and have no block yet. -/
def offering (ls : List Launch) : State := { small id with launches := ls, blocks := [], waves := [] }
def unplaced : Launch := { loadLaunch with made := 1 }
/-- What the head of cluster 0 offers, and where it goes. -/
def offers (s : State) (p : Nat × OfferUnit → Bool) : Bool := (s.offerHead 0).any fun h => (s.offered h.2).any fun q => decide (q.1 = h.1 ∧ q.2 = 0 ∧ s.overtaken 0 = none) &&
  (s.launches[h.1]?).any (fun L => decide (L.home = 0)) && p h
theorem met_BlocksArePlacedAndRetired_single : (let s := offering [unplaced]
    offers s (fun h => decide (h.1 = 0) && !h.2.multi && (s.placeOn 0 (0, 0)).isSome)) = true ∧
    (let s := (offering [unplaced]).modTenant 1 fun t => { t with qmax := [] }
     offers s (fun h => decide (h.1 = 0) && (s.placeOn 0 (0, 0)).isNone && !s.queuedOn 0 (0, 0) && (s.richest 1 (s.pieceCores 0 (0, 0))).isSome)) = true := by
  decide +kernel
theorem met_BlocksArePlacedAndRetired_unit : (let s := offering [{ unplaced with gang := some 1 }, { unplaced with id := 2, gang := some 1 }]
    offers s (fun h => h.2.multi && (s.placeOn 0 (0, 0)).isSome && h.2.pieces.contains (1, 0) && (s.reservedAt (1, 0)).isNone)) = true ∧
    (let s := offering [{ unplaced with gang := some 1 }, { unplaced with id := 2, gang := some 1 }]
     let s := { s with blocks := [{ Block.fresh 1 0 0 with state := .reserved }] }
     offers s (fun h => h.2.multi && (s.placeOn 0 (0, 0)).isSome && h.2.pieces.all fun q => decide (q = (0, 0)) || (s.reservedAt q).isSome)) = true := by
  decide +kernel
/-- A unit of PRIO 0 with a reservation, and a launch of PRIO 2 that has joined its cluster's queue. -/
theorem met_BlocksArePlacedAndRetired_overtaken : (let s := offering [{ unplaced with gang := some 1 }, { unplaced with id := 2, gang := some 1 }, { unplaced with id := 3, prio := 2 }]
    let s := { s with blocks := [{ Block.fresh 0 0 0 with state := .reserved }] }
    (s.overtaken 0).any fun u => decide (u.pieces = [(0, 0), (1, 0)])) = true := by decide +kernel
theorem met_BlocksArePlacedAndRetired_preempt : (let s : State := { small id with
      cyc := 4096, launches := [loadLaunch, { unplaced with id := 2, prio := 2 }], headSince := [(0, (2, 0))] }
    (s.offerHead 0).any (fun h => decide (h.1 = 1)) && decide (SMap.get (0, 0) s.headSince 0 = (2, 0) ∧ s.displacing 0 = false ∧ s.victim 0 2 = some 0)) = true := by
  decide +kernel
theorem met_BlocksArePlacedAndRetired_retire : (let s := small (lane0 fun x => { x with status := .exited })
    onWave s (fun w => s.mayRetire 0 w) && (s.blocks[0]?).any fun b => decide (b.waves = [0] ∧ b.commit = [] ∧ b.seqOps = [] ∧ s.draining 0 b = false ∧ b.state = .resident ∧
      b.faultMark = false)) = true ∧
    (let s := small (lane0 fun x => { x with status := .exited })
     let s := { s with waves := s.waves ++ [loadWave 0 0 none false], blocks := s.blocks.modify 0 fun b => { b with waves := [0, 1] } }
     onWave s (fun w => s.mayRetire 0 w) && (s.waves[1]?).any fun v => !v.retired) = true := by decide +kernel
theorem met_StreamWordsAndDrainsComplete_array : (let o : StreamOp := ⟨0, .mma .bf16 (.v 32) (.w 1) (.w 2) (.small 0), 0, 0, some 0, [⟨0, .v 32, 5, .f32, false⟩], []⟩
    let s := streamed (fun b => { b with seqOps := [o, ⟨0, .marrive 1, 0, 0, none, [], []⟩] }) id
    onBlock s (fun b => (b.seqOps.find? (fun o => isArrayOp o.insn && decide (o.due ≤ s.cyc))).isSome) &&
      onWave s fun w => decide (SMap.wf RegCell.zero w.frame = true ∧ 32 < w.frameSize)) = true := by decide +kernel
theorem met_StreamWordsAndDrainsComplete_fill : (let o : StreamOp := ⟨0, .mfill .bf16 (.w 1) (.w 4) .none 0, 0, 0, none, [], List.replicate 2048 1⟩
    let s := streamed (fun b => { b with seqOps := [o] }) id
    onBlock s (fun b => (b.seqOps.find? (fun o => isFill o.insn && decide (o.due ≤ s.cyc))).isSome && SMap.wf Slot.free b.slots)) = true := by decide +kernel
/-- The stream's word is one that no instruction has: op 0x308. -/
theorem met_StreamWordsAndDrainsComplete_illegal : (let s := streamed id id
    let s := { s with view0 := Memory.write [] 0 (natLe 12 (0x308 * 2 ^ 86)), view1 := Memory.write [] 0 (natLe 12 (0x308 * 2 ^ 86)) }
    onBlock s fun b => s.streamRuns b && match s.streamFetch b with
      | .ok x => (match decodeStream x with | .illegal r => decide (r = 0xA) | .ok _ => false) | .error _ => false) = true := by decide +kernel
theorem met_StreamWordsAndDrainsComplete_drain : (let s := contained (small (lane0 fun x => { x with status := .inside .commit }))
    let s := { s with blocks := s.blocks.modify 0 fun b => { b with drain := some [1] } }
    onBlock s (fun b => decide (b.drain = some [1])) && decide (s.coreWrites = [] ∧ s.linkWrites = []) && onWave s fun w => decide (w.retired = false ∧
      w.lanes.length = 32 ∧ (w.lane 0).status = .inside .commit)) = true := by decide +kernel
/-- A sweep of 3 elements with lane 0 free, at element `p`, over memory that holds only the entry of state 0 and the skip bits `sk`. -/
def engine (p sk : Nat) : State :=
  let k : Sweep := ⟨p, 3, tensorCap.1, tensorCap.2, 0x10800, 1, 0, .sweep hdr (.v 8) (.w 4) (.w 6) (.small 3), none, 0, 0, 0, 0x10000, 9, false, false, [(0, 1)], 0⟩
  let s := small ((lane0 fun x => { x with status := .inside .sweep }) ∘ fun w => { w with sweep := some k })
  let m := Memory.write (Memory.write [] 0x800 (natLe 8 0x10000)) 0x40 [BitVec.ofNat 8 sk]
  { s with view0 := m, view1 := m }
theorem met_EnginesLoadAndCount_load : [0, 4].all (fun sk => let s := engine (if sk = 0 then 0 else 2) sk
    onWave s fun w => match w.sweep with
      | none => false
      | some k => (let t := w.tensor k
        s.sweepOpen w k && decide (w.sweepWaiter k = some 0 ∧ (w.lane 0).elem = none ∧ w.lanes.length = 32 ∧ 4 ≤ w.frameSize) &&
        (match s.readSkip t k.p, s.readCell t k.p with
          | .ok b, .ok c => decide (b = decide (sk ≠ 0)) && (sk != 0 || decide (s.effCtx (some 0) k.p (cellCtx k.word0 c) / 256 % 16 = 0)) | _, _ => false) &&
        (sk != 0 || match s.readEntry t k.entry 0 with | .ok e => decide (e ≠ 0 ∧ e % 4 = 0) | .error _ => false) && (sk == 0 || decide (k.p + 1 = k.n)))) =
    true := by decide +kernel
/-- One sleeper is passed over, and a sleeper for one sweep is lowered. -/
theorem met_EnginesLoadAndCount_pass : (let s := engine 0 1
    onWave s fun w => match w.sweep with
      | none => false
      | some k => (let t := w.tensor k
        s.sweepOpen w k && decide (w.sweepWaiter k = some 0) && match s.readSkip t 0, s.readSkip t 1 with | .ok true, .ok false => true | _, _ => false)) = true := by
  decide +kernel
theorem met_EnginesLoadAndCount_decrement : (let s := engine 0 0
    let s := { s with view0 := Memory.write s.view0 4 (natLe 4 0x1100) }
    onWave s fun w => match w.sweep with
      | none => false
      | some k => (let t := w.tensor k
        s.sweepOpen w k && decide (w.sweepWaiter k = some 0) && (match s.readSkip t 0, s.readCell t 0 with
          | .ok false, .ok c => (let ctx := s.effCtx (some 0) 0 (cellCtx k.word0 c); decide (ctx / 256 % 16 = 1 ∧ 0 < ctx / 4096 % 2 ^ 20)) | _, _ => false) &&
        match s.walk w.asid k.slevel (t.cellVa 0) (cellSize k.word0) .store with | .ok _ => true | .error _ => false)) = true := by decide +kernel
/-- The first action counts all three elements, of which one sleeps; after it the sweep ends. -/
theorem met_EnginesLoadAndCount_count : [none, some 3].all (fun c => let s := engine 3 4
    let s := s.modSweep 0 fun k => { k with counting := c }
    onWave s fun w => match w.sweep with
      | none => false
      | some k => (let t := w.tensor k
        s.sweepOpen w k && w.sweepIdle k && decide (k.faulted = false ∧ k.n ≤ k.p ∧ (k.counting = none ∨ k.n ≤ k.counting.getD 0)) && (List.range k.n).all fun i =>
          match s.readSkip t i, s.readCell t i with | .ok b, .ok _ => b == decide (i = 2) | _, _ => false)) = true := by decide +kernel
theorem met_MailboxWindowsAndEpisodes_window : [(boxed 1 id, 1), (boxed 2 id, 2), (boxed 0 id, 0)].all (fun (s, p) =>
    decide (SMap.wf Mailbox.unbound s.mailboxes = true ∧ (s.mb 4).phase = p ∧ (s.mb 4).step = 0 ∧ (s.mb 4).target = none)) = true := by decide
/-- Episode 3 with mailboxes 4 and 5 in their phases at the head of its queue, with a quantum, a limit and a deadline that have run out. -/
def playing (p4 p5 : Nat) : State :=
  let own := fun (p : Nat) => { Mailbox.unbound with phase := p, owner := some (1, 1), counter := 9 }
  { small id with
    cyc := 10000, mailboxes := [(4, own p4), (5, own p5)], runQueues := [(1, [3, 6])]
    episodes := [(3, { Episode.free with state := 2, tenant := 1, core := 1, firstMb := 4, nmb := 2, wsize := 0, wbase := 0x40000, stepLim := 5, deadline := 1, used := 30000 })] }
theorem met_MailboxWindowsAndEpisodes_episode : [(0, 0), (0, 1), (2, 0)].all (fun (p, q) => let s := playing p q
    decide (s.runs 3 = true ∧ s.power = .on ∧ SMap.wf Episode.free s.episodes = true ∧ SMap.wf [] s.runQueues = true ∧ SMap.wf Mailbox.unbound s.mailboxes = true ∧
      s.runQueue 1 = [3, 6] ∧ 30000 ≤ (s.episode 3).used ∧ (s.episode 3).state = 2 ∧ (s.mb 4).phase = p ∧ (s.mb 5).phase = q ∧
      (s.episode 3).stepLim ≤ (s.mb 4).counter ∧ (s.episode 3).created + 1800 * (s.episode 3).deadline ≤ s.cyc)) = true := by decide
theorem met_LaunchCommandsAreTaken : (let s := (small id).modTenant 1 fun t => { t with recbase := 0x200000 }
    let t := { s with blocks := s.blocks ++ [{ loadBlock 0 1 none with index := 1, state := .switchedOut, waves := [1] }]
                      waves := s.waves ++ [{ loadWave 0 1 none false with resident := false, switchedOut := some 0 }] }
    let pre := { s with preempts := [(0, 9, 0)], launches := s.launches.modify 0 fun L => { L with preempted := true } }
    let out := { t with launches := t.launches.modify 0 fun L => { L with stayOut := true } }
    decide (s.launchIx 1 1 = some 0 ∧ s.isControl 1 0 = false ∧ SMap.wf [] s.poolQueue = true ∧ (s.tenant 1).recbase ≠ 0 ∧ SMap.wf Tenant.absent s.tenants = true) &&
    (s.launches[0]?).any (fun L => decide (L.ended = false ∧ 0 < L.blocks ∧ 0 < L.cart.waves ∧ L.preempted = false ∧ L.stayOut = false)) &&
    decide (pre.preemptPending 0 = true ∧ s.preemptPending 0 = false ∧ s.anyOut 0 = false ∧ out.anyOut 0 = true ∧ out.launchIx 1 1 = some 0 ∧ pre.launchIx 1 1 = some 0) &&
    (out.launches[0]?).any (·.stayOut) && (out.blocks[1]?).any fun b => decide (b.launch = 0 ∧ out.isOut b = true ∧ b.restore = none)) = true := by decide +kernel
/-- A state that maps one 4 KiB page at 0x10000 in ASID 1, of frame 0, changed by `f`. -/
def mapped (f : Page → Page) : State :=
  let s := small id
  { s with pages := [f loadPage], framesUsed := [0], tenants := [(1, { s.tenant 1 with partitions := [5] })] }
/-- A request of an operation on ASID 1, its word 1's other bits, and an address. -/
def onRange (op : Nat) (bits va a b : Word) : SvcReq := [BitVec.ofNat 64 op, 1 ||| bits, va, 0x1000, a, b]
/-- A mapping request that its rules accept, on a range that is mapped and not global. -/
def rangeReady (s : State) (q : SvcReq) : Bool :=
  let m := MapReq.ofReq q
  decide ((s.tenant 1).live = true ∧ s.ringHolds 1 q = true ∧ s.mapRules 1 m = true ∧ s.rangeOk m = true ∧ s.mustWait (s.rangePages m.asid m.va m.len) = false) &&
    s.pages.all fun p => !p.g
theorem met_MappingServices_map : (let s := mapped id
    let other := onRange 16 0x30000 0x20000 0 0
    let host := onRange 16 0x20030000 0x20000 0x3000 0
    decide (s.ringHolds 1 other = true ∧ s.mapRules 1 (MapReq.ofReq [16, 1, 0x20000, 0]) = false ∧ s.mapRules 1 (MapReq.ofReq other) = true ∧
      (MapReq.ofReq other).g = false ∧ s.rangePages 1 0x20000 0x1000 = [] ∧ s.rangePages 1 0x10000 0x1000 ≠ [] ∧ (MapReq.ofReq other).source = 0 ∧
      (MapReq.ofReq other).len = (MapReq.ofReq other).size ∧ s.freeFrames 1 (dieStacks 0) = some 1 ∧ s.memOk ∧
      s.mapRules 1 (MapReq.ofReq host) = true ∧ (MapReq.ofReq host).source = 2 ∧ (MapReq.ofReq host).a % (MapReq.ofReq host).size = 0 ∧
      (∀ q ∈ s.pages, q.kind = 0 ∧ q.g = false ∧ q.pa ≠ 4096))) = true := by decide +kernel
theorem met_MappingServices_others :
    [17, 18, 20, 24].all (fun op => rangeReady (mapped id) (onRange op 0x30000 0x10000 0 0)) &&
    rangeReady (mapped fun p => { p with pa := 0, orig := some 0x5000 }) (onRange 22 0 0x10000 0 0) &&
    decide ((mapped id).deferred = [] ∧ isDurable 0 = false) = true := by decide +kernel
theorem met_MappingServices_migrate : [true, false].all (fun pin => let s := { cached (mapped id) with lines := (cached (mapped id)).lines.map fun l => { l with pinned := pin } }
    let q := onRange 19 0 0x10000 0 0
    rangeReady s q && decide (s.memOk ∧ s.rangePages 1 0x10000 0x1000 = [loadPage] ∧ loadPage.mig = none ∧ isDurable loadPage.pa = false ∧
      migrateStacks 0 false = some (dieStacks 0) ∧ s.freeFrames 1 (dieStacks 0) = some 1 ∧ s.pinnedIn [1] 1 (MapReq.ofReq q) = pin)) = true := by decide +kernel
theorem met_MappingServices_private : (let s := mapped fun p => { p with g := true, w := false }
    let q := onRange 21 0 0x10000 0 0
    let m := MapReq.ofReq q
    decide (s.ringHolds 1 q = true ∧ s.mapRules 1 m = true ∧ s.rangeOk m = true ∧ s.rangePages 1 0x10000 0x1000 = [{ loadPage with g := true, w := false }] ∧ s.memOk ∧
      s.mustWait ((s.tenant 1).asids.flatMap fun a => s.rangePages a m.va m.len) = false ∧ s.freeFrames 1 (dieStacks 2) = some 1)) = true := by decide +kernel
theorem met_MappingServices_resume : (let s := mapped id
    decide (s.launchIx 1 7 = none ∧ s.launchIx 1 1 = some 0 ∧ field (0 : Word) 37 27 = 0 ∧ field (0x2000000000 : Word) 37 27 ≠ 0 ∧
      SMap.wf Tenant.absent s.tenants = true ∧ SMap.wf 0 (s.tenant 1).partitionOf = true ∧ (s.tenant 1).partitions.contains 5 = true ∧
      (s.tenant 1).partitions.contains 6 = false ∧ (s.tenant 1).asids.contains 1 = true) && onWave s fun w => decide (w.sweep = none ∧ w.lanes.length = 32)) = true := by
  decide +kernel
/-- The key of RFC 8032's first test vector, the signature of `object` under it, and the two digests its verification takes: from an
implementation of SHA-512 and Ed25519 outside the model. -/
def objectKey : Nat := 0x1a5107f7681a02af2523a6daf372e10e3a0764c9d3fe4bd5b70ab18201985ad7
def objectSig : List Byte := natLe 64 0xe9365062bc01047597d5c0466fc05fec3a736efd9b9f9fefb405d2705f7b902b0949e0e5b294571a07aab41752097d220750379f60a6331f6a036726784c72
def objectDigest : List Byte := natBe 64 0xe7f571aed48e703b0c2624fb3331a5d626bcf5c6b939eb56f1617815fc9a56055d4c67b9ca09127466d0fd44a53686f9758eb43fd58ccc8b5e27bba1cfeb1f5
/-- An object of two notes in a section of their own, with the table of section names behind it, signed. -/
def object : List Byte :=
  let bytes := fun (n v : Nat) => natLe n v
  let text := fun (s : String) => (s.toList.map fun c => BitVec.ofNat 8 c.toNat) ++ [0]
  let note := fun (kind : Nat) (d : List Byte) => bytes 4 10 ++ bytes 4 d.length ++ bytes 4 kind ++ text "KRYNDORIK" ++ [0, 0] ++ d
  let notes := note 2 (bytes 2 5 ++ bytes 1 32 ++ bytes 5 0) ++ note 3 (bytes 8 0 ++
    objectSig)
  let names := text "" ++ text ".note.kryndorik" ++ text ".strtab"
  let header := bytes 4 0x464C457F ++ [2, 1, 1, 0] ++ bytes 8 0 ++ bytes 2 3 ++ bytes 2 0x4A39 ++ bytes 20 0 ++ bytes 8 (64 + notes.length + names.length) ++
    bytes 12 0 ++ bytes 2 3 ++ bytes 2 2
  let shdr := fun (name kind off size : Nat) => bytes 4 name ++ bytes 4 kind ++ bytes 16 0 ++ bytes 8 off ++ bytes 8 size ++ bytes 24 0
  header ++ notes ++ names ++ shdr 0 0 0 0 ++ shdr 1 7 64 notes.length ++ shdr 17 3 (64 + notes.length) names.length

theorem test_sha512_object : sha512 (signedBytes object) = objectDigest := by decide +kernel
theorem test_sha512_challenge : sha512 (objectSig.take 32 ++ natLe 32 objectKey ++ objectDigest) =
    natBe 64 0x1ced6cbf8d45bfcaf71b8c46b794e4f2fbbee2c7c230317cdb70464f7dc56d87c6bb37e77a3607299376d397157e407900c4663a336cbd4099cd1eb2cfca5d34 := by decide +kernel
theorem met_signature : signatureOk object [(2, natLe 8 0x200005), (3, natLe 8 0 ++ objectSig)] objectKey = true := by
  have h : (noteOf [(2, natLe 8 0x200005), (3, natLe 8 0 ++ objectSig)] 3).drop 8 = objectSig := by decide +kernel
  simp only [signatureOk, edVerify, h, test_sha512_object, test_sha512_challenge]
  decide +kernel
/-- What the translation is is free: the object is accepted where its size allows it. -/
theorem met_OtherServices_load (k : Config.translatedSize 0 ≤ 64) :
    ((mapped id).modTenant 1 fun t => { t with keys := [(0, objectKey)] }).loadStatus 1 1 object 0x10000 64 0 = 0 := by
  have h1 : (if containerOk object then objectNotes object else none) = some [(2, natLe 8 0x200005), (3, natLe 8 0 ++ objectSig)] := by decide +kernel
  have h2 : objectCarts [(2, natLe 8 0x200005), (3, natLe 8 0 ++ objectSig)] = [] := by decide +kernel
  have h3 : objectRelocs object = [] := by decide +kernel
  have h4 : SMap.get 0 (((mapped id).modTenant 1 fun t => { t with keys := [(0, objectKey)] }).tenant 1).keys
      (fileNat (noteOf [(2, natLe 8 0x200005), (3, natLe 8 0 ++ objectSig)] 3) 0 4) = objectKey := by decide +kernel
  have h5 : fileNat (noteOf [(2, natLe 8 0x200005), (3, natLe 8 0 ++ objectSig)] 3) 0 4 < 8 := by decide +kernel
  have h6 : fileNat (noteOf [(2, natLe 8 0x200005), (3, natLe 8 0 ++ objectSig)] 2) 0 2 = 5 := by decide +kernel
  have h7 : notesOk [(2, natLe 8 0x200005), (3, natLe 8 0 ++ objectSig)] = true := by decide +kernel
  have h8 : bindTabOk object [(2, natLe 8 0x200005), (3, natLe 8 0 ++ objectSig)] = true := by decide +kernel
  have h9 : rodataEnd object 0 = 0 := by
    have : findSection object ".rodata" = none := by decide +kernel
    rw [rodataEnd, this]
  have h10 : ((mapped id).modTenant 1 fun t => { t with keys := [(0, objectKey)] }).destinationOk 1 0x10000 64 = true := by decide +kernel
  have hk : objectKey ≠ 0 := by decide
  simp only [State.loadStatus, h1, h2, h3, h5, h6, h7, h8, h10, translatedLen, h9, ↓reduceIte, h4, met_signature]
  simp [hk]; omega
/-- An injection for a launch that is there, and for one that is to come. -/
theorem met_OtherServices_arms : (let s := mapped id
    decide (s.launchIx 1 1 = some 0 ∧ s.launchIx 1 2 = none ∧ (s.tenant 1).nextLaunch ≤ 2 ∧ s.ringHolds 1 [5, 1] = true)) = true := by decide +kernel
theorem met_OtherServices_calls : (let s := { mapped id with groups := [⟨2, [3, 5], 1⟩] }
    let s := { s with blocks := s.blocks.modify 0 fun b => { b with evictedTo := some 0 }, waves := s.waves.modify 0 fun w => { w with stoppedBrk := true } }
    let s := s.modTenant 1 fun t => { t with objects := [(0x10000, 0, [])] }
    decide (SMap.wf Tenant.absent s.tenants = true ∧ (s.tenant 1).live = true ∧ s.ringHolds 1 [2, 0x10000] = true ∧ s.launchIx 1 1 = some 0 ∧ s.launchIx 1 2 = none ∧
      s.blockAt 0 0 = some 0 ∧ redOpOf 0 ≠ none) && (s.tenant 1).objects.any (fun o => decide (o.1 = 0x10000)) && (s.tenant 1).objects.all (fun o => decide (o.1 ≠ 0x20000)) &&
    (s.groups.find? fun x => decide (x.g = field (0x2000001 : Word) 24 8)).isSome && decide ((s.tenant 1).asids.contains (field (0x2000001 : Word) 0 16) = true) &&
    decide (s.waveNamed 0 0 0 = some 0) && onWave s fun w => decide (w.launch = 0 ∧ w.stoppedBrk = true ∧ w.inHandler = false)) = true := by decide +kernel
theorem natLe_length (n x : Nat) : (natLe n x).length = n := by
  induction n generalizing x with
  | zero => rfl
  | succ n ih => simp [natLe, ih]
/-- The length of the serial number is free; where a quote fits the page, the request's buffer takes it. -/
theorem met_OtherServices_quote (h : Config.serialNumber.length = 8) : ∃ p, (mapped id).walk 1 true 0x10000 ((mapped id).quote 1 [7]).length .store = .ok p := by
  have hb (q : SvcReq) : ((mapped id).quoteBody 1 q).length = 304 := by
    have h1 : (((mapped id).tenant 1).objects.flatMap fun o => sha512 o.2.2) = [] := rfl
    have h2 : ((List.range 4).flatMap fun k => natLe 8 (wordOf q (k + 1)).toNat).length = 32 := rfl
    simp only [State.quoteBody, h1, List.length_append, List.length_map, List.length_range, h2, h, natLe_length, List.length_nil]
  have hq (q : SvcReq) : ((mapped id).quote 1 q).length = 368 := by
    simp only [State.quote, List.length_append, hb, edSign, edBytes, natLe_length]
  rw [hq]
  exact ⟨[0], by decide +kernel⟩
/-- CREATE with mailbox 4, of the launch, in ASID 1, a window of 64 KiB and an image of 8 bytes at 0x10000. -/
def creates : SvcReq := [32, 0x04010001, 0x10000, 8, 0, 0, 0, 0]
theorem met_OtherServices_create : (let s := { mapped id with mailboxes := (boxed 6 id).mailboxes }
    s.ringHolds 1 creates && !s.createBad 1 creates && s.createBad 1 [32] && s.freeEpisode.isSome && (s.fieldCore 0).isSome &&
    (s.freeFrames 16 (dieStacks 0)).isSome && decide (s.memOk ∧ SMap.wf Episode.free s.episodes = true ∧ SMap.wf [] s.runQueues = true) &&
    match s.devRead 1 true 0x10000 8 with | .ok _ => true | .error _ => false) = true := by decide +kernel
theorem met_OtherServices_episode : (let s := playing 0 0
    decide ((s.episode 3).state = 2 ∧ (s.episode 3).tenant = 1 ∧ SMap.wf Episode.free s.episodes = true ∧ (s.episode 4).state = 0 ∧ s.ringHolds 1 [33, 3] = true)) = true := by
  decide
theorem met_ManagementCommands : (let s := mapped id
    decide (SMap.wf Tenant.absent s.tenants = true ∧ (s.tenant 1).live = true ∧ s.tenantOk 2 ⟨[9], 64, [3], 0⟩ = true ∧
      s.confirmedIn (durBase + 4096 * 7) 4096 = false ∧ s.framesUsed = [0] ∧ s.retiredFrames = [] ∧ s.absent = [] ∧ 0 < (stackFrames 1).1) &&
    (let s := s.modTenant 2 fun t => { t with live := true, frames := [7] }
     decide (s.frameOwner 7 = some 2)) && s.launches.any fun L => decide (L.tenant = 1 ∧ L.ended = false ∧ 0 < L.blocks)) = true := by decide +kernel
theorem met_PowerAndResets : [Power.on, .failed, .drained].all (fun p => let s : State := { mapped id with power := p }
    decide (s.power = p ∧ SMap.wf Tenant.absent s.tenants = true ∧ s.memOk ∧ (s.tenant 1).live = true) && (s.blocks[0]?).any fun b => b.holds && decide (dieOfCore b.core = 0 ∧ b.launch < s.launches.length)) = true ∧
    (∀ e ∈ (State.reset).tenants, e.2.live = false) := by decide +kernel
theorem met_HostAndChartCores_host : (let s := mapped id
    decide (s.power = .on ∧ s.memOk ∧ (∀ p ∈ s.pages, p.disc = none) ∧ 0x40 + 2 ≤ 2 ^ 64)) = true := by decide +kernel
/-- A bind ring of 32 slots at 0x10000 whose first slot names the cell at 0x10800 and launch 1. The cell holds a word. -/
def binding (word : Nat) : State :=
  let s := (mapped id).modTenant 1 fun t => { t with bindRing := ⟨0x10000, false, 5, 1⟩ }
  let m := Memory.write (Memory.write (Memory.write (Memory.write [] 8 (natLe 8 1)) 0x80 (natLe 8 0x10800)) 0x88 (natLe 8 1)) 0x800 (natLe 8 word)
  { s with view0 := m, view1 := m }
/-- A cell that is bound, that asks for symbol 3, that has been asked for already, and that has failed. -/
theorem met_HostAndChartCores_bind : [12, 13, 14, 15].all (fun word => let s := binding word
    let r := (s.tenant 1).bindRing
    decide ((s.tenant 1).live = true ∧ r.log2n ≠ 0 ∧ s.ringWord r (r.base + 8) = some 1 ∧ (s.tenant 1).bindHead < 1 ∧ s.ringWord r (r.base + 128) = some 0x10800 ∧
      s.ringWord r (r.base + 136) = some 1) &&
    match s.devRead 1 true 0x10800 8, s.walk 1 true 0x10800 8 .store with | .ok b, .ok _ => decide (leNat b = word) | _, _ => false) = true := by decide +kernel
/-- An object whose BINDTAB names symbols 1 and 2, called a and b, which it defines where the section numbers say. -/
def symbols (x y : Nat) : List Byte :=
  let bytes := fun (n v : Nat) => natLe n v
  let text := fun (s : String) => (s.toList.map fun c => BitVec.ofNat 8 c.toNat) ++ [0]
  let note := bytes 4 10 ++ bytes 4 16 ++ bytes 4 4 ++ text "KRYNDORIK" ++ [0, 0] ++ bytes 8 1 ++ bytes 8 2
  let names := text "" ++ text ".note.kryndorik" ++ text ".strtab" ++ text ".symtab" ++ text "a" ++ text "b"
  let sym := fun (name shndx value : Nat) => bytes 4 name ++ bytes 2 0 ++ bytes 2 shndx ++ bytes 8 value ++ bytes 8 0
  let syms := sym 0 0 0 ++ sym 33 x 0x40 ++ sym 35 y 0x80
  let header := bytes 40 0 ++ bytes 8 (64 + note.length + names.length + syms.length) ++ bytes 12 0 ++ bytes 2 4 ++ bytes 2 2
  let shdr := fun (name kind off size : Nat) => bytes 4 name ++ bytes 4 kind ++ bytes 16 0 ++ bytes 8 off ++ bytes 8 size ++ bytes 24 0
  header ++ note ++ names ++ syms ++ shdr 0 0 0 0 ++ shdr 1 7 64 note.length ++ shdr 17 3 (64 + note.length) names.length ++
    shdr 25 2 (64 + note.length + names.length) syms.length
/-- Where the translated object holds the cell, its symbol 1 is its own, and symbol 2 is the next object's. -/
theorem met_HostAndChartCores_symbols (h : 0x800 < Config.translatedSize 0) :
    let s := (binding 5).modTenant 1 fun t => { t with objects := [(0x10000, 0, symbols 1 0), (0x20000, 0, symbols 1 1)] }
    s.cellSymbol 1 0x10800 1 = some ((0x10000, 0, symbols 1 0), ⟨"a", true, 0x40⟩) ∧
    s.cellSymbol 1 0x10800 2 = some ((0x10000, 0, symbols 1 0), ⟨"b", false, 0x80⟩) ∧
    s.definedAt 1 "b" = some (placeOf 0x20000 0 0x80) := by
  have ho : ((binding 5).modTenant 1 fun t => { t with objects := [(0x10000, 0, symbols 1 0), (0x20000, 0, symbols 1 1)] }).objectAt 1 0x10800 =
      some (0x10000, 0, symbols 1 0) := by
    have : ((binding 5).modTenant 1 fun t => { t with objects := [(0x10000, 0, symbols 1 0), (0x20000, 0, symbols 1 1)] }).tenant 1 =
        { ((binding 5).tenant 1) with objects := [(0x10000, 0, symbols 1 0), (0x20000, 0, symbols 1 1)] } := by rfl
    rw [State.objectAt, this]
    refine List.find?_cons_of_pos ?_
    have h2 : objectCarts ((objectNotes (symbols 1 0)).getD []) = [] := by decide +kernel
    simp only [translatedLen, h2, decide_eq_true_eq]
    simp; omega
  have ht : ((objectNotes (symbols 1 0)).getD []) = [(4, natLe 8 1 ++ natLe 8 2)] := by decide +kernel
  have hs : objectSymbols (symbols 1 0) = [⟨"", false, 0⟩, ⟨"a", true, 0x40⟩, ⟨"b", false, 0x80⟩] := by decide +kernel
  have hs' : objectSymbols (symbols 1 1) = [⟨"", false, 0⟩, ⟨"a", true, 0x40⟩, ⟨"b", true, 0x80⟩] := by decide +kernel
  refine ⟨?_, ?_, ?_⟩
  · rw [State.cellSymbol, ho]; simp only [Option.bind_some, ht, hs]; decide +kernel
  · rw [State.cellSymbol, ho]; simp only [Option.bind_some, ht, hs]; decide +kernel
  · have : (((binding 5).modTenant 1 fun t => { t with objects := [(0x10000, 0, symbols 1 0), (0x20000, 0, symbols 1 1)] }).tenant 1).objects =
        [(0x10000, 0, symbols 1 0), (0x20000, 0, symbols 1 1)] := by rfl
    simp [State.definedAt, this, hs, hs']
theorem met_HostAndChartCores_pull : [[1], [1, 2]].all (fun ls => let s := mapped fun p => { p with mig := some (0x5000, ls) }
    (s.page? 1 0x10040).any fun p => decide (p.mig = some (0x5000, ls)) && ls.contains ((0x10040 - p.va) / 64)) = true := by decide +kernel
theorem met_HostAndChartCores_gazetteer : (let s := mapped id
    decide ((s.tenant ((16 + 7) / 16)).live = true ∧ 2 < (16 + 7) % 16 ∧ SMap.wf 0 s.gazetteerSeq = true ∧ SMap.wf [] s.gazetteer = true)) = true := by decide
/-- Well-formed words of every form, and every kind of reserved word. -/
theorem met_EncodeAndDecodeAgree : [Instr.ffma hdr ⟨.rne, .f32⟩ (.v 10) (.v 8) (.v 9) (.v 10), .movi hdr (.v 1) 0x7FFFFFF, .bra hdr 0xFFFFFFFA, .ld hdr ⟨3, true, .b32⟩ (.v 2) (.v 4) .none 8,
      .mma .k8 (.v 32) (.w 3) (.w 4) (.small 2)].all (fun i => i.wf && (encode i).isSome) = true := by decide
theorem met_ReservedWordsAreIllegal : [(wR 0x010 0 0 0 0 0, 1), (wR 0x3C0 0 0 0 0 0, 1), (wR 0x300 0 0 0 0 0, 2), (13 * 2 ^ 56, 3)].all (fun e => decide (e.1 < 2 ^ 96 ∧ decodeWave e.1 = .illegal e.2)) &&
    [(wR 0x308 0 0 0 0 0, 0xA), (wR 0x2FF 0 0 0 0 0, 0xA), (0x307 * 2 ^ 86, 0xB)].all (fun e => decide (e.1 < 2 ^ 96 ∧ decodeStream e.1 = .illegal e.2)) = true := by decide
theorem met_ResetState : State.reset.memOk ∧ State.reset.tidy :=
  ⟨by decide, ⟨by decide, by decide, by decide, by decide, by decide, by decide, by decide, by decide, (by intro w h; cases h), (by intro e h; cases h),
    (by intro b h; cases h), (by intro e h; cases h), (by intro r h; cases h)⟩⟩
/-- A state with a word to issue, in the form that the invariants say, which a step leaves for a next state. -/
def issuing : State := State.reset.withFetchWord 96 (wR 0x000 0x01 0x008 0x010 0x011 0xC00)
theorem issuing_tidy : issuing.memOk ∧ issuing.tidy :=
  ⟨by decide, ⟨by decide, by decide, by decide, by decide, by decide, by decide, by decide, by decide,
    (by intro w h; simp only [issuing, State.withFetchWord, State.reset, List.nil_append, List.mem_singleton] at h; subst h; exact ⟨by decide, by decide, by decide, by decide⟩),
    (by intro e h; cases h),
    (by intro b h; simp only [issuing, State.withFetchWord, State.reset, List.nil_append, List.mem_singleton] at h; subst h; exact ⟨by decide, by decide⟩),
    (by intro e h; cases h), (by intro r h; cases h)⟩⟩
theorem met_StepsKeepMemoriesCanonical : (match step issuing with | .next _ => true | _ => false) = true := by decide +kernel
theorem met_StepsRunTheDecodedInstruction : (let s := issuing
    s.dueInput.isNone && s.internal.isNone && decide (s.power = .on) && onWave s fun w => decide (s.waveRuns w = true ∧ w.select ≠ 0 ∧ w.quadrant < 4 ∧ w.pcOf w.select % 4 = 0 ∧
        w.preempt = none ∧ s.issuedQ = [] ∧ s.waves.length = 1 ∧ w.replay = []) &&
      match s.waveWord w (w.pcOf w.select) with
        | .ok x => !w.heldBy w.select x s.cyc && !w.fullFor w.select x && (match decodeWave x with | .ok i => i.view.isSome && decide (w.needs w.select i = []) | .illegal _ => false)
        | .error _ => false) = true := by decide +kernel
/-- A word of the sequencer, with no wave able to issue; then one with nothing to issue at all. -/
theorem met_StepsRunTheDecodedInstruction_stream : (let s := State.reset.withFetchWord 96 (wR 0x307 0 0xC00 0xC00 0xC00 0xC00)
    s.dueInput.isNone && s.internal.isNone && onWave s (fun w => match s.find w w.select with | .nothing => true | _ => false) &&
    (s.blocks[0]?).any (fun b => s.streamRuns b && match s.streamFetch b with
      | .ok x => (match decodeStream x with | .ok i => s.streamReady b i | .illegal _ => false) | .error _ => false)) = true ∧
    (State.reset.dueInput.isNone && State.reset.internal.isNone && decide (State.reset.waves = [] ∧ State.reset.blocks = [])) = true := by decide +kernel
theorem met_StepsRunTheDecodedInstruction_input : ({ State.reset with inputs := [(0, .writeRaspol 1)] } : State).dueInput = some (0, .writeRaspol 1) := by decide +kernel
theorem met_CohortsAndWavesAreChosen : (onWave issuing fun w => decide (w.lanes.length = 32 ∧ w.replay = [] ∧ w.slotPassed = false ∧ w.fair = none ∧ w.yielding = none ∧ (w.lane 0).isReady = true ∧
      w.select = 1)) && (issuing.choose 0 0).isSome &&
    (onWave (two fun w => { w with yielding := some 1, lanes := w.lanes.modify 1 fun l => { l with pc := 0x10040 } }) fun w => decide (w.select = 2)) &&
    (onWave (two fun w => { w with yielding := some 1, slotPassed := true, lanes := w.lanes.modify 1 fun l => { l with pc := 0x10040 } }) fun w => decide (w.select = 1)) &&
    (let s := { issuing with waves := issuing.waves.map fun w => { w with replay := [(4, 1)] } }
     (s.choose 0 0).isSome && onWave s fun w => decide (w.replay = [(4, 1)] ∧ w.select = 1)) &&
    (onWave (two fun w => { w with fair := some (2, 1), lanes := w.lanes.modify 1 fun l => { l with pc := 0x10040 } }) fun w => decide (w.select = 2)) = true := by decide +kernel

/-! ### Words that are refused -/

/-- The examples of 02's last section: a reserved rounding, and the same with set flag 13; from a sequencer, reason 0xA. -/
theorem test_reserved_rounding : decodeWave 0x50B192008430050040048051 = .illegal 4 ∧ decodeWave 0x50B192008D30050040048051 = .illegal 3 ∧
    decodeStream 0x50B192008430050040048051 = .illegal 0xA := by decide
/-- The example of 01: its words are 0x5081_9200, 0x8430_0500 and 0x4004_8051. -/
theorem test_ffma_example : decodeTableWord 96 0x508192008430050040048051 =
    some (.ffma ⟨true, 1, 2, 8, some 4, false, false, true, true, false, 1⟩ ⟨.rne, .f32⟩ (.v 10) (.v 8) (.v 9) (.v 10)) := by decide
/-- One ill-formed term for each check of R54 (02) that depends on the operands: reasons 4, 6, 7, 8, 9, and the fill field outside the R form. -/
theorem test_illformed : [
    Instr.imul hdr ⟨.u32, true⟩ (.v 8) (.v 16) (.w 3),
    .ld hdr ⟨0, true, .b64⟩ (.v 8) (.v 16) .none 0,
    .iadd hdr ⟨.s64, false⟩ (.v 8) (.p 1) (.w 3),
    .iadd hdr ⟨.s64, false⟩ (.v 8) (.fpc 1) (.w 3),
    .movw hdr (.v 8) (.v 16) (.w 3),
    .iadd hdr ⟨.s4, false⟩ (.v 8) (.v 16) (.small 9),
    .iadd hdr ⟨.u8, false⟩ (.v 8) (.v 16) (.small (-1)),
    .iadd { hdr with lastB := true } ⟨.s64, false⟩ (.v 8) (.v 16) (.small 9),
    .caprd hdr (.v 8) (.v 17) (.small 0),
    .srd hdr (.v 8) 0x008,
    .mma .k8 (.v 32) (.w 1) (.w 2) (.small (-1)),
    .movi { hdr with fill := 1 } (.v 8) 0].all (fun i => !i.wf) = true := by decide
/-- The reasons 1, 2, 5, 9 and 0xB of R54 and R58 (02), on words with one field wrong. -/
theorem test_reserved_words : [(wR 0x055 0 0x008 0x010 0x403 0xC00, 1), (wR 0x3FF 0 0 0 0 0, 1), (wR 0x303 1 0x020 0x421 0x422 0xA02, 2), (wR 0x000 0x2C 0x008 0x010 0x403 0xC00, 4),
      (wR 0x000 0 0xD00 0x010 0x403 0xC00, 5), (wR 0x000 0 0x008 0x908 0x403 0xC00, 5), (wL 0x0C0 0 0xC00 1 + 1, 9)].all (fun e => decide (decodeWave e.1 = .illegal e.2)) &&
    decide (decodeStream (wR 0x303 1 0x020 0x421 0x422 0xA02 + 2 ^ 55) = .illegal 0xB) = true := by decide

/-! ### What instructions do, on one step each -/

/-- A wave-uniform register with a tag. -/
def uniT (n : Nat) (v : Word) (t : Tag) (w : Wave) : Wave := { w with wregs := SMap.set RegCell.zero w.wregs n ⟨v, t, true, false, false⟩ }
/-- The wave after the instruction. -/
def after (f : Wave → Wave) (i : Instr) : Option Wave := match exec i (small f) with | .next t => t.waves[0]? | _ => none
/-- Values and tags of its last result. -/
def results (f : Wave → Wave) (i : Instr) : List (Word × Tag) :=
  ((after f i).bind fun w => w.wbs.getLast?).elim [] fun b => b.writes.map fun r => (r.val, r.tag)
/-- Cause and first detail of the trap it raised with a handler. -/
def trapOf (f : Wave → Wave) (i : Instr) : Option (Nat × Word) :=
  match exec i (handled (small f)) with
  | .next t => (t.waves[0]?).bind fun w => if w.inHandler then some ((w.trec.headD 0).toNat % 256, w.trec.getD 8 0) else none
  | _ => none
/-- The example of R89 (04): IADD.SAT.S8, and what the plain sum gives in bytes 0 and 1. -/
theorem test_iadd_sat_example : let f := uni 3 0x01000000F010807F ∘ uni 4 0xFF000000F020FF01
    results f (.iadd hdr ⟨.s8, true⟩ (.v 8) (.w 3) (.w 4)) = [(0x00000000E030807F, .s8)] ∧
    results f (.iadd hdr ⟨.s8, false⟩ (.v 8) (.w 3) (.w 4)) = [(0x00000000E0307F80, .s8)] := by decide
/-- R86, R87 (04): a quotient by zero is all ones, a remainder by zero is A; IMULH is the high half. -/
theorem test_idiv_imulh : let f := uni 3 0xFFFFFFF9 ∘ uni 4 2
    results f (.idiv hdr ⟨.s32, false⟩ (.v 8) (.w 3) (.w 4)) = [(0xFFFFFFFFFFFFFFFD, .s32)] ∧ results f (.irem hdr ⟨.s32, false⟩ (.v 8) (.w 3) (.w 4)) = [(0xFFFFFFFF, .s32)] ∧
    results f (.imulh hdr ⟨.u32, false⟩ (.v 8) (.w 3) (.w 4)) = [(1, .u32)] := by decide
/-- R90 to R92 (04): a shift by the width or more; the sign stays in SAR; ROL takes the count modulo the width. -/
theorem test_shifts : let f := uni 3 0x8000000180000001 ∘ uni 4 0x0000000400000020
    results f (.shl hdr ⟨.u32, false⟩ (.v 8) (.w 3) (.w 4)) = [(0x0000001000000000, .u32)] ∧ results f (.sar hdr ⟨.s32, false⟩ (.v 8) (.w 3) (.w 4)) = [(0xF8000000FFFFFFFF, .s32)] ∧
    results f (.rol hdr ⟨.u32, false⟩ (.v 8) (.w 3) (.w 4)) = [(0x0000001880000001, .u32)] ∧ results f (.popc hdr ⟨.u32, false⟩ (.v 8) (.w 3)) = [(0x0000000200000002, .u32)] := by decide
/-- R93, R94 (04): signed and unsigned order; a NaN is unordered, and +0 equals -0. -/
theorem test_compares : let f := uni 3 0xFFFFFFFFFFFFFFFF ∘ uni 4 1 ∘ uni 5 0x7FC00000 ∘ uni 6 0x80000000
    results f (.isetp hdr ⟨.lt, .s64⟩ (.p 1) (.w 3) (.w 4) .none) = [(1, .raw)] ∧ results f (.isetp hdr ⟨.lt, .u64⟩ (.p 1) (.w 3) (.w 4) .none) = [(0, .raw)] ∧
    results f (.fsetp hdr ⟨.ne, .f32⟩ (.p 1) (.w 5) (.w 5) .none) = [(1, .raw)] ∧ results f (.fsetp hdr ⟨.le, .f32⟩ (.p 1) (.w 5) (.w 5) .none) = [(0, .raw)] ∧
    results f (.fsetp hdr ⟨.eq, .f32⟩ (.p 1) (.w 6) (.v 9) .none) = [(1, .raw)] := by decide
/-- R103, R104 (04): MOVI is sign-extended; MOVL.HI keeps the low half. -/
theorem test_moves : results id (.movi hdr (.v 8) 0x7FFFFFF) = [(0xFFFFFFFFFFFFFFFF, .s64)] ∧
    results (fun w => { w with frame := [(32 * 8, ⟨0x1122334455667788, .u32, true, false, false⟩)] }) (.movl hdr .hi (.v 8) 0xAABBCCDD) = [(0xAABBCCDD55667788, .u32)] := by decide
/-- R96 (04): the target is the PC plus four times the immediate; CALL links PC + 12. -/
theorem test_branches : (after id (.bra hdr (-3))).map (fun w => (w.lane 0).pc) = some 0xFFF4 ∧ (after id (.call hdr (.v 8) 6)).map (fun w => (w.lane 0).pc) = some 0x10018 ∧
    results id (.call hdr (.v 8) 6) = [(0x1000C, .u64)] := by decide
/-- The example of R106 (04): GROW.TRAP 80, 72 and 112 and SHRINK 40, with a pool of two granules at F = 64; the granule of the
first has left L1 after 4 cycles (08: R163). -/
theorem test_grow_example : let at_ := fun (F n : Nat) => uni 4 (BitVec.ofNat 64 n) ∘ fun (w : Wave) => { w with frameSize := F, maxframe := 112 }
    (after (at_ 64 80) (.grow hdr .trap (.v 8) (.w 4))).map (fun w => (w.frameSize, w.granted, w.grantDue)) = some (64, 1, 4) ∧
    (after (fun w => { at_ 64 80 w with granted := 1 }) (.grow hdr .trap (.v 8) (.w 4))).map (·.frameSize) = some 80 ∧ (after (at_ 80 72) (.grow hdr .trap (.v 8) (.w 4))).map (·.frameSize) = some 80 ∧
    (after (at_ 80 40) (.shrink hdr (.v 8) (.w 4))).map (·.frameSize) = some 48 ∧ results (at_ 80 40) (.shrink hdr (.v 8) (.w 4)) = [(48, .u64)] := by decide
/-- The example of R111 (04): CAPNRW to rows 4 to 7, read-only, and the request that ends past LEN. -/
theorem test_capnrw_example : let f := fun (x : Word) => uniCap 16 0x1600004000000000 0x3001000000100000 ∘ uni 4 0x4000 ∘ uni 5 x
    results (f 0x1000000000004000) (.capnrw hdr (.v 20) (.w 16) (.w 4) (.w 5)) = [(0x1001000000004000, .raw), (0x1600004000004000, .raw)] ∧
    (trapOf (f 0x10000000000FC001) (.capnrw hdr (.v 20) (.w 16) (.w 4) (.w 5))).map (·.2) = some 4 := by decide
/-- IEEE 754: 1.5 + 2.25 = 3.75, 2^24 + 1 rounds to even in FP32, 1/0 is infinity with its event. -/
theorem test_floats : let f := uniT 3 0x3FC000004B800000 .f32 ∘ uniT 4 0x401000003F800000 .f32
    results f (.fadd hdr ⟨.rne, .f32⟩ (.v 8) (.w 3) (.w 4)) = [(0x407000004B800000, .f32)] ∧ results f (.fmul hdr ⟨.rne, .f32⟩ (.v 8) (.w 3) (.w 4)) = [(0x405800004B800000, .f32)] ∧
    results f (.fdiv hdr ⟨.rne, .f32⟩ (.v 8) (.w 3) (.fpc 0x30)) = [(0x7F8000007F800000, .f32)] := by decide +kernel
/-- R122, R123 (05): 3.75 to an integer, towards zero; 300 saturates S8. -/
theorem test_cvt : results (uniT 3 0x40700000 .f32) (.cvt hdr ⟨.rtz, false, .f32, .s32⟩ (.v 8) (.w 3)) = [(3, .s32)] ∧
    results (uniT 3 300 .s32) (.cvt hdr ⟨.rne, true, .s32, .s8⟩ (.v 8) (.w 3)) = [(127, .s8)] := by decide +kernel
/-- R137 (06): a load of the cached word reads memory, little-endian, sign-extended; a misaligned one traps 0x13. -/
theorem test_load : (let s := { aims id with lines := (aims id).lines.map (fun x => { x with copy := [(0xC, 0x85), (0xD, 0xFF), (0xE, 0xFF), (0xF, 0xFF)] }), view0 := Memory.write [] 0x4C (natLe 4 0xFFFFFF85), view1 := Memory.write [] 0x4C (natLe 4 0xFFFFFF85) }
    match exec (.ld hdr ⟨3, true, .b32⟩ (.v 8) (.w 4) (.small 4) 8) s with
    | .next t => (t.waves[0]?).any fun w => decide ((w.wbs.map fun b => b.writes.map fun r => (r.val, r.tag)) = [[(0xFFFFFFFFFFFFFF85, .s64)]])
    | _ => false) = true := by decide +kernel
/-- R282, R283 (17) and R28 (01): the first failing check of an IADD is the frame's; details: position, register, F. -/
theorem test_frame_range : trapOf id (.iadd hdr ⟨.s64, false⟩ (.v 8) (.v 9) (.v 300)) = some (0x20, 1) := by decide
/-- R158 (06): shuffles; VOTE.BALLOT counts the executing lane; a store becomes a request. -/
theorem test_vote_store : results id (.vote hdr .ballot (.v 8) .none) = [(1, .u64)] ∧
    (match exec (.st hdr ⟨3, .b16⟩ (.small 0x7F) (.w 4) .none 0) (aims id) with
      | .next t => t.reqs.any fun r => decide (r.kind = .store 0x40 [0x7F, 0] ⟨0, 0, 0⟩) | _ => false) = true := by decide +kernel
/-- 14: MCLAIM claims its slots; a range past the tile store stops the sequencer. -/
theorem test_mclaim : (match exec (.mclaim (.w 8) 2) (streamed id id) with
      | .next t => (t.blocks[0]?).any fun b => (b.slot 8).claimed && (b.slot 9).claimed && !(b.slot 10).claimed | _ => false) = true ∧
    (match exec (.mclaim (.w 63) 2) (streamed id id) with | .next t => (t.blocks[0]?).any fun b => decide (b.seq = .stopped) | _ => false) = true := by decide +kernel
/-- 25: MBBIND's step takes an UNBOUND mailbox to PHASE 0; a window's TAKE in PHASE 1 gives PHASE 2. -/
theorem test_take : (match exec (.take 4 1) (boxed 1 id) with | .next t => decide ((t.mb 4).phase = 2) | _ => false) = true := by decide
/-- A device step whose condition does not hold is not taken. -/
theorem test_not_enabled : (match exec (.writeBack 0 7) (small id), exec .powerUp (small id) with | .fault (.notEnabled _), .fault (.notEnabled _) => true | _, _ => false) = true := by
  decide
/-- The step fetches the word at the PC and runs it: the PC goes on and a result is under way. -/
theorem test_step : (match step issuing with | .next t => (t.waves[0]?).any fun w => decide ((w.lane 0).pc = 0x1000C ∧ w.wbs.length = 1) | _ => false) = true := by decide +kernel
end Sys2Proof.Tests
end

namespace Sys2Proof.Machine

/-! ### Thread instructions with a predicate result (04: R83) -/

/-- An instruction with a predicate result and no checks of its own completes with it. -/
theorem start_predResult_completes {s : State} {i : Instr} {cx : Cx} (h : Cx.of s i = some cx) (hp : cx.passes s) (lat : Nat)
    (f : Cx → Nat → Bool) :
    ∃ t, start s i (fun cx => cx.predResult s lat (f cx)) = .next t ∧
      cx.Results s t (s.cyc + lat) false noEvents (cx.predWrites cx.v.d (f cx)) := by
  refine ⟨cx.predResult s lat (f cx), ?_, Cx.Results_pred h lat (f cx)⟩
  unfold start
  exact startWith_passes (own := fun _ => []) (priv := fun _ => none) h hp rfl

/-- An instruction whose whole effect is a predicate result after two cycles decides what that result says. -/
theorem decides_of_predResult {i : Instr} {s : State} {f g : Cx → Nat → Bool}
    (hexec : exec i s = start s i fun cx => cx.predResult s 2 (g cx)) (hfg : ∀ cx l, g cx l = f cx l) : Decides i s f := by
  obtain rfl : g = f := funext₂ hfg
  intro cx hcx hpass
  rw [hexec]
  exact start_predResult_completes hcx hpass 2 g

/-! ### FSETP (04: R94) -/

/-- Sub-element 0 and the whole register have the same low bits. -/
theorem sub_zero_mod_two_pow {w n : Nat} (h : n ≤ w) (v : Word) : sub w 0 v % 2 ^ n = v.toNat % 2 ^ n := by
  simp [sub, Nat.mod_mod_of_dvd _ (pow_dvd_pow 2 h)]

theorem sub_zero_testBit {w n : Nat} (h : n < w) (v : Word) : (sub w 0 v).testBit n = v.getLsbD n := by
  simp [sub, Nat.testBit_mod_two_pow, h, BitVec.testBit_toNat]

/-- The fields of a format below its sign bit are its fraction and its exponent (03: R62). -/
theorem magnitude_eq_fraction_add_exponent (t : FTy) (bits : Nat) :
    bits % 2 ^ (t.width - 1) =
      bits % 2 ^ (prec t - 1) + 2 ^ (prec t - 1) * (bits / 2 ^ (prec t - 1) % 2 ^ expBits t) := by
  have hw : t.width - 1 = (prec t - 1) + expBits t := by cases t <;> rfl
  rw [hw, pow_add, Nat.mod_mul]

/-- A NaN has the largest exponent and a fraction that is not 0 (03: R62). -/
theorem fval_isNan_iff_fields (t : FTy) (bits : Nat) :
    (fval t bits).isNan = true ↔
      bits / 2 ^ (prec t - 1) % 2 ^ expBits t = 2 ^ expBits t - 1 ∧ bits % 2 ^ (prec t - 1) ≠ 0 := by
  simp only [fval]
  split_ifs with htop hfrac
  · simp [FV.isNan, hfrac]
  · simp [FV.isNan, htop, hfrac]
  · simp [FV.isNan, htop]
  · simp [FV.isNan, htop]

/-- A bit pattern is a NaN exactly when its magnitude lies above that of infinity. -/
theorem fval_isNan (t : FTy) (bits : Nat) : (fval t bits).isNan = decide (infBits t < bits % 2 ^ (t.width - 1)) := by
  rw [Bool.eq_iff_iff, decide_eq_true_iff, fval_isNan_iff_fields, magnitude_eq_fraction_add_exponent, infBits, Nat.mul_comm]
  have hf : bits % 2 ^ (prec t - 1) < 2 ^ (prec t - 1) := Nat.mod_lt _ (by positivity)
  have he : bits / 2 ^ (prec t - 1) % 2 ^ expBits t < 2 ^ expBits t := Nat.mod_lt _ (by positivity)
  generalize bits % 2 ^ (prec t - 1) = f at *
  generalize bits / 2 ^ (prec t - 1) % 2 ^ expBits t = e at *
  by_cases htop : e = 2 ^ expBits t - 1
  · simp [htop, Nat.pos_iff_ne_zero]
  · have hle : 2 ^ (prec t - 1) * (e + 1) ≤ 2 ^ (prec t - 1) * (2 ^ expBits t - 1) := Nat.mul_le_mul_left _ (by omega)
    rw [Nat.mul_succ] at hle
    simp only [htop, false_and, false_iff]
    omega

/-- The place of the number in sub-element 0 in the order of values: its sign and magnitude, both zeros at 0. -/
def orderPlace (t : FTy) (v : Word) : Int :=
  let mag := v.toNat % 2 ^ (t.width - 1)
  if v.getLsbD (t.width - 1) then -(mag : Int) else mag

/-- Sub-element 0 of one of the two words holds a NaN. -/
def unordered (t : FTy) (a b : Word) : Bool :=
  decide (infBits t < a.toNat % 2 ^ (t.width - 1)) || decide (infBits t < b.toNat % 2 ^ (t.width - 1))

/-- R94's table: the relation of two places, and what an operand that is a NaN makes of it. -/
def relation (c : Cond) (nan : Bool) (p q : Int) : Bool :=
  match c with
  | .num => !nan
  | .nan => nan
  | .ne => nan || decide (p ≠ q)
  | .eq => !nan && decide (p = q)
  | .lt => !nan && decide (p < q)
  | .le => !nan && decide (p ≤ q)
  | .gt => !nan && decide (q < p)
  | .ge => !nan && decide (q ≤ p)

theorem fCond_sub_zero (t : FTy) (c : Cond) (a b : Word) :
    fCond t c (sub t.width 0 a) (sub t.width 0 b) = relation c (unordered t a b) (orderPlace t a) (orderPlace t b) := by
  have hw : t.width - 1 < t.width := by cases t <;> decide
  simp only [fCond, fval_isNan, sub_zero_mod_two_pow hw.le, sub_zero_testBit hw]
  cases c <;> rfl

/-- Settles O5: sub-element 0 is read as a sign and a magnitude, and a NaN is a magnitude above that of infinity. -/
theorem fsetpComparesUnderIeee : Obligations.FsetpComparesUnderIeee := by
  rintro s h ⟨c, t⟩ d a b x
  refine decides_of_predResult rfl fun cx l => ?_
  rw [fCond_sub_zero]
  -- A condition names its row of the table, a format its widths: the two sides then compute to the same.
  cases c <;> cases t <;> rfl

/-! ### CAPCHK (04: R112) -/

theorem capPerms_testBit (w : Word) {k : Nat} (hk : k < 3) : (capPerms w).testBit k = w.getLsbD (60 + k) := by
  rw [capPerms, show 8 = 2 ^ 3 from rfl, Nat.testBit_mod_two_pow, Nat.testBit_div_two_pow]
  simp [hk, Nat.add_comm, BitVec.getLsbD]

/-- A set of permissions lies within those of a capability exactly when each of its bits is there. -/
theorem and_capPerms_eq_self_iff (m : BitVec 3) (w : Word) :
    m.toNat &&& capPerms w = m.toNat ↔ ∀ k < 3, m.getLsbD k = true → w.getLsbD (60 + k) = true := by
  constructor
  · intro h k hk hm
    have hbit := congrArg (fun n => n.testBit k) h
    simpa [capPerms_testBit w hk, BitVec.testBit_toNat, hm] using hbit
  · intro h
    refine Nat.eq_of_testBit_eq fun k => ?_
    rw [Nat.testBit_and]
    by_cases hk : k < 3
    · have := h k hk
      simpa [capPerms_testBit w hk, BitVec.testBit_toNat] using this
    · simp [BitVec.testBit_toNat, BitVec.getLsbD_of_ge m k (by omega)]

/-- Settles O11: CAPCHK has no check of its own, and a mask of permissions is tested bit by bit. -/
theorem capchkTests : Obligations.CapchkTests := by
  intro s h m d a b x
  refine decides_of_predResult rfl fun cx l => ?_
  congr 1
  rw [Bool.eq_iff_iff]
  simp [and_capPerms_eq_self_iff, or_iff_not_imp_left]

end Sys2Proof.Machine

namespace Sys2Proof.Machine

/-! ### A trap at issue enters the handler (17: R283, R286; 10: R414) -/

theorem bitIf_eq_toNat_mul (b : Bool) (n : Nat) : bitIf b n = b.toNat * 2 ^ n := by cases b <;> simp [bitIf]

/-- Word 0 of a record: above the cause and two flags every field begins at bit 12 or higher. -/
theorem State.record_word0 (s : State) (w : Wave) (cause : Nat) (report : Bool) (pc : Nat) (lanes : LaneMask)
    (details appendix : List Word) :
    ∃ high, (s.record w cause report pc lanes details appendix).words.headD 0 =
      BitVec.ofNat 64 (cause + report.toNat * 2 ^ 8 + w.level.toNat * 2 ^ 11 + high * 2 ^ 12) := by
  refine ⟨(if appendix.isEmpty then 1 else 3) + w.tenant % 64 * 2 ^ 4 + w.asid % 65536 * 2 ^ 20, ?_⟩
  simp only [State.record, List.cons_append, List.headD_cons, bitIf_eq_toNat_mul]
  congr 1
  omega

/-- The low byte of word 0 of a record is its cause. -/
theorem State.record_cause (s : State) (w : Wave) {cause : Nat} (hc : cause < 256) (report : Bool) (pc : Nat) (lanes : LaneMask)
    (details appendix : List Word) :
    ((s.record w cause report pc lanes details appendix).words.headD 0).toNat % 256 = cause := by
  obtain ⟨high, h⟩ := s.record_word0 w cause report pc lanes details appendix
  rw [h, BitVec.toNat_ofNat]
  omega

/-- Bit 11 of word 0 of a record says whether the wave stood at S level. -/
theorem State.record_level (s : State) (w : Wave) {cause : Nat} (hc : cause < 256) (report : Bool) (pc : Nat) (lanes : LaneMask)
    (details appendix : List Word) :
    ((s.record w cause report pc lanes details appendix).words.headD 0).getLsbD 11 = w.level := by
  obtain ⟨high, h⟩ := s.record_word0 w cause report pc lanes details appendix
  have hr := report.toNat_le
  rw [h, BitVec.getLsbD_ofNat, Nat.testBit_eq_decide_div_mod_eq]
  cases w.level <;> simp <;> omega

/-- Word 4 of a record names the lanes. -/
theorem State.record_lanes (s : State) (w : Wave) (cause : Nat) (report : Bool) (pc : Nat) (lanes : LaneMask)
    (details appendix : List Word) :
    (s.record w cause report pc lanes details appendix).words.getD 4 0 = lanes.setWidth 64 :=
  BitVec.ofNat_toNat 64 lanes

/-- The lanes of a wave that enters its handler: the trapping ones at TVEC, the other live ones held. -/
theorem Wave.lane_enterHandler (w : Wave) (t : Trap) (pc : Nat) (tvec : Word) (r : Record) (cyc : Nat) {l : Nat}
    (hl : l < w.lanes.length) :
    (w.enterHandler t pc tvec r cyc).lane l =
      if t.lanes.getLsbD l then { w.lane l with pc := tvec.toNat, lastIssue := none }
      else if (w.lane l).status = .exited then w.lane l else { w.lane l with held := true } := by
  simp [Wave.enterHandler, Wave.lane, List.getD, hl, Lane.isExited]

/-- A trap of a wave that is in no handler, of a tenant with a handler address, is an entry into the handler. -/
theorem State.Enters_takeTrap {s : State} {wi : Nat} {w : Wave} (t : Trap) (h : s.wave? wi = some w) (hw : w.inHandler = false)
    (ht : (s.tenant w.tenant).tvec ≠ 0) (hc : t.cause < 256) :
    s.Enters (s.takeTrap wi t) wi w t.lanes t.cause (w.pcOf t.lanes)
      (if t.next then w.pcOf t.lanes + 12 else w.pcOf t.lanes) t.details := by
  rw [takeTrap_enters t h hw ht]
  set pc := w.pcOf t.lanes
  set tvec := (s.tenant w.tenant).tvec
  set r := s.record w t.cause false pc t.lanes t.details []
  have hcause : (r.words.headD 0).toNat % 256 = t.cause := s.record_cause w hc ..
  have hlevel : (r.words.headD 0).getLsbD 11 = w.level := s.record_level w hc ..
  have hlanes : r.words.getD 4 0 = t.lanes.setWidth 64 := s.record_lanes ..
  refine ⟨rfl, rfl, fun k hk => State.wave?_setWave_ne s _ hk, w.enterHandler t pc tvec r s.cyc, ?entered, rfl, rfl, rfl, rfl, rfl,
    hcause, hlevel, rfl, hlanes, rfl, rfl, rfl, fun l hl => w.lane_enterHandler t pc tvec r s.cyc hl, rfl, rfl, rfl, rfl, rfl⟩
  case entered => exact State.wave?_setWave_self s wi _ (List.getElem?_eq_some_iff.mp h).1

/-- The same of a trap raised at issue, unless it is a consumption in a contained kernel, which kills the block (16: R276):
the journal's entry and the marks of the quadrant's scheduler are all that it does besides. -/
theorem State.Enters_raise {s : State} {wi : Nat} {w : Wave} (t : Trap) (h : s.wave? wi = some w) (hw : w.inHandler = false)
    (ht : (s.tenant w.tenant).tvec ≠ 0) (hc : t.cause < 256) (hk : ¬(t.cause = 0x51 ∧ s.contained w = true)) :
    s.Enters (s.raise wi t) wi w t.lanes t.cause (w.pcOf t.lanes)
      (if t.next then w.pcOf t.lanes + 12 else w.pcOf t.lanes) t.details := by
  simp only [State.raise, h, if_neg hk]
  generalize (if wi = s.cur then s.curLanes else 0) = lanes
  have hmarked : ((s.journalise wi w lanes).setWave wi (w.trapsAtIssue t.lanes)).wave? wi = some (w.trapsAtIssue t.lanes) := by
    simp [State.wave?, State.setWave, State.journalise, State.bump, (List.getElem?_eq_some_iff.mp h).1]
  obtain ⟨hrest, hslot, hothers, hwave⟩ := State.Enters_takeTrap t hmarked hw ht hc
  exact ⟨hrest, hslot, fun k hk => (hothers k hk).trans (State.wave?_setWave_ne _ _ hk), hwave⟩

/-! ### TRAP (17: R292) -/

/-- An instruction with no checks of its own has its effect where the common checks pass. -/
theorem start_passes {s : State} {i : Instr} {cx : Cx} (h : Cx.of s i = some cx) (hp : cx.passes s) (k : Cx → State) :
    start s i k = .next (k cx) := by
  unfold start
  exact startWith_passes (own := fun _ => []) (priv := fun _ => none) h hp rfl

/-- Where the common checks pass, TRAP goes on if no lane executes, and raises its trap otherwise. -/
theorem exec_trap_of_passes {s : State} {h : Hdr} {a : Operand} {imm : BitVec 16} {cx : Cx}
    (hcx : Cx.of s (.trap h a imm) = some cx) (hp : cx.passes s) :
    exec (.trap h a imm) s = .next (if cx.ex = 0 then cx.advance (cx.issue s noEvents)
      else s.raise cx.wi ⟨cx.ex, 0x04, true, [BitVec.ofNat 64 imm.toNat, cx.a s cx.low]⟩) :=
  start_passes hcx hp _

/-- Settles O26: TRAP is an issue that goes on, or a trap at issue with the resume PC at the next instruction. -/
theorem trapRaisesSoftTrap : Obligations.TrapRaisesSoftTrap := by
  intro s h a imm cx hcx hp
  rw [exec_trap_of_passes hcx hp]
  constructor
  · intro hex
    exact ⟨_, congrArg _ (if_pos hex), (issue_completes hcx noEvents).advance⟩
  · intro hex hin htvec
    obtain ⟨hw, hwi, -⟩ := Cx.of_some hcx
    refine ⟨_, congrArg _ (if_neg hex), ?_⟩
    exact State.Enters_raise _ (hwi ▸ hw) hin htvec (by simp) (by simp)

end Sys2Proof.Machine
